-- ==== Sys2Proof/Word.lean ====
section
/-! DEFINITION. The word types of the Chielm SA1 (00_scope R12): bytes, register words, byte strings. -/

namespace Sys2Proof

/-- One byte. -/
abbrev Byte := BitVec 8
/-- A byte string as it lies in memory, lowest address first (R12: little-endian structures). -/
abbrev Bytes := List Byte
/-- A 32-bit word: a register, an fp32 encoding, a client_id as software sees it. -/
abbrev W32 := BitVec 32
/-- A 64-bit word: a register, a command counter, a scalar register of Falnyx. -/
abbrev W64 := BitVec 64

end Sys2Proof
end

