-- ==== Sys2Proof/Syntax.lean ====
section
/-! DEFINITION. The commands and events the block takes: one constructor of Instr per row of spec/opcode_table.json, with
the operands the spec gives the row (assumption 1 says how the operands were chosen, since the table gives none). -/

namespace Sys2Proof

/-- The two PCI Express ports (R252). -/
inductive Port where
  | p0 | p1
  deriving DecidableEq, Repr

/-- The two aggregation dies (R17). -/
inductive Die where
  | ad0 | ad1
  deriving DecidableEq, Repr

/-- A PCI Express function: the PF of a port, or VF n on a port (R252). -/
inductive Fn where
  | pf (port : Port)
  | vf (port : Port) (n : Nat)
  deriving DecidableEq, Repr

/-- Names one command that was taken: its function, its source (0-15 the SQ, 16-19 a P0 slot: R261) and its
command_id. R259 makes the triple unambiguous. -/
structure CmdRef where
  fn        : Fn
  source    : Nat
  commandId : BitVec 16
  deriving DecidableEq, Repr

/-- The operand fields of a Falnyx instruction word (R233); the opcode is the row's. -/
structure FWord where
  cls    : BitVec 4
  domain : BitVec 4
  dst    : BitVec 4
  srcA   : BitVec 4
  srcB   : BitVec 4
  modif  : BitVec 4
  imm    : W32
  deriving DecidableEq, Repr

/-- What a cold or warm boot meets from outside (R414, R415): start-up tamper sources, units that fail built-in
self-test, stacks that fail HBM training, a fault in Keeper, power manager or fuses, and the version words the two ends
of the three die bridges send (R32; an empty list stands for bridges that run the versions they ran before). -/
structure BootInputs where
  tamper      : List Nat := []
  stewards    : BitVec 8 := 0
  caravans    : BitVec 48 := 0
  porters     : BitVec 16 := 0
  x25519      : BitVec 8 := 0
  badStacks   : BitVec 8 := 0
  keeperFault : Bool := false
  bridges     : List (W32 × W32) := []
  deriving DecidableEq, Repr

/-- Kinds of unit a fault can hit (R368, R386, REL.LOG unit_kind of R390; 10 to 13 lie outside the fault model). -/
inductive UnitKind where
  | caravan | steward | porter | hbm | bridge | porush | port | x25519 | island
  | stack | die | crossBridge | keeper
  deriving DecidableEq, Repr

/-- A detection: the unit, the row of R371 (counted from 1), whether the mechanism corrected the error in place, the
partition at work, and what R374 asks of the unit's history that no register of the part records. -/
structure FaultInfo where
  kind          : UnitKind
  index         : Nat
  mechanism     : Nat
  corrected     : Bool := false
  partition     : Option Nat := none
  inReplay      : Bool := false
  thirdInTen    : Bool := false
  watchdogAgain : Bool := false
  values        : BitVec 128 := 0
  deriving DecidableEq, Repr

/-- What one duty evaluation reads (R428, R429): package power and the seven rail powers in watts, the highest junction
of each die in degrees Celsius, in the order AD0, AD1, HD. -/
structure DutyReadings where
  package : Nat
  rails   : List Nat
  temps   : List Int
  deriving DecidableEq, Repr

/-- What link training meets (R395, R396): a signal and equalisation, the usable halves, the partner's block and its
confirmation. -/
structure TrainingInputs where
  signal       : Bool
  full         : Bool
  lowHalf      : Bool
  highHalf     : Bool
  partnerBlock : Bytes
  confirmation : Bytes
  deriving DecidableEq, Repr

/-- A source that raises a tamper alarm: the cause, and of cause 3 whether the rail is VAON (R328). -/
structure AlarmSource where
  cause : Nat
  aon   : Bool
  deriving DecidableEq, Repr

/-- What an island's canaries give: their rates in M beats/s, and the junction temperature in C (R387, R388). -/
structure CanaryRates where
  rates    : List Nat
  junction : Int
  deriving DecidableEq, Repr

/-- A clock that a watchdog finds stopped: its island's, or that of the PLL that two islands share (R362). -/
structure StoppedClock where
  island : Nat
  pll    : Bool
  deriving DecidableEq, Repr

/-- Consumers of DRBG output (R345). -/
inductive DrawConsumer where
  | createNonce | checkpointSalt | attestKeys | roundSecret | finishKeys
  deriving DecidableEq, Repr

/-- Why a checkpoint is taken (R59). -/
inductive CkptCause where
  | interval | admissions | journal | final
  deriving DecidableEq, Repr

/-- Why the device leaves Doze (R423). -/
inductive DozeExitCause where
  | ctrlWrite | d0Return (port : Port) | command
  deriving DecidableEq, Repr

/-- A queue of the cell pool, as R381 lists them. -/
inductive QueueId where
  | sq (fn : Fn) (n : Nat)
  | cq (fn : Fn) (n : Nat)
  | p0Slots (fn : Fn)
  | mailbox (cv : Nat)
  | keeperMail (steward : Nat)
  | porter (p : Nat)
  | drbg (n : Nat)
  | events (p : Nat)
  deriving DecidableEq, Repr

/-- A held-event list: a partition's, or the device's (R263). -/
inductive EventTarget where
  | part (p : Nat)
  | device
  deriving DecidableEq, Repr

/-- What a circuit's lead sends a member (R401, R402, R405, R406): the round block, a refused join, a change of the round
state, its outcome for a forwarded command, a checkpoint watermark, and a row's results; and, at the lead, a command that a
member forwards. -/
inductive LeadChange where
  | opened (secret : Bytes)
  | refused
  | close (survivors : List Nat)
  | unmasking
  | finishing (kNoise : Option Bytes) (n : Nat)
  | exported
  | retire
  | abort
  | asked (member : Nat) (opcode : Nat)
  | answer (opcode : Nat) (code : Byte)
  | checkpoint (w : Nat) (final : Bool)
  | rowResult (row : Nat) (norm factor maxAbs : W32)
  deriving DecidableEq, Repr

/-- What members and lead exchange about one admission, and what a member reports of the round (R403, R405, R406): its seeds
reconstructed, and its tiles, or in FINISHING its images, complete. -/
inductive MemberMsg where
  | verdict (code : Byte)
  | number (seq : Nat)
  | committed
  | admitted
  | refused (code : Byte)
  | lodged (w number : Nat)
  | seedsDone
  | tilesDone
  deriving DecidableEq, Repr

/-- The commands and events. One constructor per row of the table, in the table's order. -/
inductive Instr where
  | partCreate (ref : CmdRef)
  | partRelease (ref : CmdRef)
  | scrubFillDone (p : Nat)
  | portFailover (ref : CmdRef)
  | roundOpen (ref : CmdRef) (buf : Bytes)
  | roundClose (ref : CmdRef)
  | roundResume (ref : CmdRef) (buf : Bytes)
  | roundRetire (ref : CmdRef)
  | roundOutbuf (ref : CmdRef)
  | admitEnvelope (ref : CmdRef) (header : Bytes) (enc : Bytes)
  | porterSegmentStage (ref : CmdRef) (idx : Nat) (seg : Bytes)
  | admissionPass (cv : Nat) (ref : CmdRef) (idx : Nat)
  | admissionCommit (ref : CmdRef)
  | unmaskSeeds (ref : CmdRef) (buf : Bytes)
  | shareOutbuf (ref : CmdRef)
  | shareVerify (ref : CmdRef) (buf : Bytes)
  | shareDrop (ref : CmdRef)
  | shareCombine (ref : CmdRef) (buf : Bytes)
  | ctAdd (ref : CmdRef)
  | ctPmul (ref : CmdRef) (buf : Bytes)
  | ctRot (ref : CmdRef)
  | ctLut (ref : CmdRef)
  | keyRotate (ref : CmdRef)
  | keyInstall (ref : CmdRef) (buf : Bytes)
  | keysetLoad (ref : CmdRef) (buf : Bytes)
  | keysetUnload (ref : CmdRef)
  | itinLoad (ref : CmdRef) (buf : Bytes)
  | itinUnload (ref : CmdRef)
  | weightsLoad (ref : CmdRef) (buf : Bytes)
  | weightsReadBack (ref : CmdRef)
  | sessionStart (ref : CmdRef) (buf : Bytes)
  | sessionRecord (ref : CmdRef) (buf : Bytes)
  | sessionEnd (ref : CmdRef) (buf : Bytes)
  | attest (ref : CmdRef) (nonce : Bytes)
  | fence (ref : CmdRef)
  | abort (ref : CmdRef)
  | quiesceEnter (ref : CmdRef)
  | quiesceLeave (ref : CmdRef)
  | fwStage (ref : CmdRef) (buf : Bytes)
  | debugSet (ref : CmdRef) (buf : Bytes)
  | sqTailDoorbell (fn : Fn) (n : Nat) (v : W32)
  | cqHeadDoorbell (fn : Fn) (n : Nat) (v : W32)
  | descriptorFetch (fn : Fn) (n : Nat) (raw : Bytes)
  | p0Doorbell (fn : Fn) (slot : Nat) (raw : Bytes)
  | p0TagVerdict (fn : Fn) (slot : Nat)
  | sqEnable (fn : Fn) (n : Nat)
  | sqDisable (fn : Fn) (n : Nat)
  | cqEnable (fn : Fn) (n : Nat)
  | cqDisable (fn : Fn) (n : Nat)
  | registerWrite (fn : Fn) (offset : Nat) (width : Nat) (v : W64)
  | hubReset (v : W32) (boot : BootInputs)
  | i3cReset (v : W32) (boot : BootInputs)
  | groupRestart (v : W32)
  | recoveryCtrl (v : W64) (boot : BootInputs)
  | i3cRecoveryCtrl (v : W64) (boot : BootInputs)
  | i3cRecoveryData (data : Bytes)
  | pwrDoze
  | dozeEntry
  | dozeExit (cause : DozeExitCause)
  | pwrSleep
  | sleepWake (boot : BootInputs)
  | i3cWake (boot : BootInputs)
  | outsiderChallenge (challenge : Bytes)
  | linkRetrain (l : Nat)
  | porushLinkOpen (l : Nat) (t : TrainingInputs)
  | porushRetryTimer (l : Nat)
  | porushFlitReceive (l : Nat) (flit : Bytes)
  | porushLaneFail (l : Nat) (lane : Nat)
  | porushLinkFail (l : Nat)
  | porushMessage (l : Nat) (msg : Bytes)
  | circuitJoin (p : Nat) (member : Nat) (proof : Bytes) (descDigest : Bytes) (w : Nat)
  | circuitVerdict (p : Nat) (member : Nat) (client : Nat) (msg : MemberMsg)
  | circuitStateChange (p : Nat) (change : LeadChange)
  | rowPartialMerge (p : Nat) (row : Nat) (member : Nat) (partialWord : Bytes)
  | pwrgoodAssert (boot : BootInputs)
  | powerLoss
  | perstAssert (port : Port)
  | perstDeassert (port : Port)
  | flrVf (port : Port) (n : Nat)
  | flrPf (port : Port)
  | linkDown (port : Port)
  | tamperAlarm (source : AlarmSource)
  | thermalTrip
  | dutyEvaluation (r : DutyReadings)
  | canaryReading (island : Nat) (c : CanaryRates)
  | ageingRecordWrite
  | entropySample (bank : Nat) (oscillators : W64)
  | bankRetest (bank : Nat)
  | drbgInstantiate (n : Nat)
  | reseedServe (n : Nat)
  | drbgQueueRefill (n : Nat)
  | drbgDraw (n : Nat) (consumer : DrawConsumer)
  | watchdogExpiry (clock : StoppedClock)
  | crossingResync (island : Nat) (islandSide : Bool)
  | coalesceTimer (fn : Fn) (n : Nat)
  | eventPost (t : EventTarget)
  | checkpointTake (p : Nat) (cause : CkptCause)
  | mirrorCopyDone (p : Nat) (tile : Nat)
  | checkpointExportDone (p : Nat) (addr : W64)
  | enterUnmasking (p : Nat)
  | enterFinishing (p : Nat)
  | enterExported (p : Nat)
  | secretReconstruct (p : Nat) (client : Nat)
  | unmaskTileDone (p : Nat) (tile : Nat)
  | finishPassDone (p : Nat)
  | applyTileCommit (p : Nat) (tile : Nat)
  | imageWriteConfirm (p : Nat) (image : Nat)
  | verifierRecord (p : Nat) (client : Nat)
  | clientDecide (p : Nat) (client : Nat)
  | refreshCommit (p : Nat) (handle : Nat)
  | keyDrainEnd (p : Nat) (handle : W32)
  | reencryptionSweepEnd (p : Nat)
  | contextSwitch (cv : Nat) (p : Nat)
  | stepDispatch (cv : Nat)
  | workStart (cv : Nat) (p : Nat) (role : Nat) (args : List W64) (chain : Option Nat)
  | stepBudgetEnd (cv : Nat)
  | workEndComplete (cv : Nat)
  | ledgSaveAck (cv : Nat)
  | swapAtLedger (cv : Nat)
  | nop (cv : Nat) (w : FWord)
  | set (cv : Nat) (w : FWord)
  | addx (cv : Nat) (w : FWord)
  | subx (cv : Nat) (w : FWord)
  | mulx (cv : Nat) (w : FWord)
  | minx (cv : Nat) (w : FWord)
  | shx (cv : Nat) (w : FWord)
  | andx (cv : Nat) (w : FWord)
  | cmp (cv : Nat) (w : FWord)
  | br (cv : Nat) (w : FWord)
  | endWork (cv : Nat) (w : FWord)
  | step (cv : Nat) (w : FWord)
  | stepYield (cv : Nat) (w : FWord)
  | sdesc (cv : Nat) (w : FWord)
  | sset (cv : Nat) (w : FWord)
  | lset (cv : Nat) (w : FWord)
  | link (cv : Nat) (w : FWord)
  | sweep (cv : Nat) (w : FWord)
  | wait (cv : Nat) (w : FWord)
  | byp (cv : Nat) (w : FWord)
  | openAead (cv : Nat) (w : FWord)
  | unpack (cv : Nat) (w : FWord)
  | ksLoad (cv : Nat) (w : FWord)
  | ksFold (cv : Nat) (w : FWord)
  | combAdd (cv : Nat) (w : FWord)
  | combSub (cv : Nat) (w : FWord)
  | combMul (cv : Nat) (w : FWord)
  | ledgAcc (cv : Nat) (w : FWord)
  | ledgSwap (cv : Nat) (w : FWord)
  | ledgSave (cv : Nat) (w : FWord)
  | ledgLoad (cv : Nat) (w : FWord)
  | turn (cv : Nat) (w : FWord)
  | nttF (cv : Nat) (w : FWord)
  | nttI (cv : Nat) (w : FWord)
  | auto (cv : Nat) (w : FWord)
  | finRows (cv : Nat) (w : FWord)
  | finNoise (cv : Nat) (w : FWord)
  | finScale (cv : Nat) (w : FWord)
  | finClip (cv : Nat) (w : FWord)
  | finApply (cv : Nat) (w : FWord)
  | sealAead (cv : Nat) (w : FWord)
  | hash (cv : Nat) (w : FWord)
  | ksw (cv : Nat) (w : FWord)
  | refresh (cv : Nat) (w : FWord)
  | faultDetected (f : FaultInfo)
  | tileRepair (p : Nat) (tile : Nat) (primary mirror : Bool)
  | stewardRebuild (p : Nat)
  | queuePointerMismatch (q : QueueId)
  | islandWake (island : Nat)
  | roundStateDestroyed (p : Nat)
  | islandClockReturn (island : Nat)
  | dataLinkUp (port : Port)
  | d3hotEntry (port : Port)
  | attestationCertificateSigned
  deriving DecidableEq, Repr

end Sys2Proof
end

