-- ==== Sys2Proof/Config.lean ====
section
/-! DEFINITION. What one part fixes and what the spec leaves open, as constants WITHOUT a body: nothing can be proved of
their values, so a claim holds for every value. Three groups: facts fused into one part, functions of published standards
that the spec names and does not write out (assumption 2), and free values (assumption 3). -/

namespace Sys2Proof.Config

-- Facts fused at manufacture (R3, R286, R313, R412).
/-- Fused root i, 0 to 4: 256 bits (R286). -/
opaque root : Nat → BitVec 256
/-- device_serial, in the fuse array, not secret (R313). -/
opaque deviceSerial : W64
/-- Which of the 32 symbols stands at each of the four positions of the fabric group code (R3). -/
opaque fabricGroupSymbol : Fin 4 → Fin 32
/-- The 32 symbols of a fabric group code, as ASCII: the digits and the letters but I, L, O and U (R3). -/
def fabricGroupSymbols : Bytes :=
  [0x30, 0x31, 0x32, 0x33, 0x34, 0x35, 0x36, 0x37, 0x38, 0x39, 0x41, 0x42, 0x43, 0x44, 0x45, 0x46, 0x47, 0x48, 0x4A, 0x4B, 0x4D,
   0x4E, 0x50, 0x51, 0x52, 0x53, 0x54, 0x56, 0x57, 0x58, 0x59, 0x5A]
/-- The fabric group code: four ASCII characters of the alphabet (R3). -/
def fabricGroupCode : Bytes := (List.finRange 4).map (fun i => fabricGroupSymbols.getD (fabricGroupSymbol i).val 0)
/-- CMD.VERSION.stepping (R283: no value given). -/
opaque stepping : BitVec 8
/-- The 48-byte firmware public key that the ROM holds (R412). -/
opaque firmwareKey : Bytes

/-- The version word that the part sends in a Porush training block, in the form of R32 (R395: no value given). -/
opaque linkVersion : W32
/-- The end-to-end acknowledgement of a message, whose bytes the spec does not give: the acknowledged message's header
(R399). -/
opaque ackMessage : Bytes → Bytes

/-- The bytes of a circuit message's body, whose layout the spec does not give: its numbers, its byte strings (R399). -/
opaque circuitBody : List Nat → List Bytes → Bytes

/-- The selective IDE stream ID that the host's configuration of a function on a port gives (R322): PF or not, VF
number, port. -/
opaque ideStreamId : Bool → Nat → Nat → Nat

/-- A canary's rate in M beats/s projected to 105 C junction, by the island's temperature coefficient, which was measured at manufacture and
stands in the fuse array; the spec gives neither its value nor the formula (R388): island, rate read, junction in C. -/
opaque canaryAt105 : Nat → Nat → Int → Nat

-- Functions of the published standards that the spec cites.
/-- SHA-256. -/
opaque sha256 : Bytes → Bytes
/-- HMAC-SHA-256, key then message. -/
opaque hmacSha256 : Bytes → Bytes → Bytes
/-- HKDF-Extract of RFC 5869: salt, IKM. -/
opaque hkdfExtract : Bytes → Bytes → Bytes
/-- HKDF-Expand of RFC 5869: PRK, info, length in bytes. -/
opaque hkdfExpand : Bytes → Bytes → Nat → Bytes
/-- AES-128 and AES-256 on one 16-byte block: key, block. -/
opaque aes128 : Bytes → Bytes → Bytes
opaque aes256 : Bytes → Bytes → Bytes
/-- The ChaCha20 block of RFC 8439: key, nonce (12 B), block counter. -/
opaque chacha20Block : Bytes → Bytes → Nat → Bytes
/-- AEAD of R51: aead code (0 AES-256-GCM, 1 ChaCha20-Poly1305), key, nonce, additional data, plaintext; the ciphertext
followed by its 16-byte tag. -/
opaque aeadSeal : Nat → Bytes → Bytes → Bytes → Bytes → Bytes
/-- The inverse of aeadSeal: none when the tag fails. -/
opaque aeadOpen : Nat → Bytes → Bytes → Bytes → Bytes → Option Bytes
/-- X25519 of RFC 7748: private key, public key. -/
opaque x25519 : Bytes → Bytes → Bytes
/-- ML-KEM-768 (FIPS 203): KeyGen_internal of the seeds d and z, as encapsulation and decapsulation key; Decaps of a ciphertext. -/
opaque mlkem768KeyGen : Bytes → Bytes → Bytes × Bytes
opaque mlkem768Decaps : Bytes → Bytes → Bytes
/-- ML-KEM-1024 (FIPS 203): encapsulation key of the seed d then z, and decapsulation under that seed. -/
opaque mlkem1024Ek : Bytes → Bytes
opaque mlkem1024Decaps : Bytes → Bytes → Bytes
/-- SLH-DSA (FIPS 205, deterministic, empty context): algorithm code of R313, seed, body; and public key. -/
opaque slhdsaSign : Nat → Bytes → Bytes → Bytes
opaque slhdsaPublicKey : Nat → Bytes → Bytes
/-- SLH-DSA-SHA2-192s verification: public key, message, signature. -/
opaque slhdsaVerify : Bytes → Bytes → Bytes → Bool
/-- CTR_DRBG of SP 800-90A with AES-256 and no derivation function (R341): instantiate (entropy, personalization),
reseed (state, entropy), generate 64 bytes (state; new state and output). -/
opaque ctrDrbgInstantiate : Bytes → Bytes → Bytes
opaque ctrDrbgReseed : Bytes → Bytes → Bytes
opaque ctrDrbgGenerate : Bytes → Bytes × Bytes

-- Results to which the spec fixes no computation.
/-- The words of a modulus-switched ciphertext (R188 names the operation; no formula is stated): the key set's numbers, target
limbs, body. -/
opaque modSwitchBody : List (List Nat) → Nat → List Nat → List Nat
/-- The words of CT.PMUL's result: the key set's numbers, ciphertext body, plaintext polynomial (R188). -/
opaque plainMulBody : List (List Nat) → List Nat → List Nat → List Nat
/-- The words of a key switch: the key set's numbers, ciphertext body, and the words of the evaluation key that it reads (R191,
R192). -/
opaque keySwitchBody : List (List Nat) → List Nat → List Nat → List Nat
/-- The plaintext values to which the slots of a ciphertext decrypt: the key set's numbers, body (R193). -/
opaque slotValues : List (List Nat) → List Nat → List Nat
/-- The words of phases 1, 2 and 4 of a REFRESH: the key set's numbers with its evaluation keys, phase, words before it. They keep
the slots' values (R196). -/
opaque refreshPhase : List (List Nat) → Nat → List Nat → List Nat
/-- The words of phase 3: a ciphertext made from the words before it whose slots decrypt to the values given (R193, R196). -/
opaque slotCipher : List (List Nat) → List Nat → List Nat → List Nat
/-- Beats of stream entry of a phase of REFRESH, for parameters whose figures the spec leaves to Damesh: the key set's numbers, phase,
table entries (R196). -/
opaque refreshBeats : List (List Nat) → Nat → Nat → Nat

-- Free values.
/-- A fresh unconstrained 64-bit word for each value of State.freeCount: estimates of time (R35, R72, R75, R262). -/
opaque freeWord : Nat → W64
/-- A fresh unconstrained bit: does an unordered read return the old line (R239)? Free count, line address. -/
opaque freeLine : Nat → Nat → Bool
/-- A byte of the ciphertext store at an address, whose layout the spec does not give (R230): free count, address. -/
opaque storeByte : Nat → Nat → Byte
/-- Does a byte address of the ciphertext store belong to an evaluation-key stream? The store's layout is not given (R230). -/
opaque evalKeyByte : Nat → Bool
/-- What a stage yields where the spec states no result: a number that names the case, the operands. -/
opaque unstatedStage : Nat → List Nat → List Nat
/-- The sign of the bf16 quotient of a negative zero by a row maximum that is not zero, which R214 does not state. -/
opaque zeroSign : Bool
/-- A fresh unconstrained byte string of no stated length. -/
opaque freeBytes : Nat → Bytes
/-- The discrete Gaussian sample of an element whose stream ends before the sampler of R204 does: noise key, element index. -/
opaque lateNoise : Bytes → Nat → Int
/-- The element that R170 seeks in a keystream that holds none: key. -/
opaque noElement : Bytes → Nat
/-- Does a granule of a stack lie on the pseudo-channel that has failed? No rule places granules on pseudo-channels (R386): free count,
granule. -/
opaque channelGranule : Nat → Nat → Bool

end Sys2Proof.Config
end

