-- ==== Sys2Proof/Machine/Table.lean ====
section
/-! DEFINITION. Sparse tables by key, as plain lists of pairs, and the few list operations the machine needs. -/

namespace Sys2Proof.Machine

/-- A sparse table: at most one entry counts for a key, the first. -/
abbrev Table (κ α : Type) := List (κ × α)

/-- The entry at a key. -/
def Table.get? {κ α : Type} [DecidableEq κ] : Table κ α → κ → Option α
  | [], _ => none
  | (k, v) :: t, q => if k = q then some v else Table.get? t q

/-- The entry at a key, or the value an unlisted key has. -/
def Table.getD {κ α : Type} [DecidableEq κ] (t : Table κ α) (q : κ) (d : α) : α :=
  (Table.get? t q).getD d

/-- Set the entry at a key. -/
def Table.put {κ α : Type} [DecidableEq κ] : Table κ α → κ → α → Table κ α
  | [], q, a => [(q, a)]
  | (k, v) :: t, q, a => if k = q then (q, a) :: t else (k, v) :: Table.put t q a

/-- Remove every entry at a key. -/
def Table.erase {κ α : Type} [DecidableEq κ] (t : Table κ α) (q : κ) : Table κ α :=
  t.filter (fun e => decide (e.1 ≠ q))

/-- The keys of a table, in its own order. -/
def Table.keys {κ α : Type} (t : Table κ α) : List κ := t.map Prod.fst

/-- The entries' values. -/
def Table.vals {κ α : Type} (t : Table κ α) : List α := t.map Prod.snd

/-- Apply a function to every value. -/
def Table.mapVals {κ α : Type} (t : Table κ α) (f : κ → α → α) : Table κ α := t.map (fun e => (e.1, f e.1 e.2))

/-- Is the key listed? -/
def Table.has {κ α : Type} [DecidableEq κ] (t : Table κ α) (q : κ) : Bool := (Table.get? t q).isSome

/-- Ascending insertion without repeats, for small sets of numbers. -/
def insertNat (n : Nat) : List Nat → List Nat
  | [] => [n]
  | x :: xs => if n = x then x :: xs else if n < x then n :: x :: xs else x :: insertNat n xs

/-- A list sorted ascending without repeats. -/
def sortNat (l : List Nat) : List Nat := l.foldl (fun acc n => insertNat n acc) []

/-- The largest of a list, 0 for the empty list. -/
def maxNat (l : List Nat) : Nat := l.foldl max 0

/-- Sum of a list. -/
def sumNat (l : List Nat) : Nat := l.foldl (· + ·) 0

/-- Division rounded up; 0 for a zero divisor. -/
def ceilDiv (a b : Nat) : Nat := if b = 0 then 0 else (a + b - 1) / b

end Sys2Proof.Machine
end

