-- ==== Sys2Proof/Machine/State.lean ====
section
/-! DEFINITION. State: every register, queue, buffer, counter, mode and pin that the spec gives the block, as plain data.
A field's docstring reads: what it is; its width; the file and rule that names it; its reset value. DC n is DESIGN CHOICE,
assumption n. The docstrings are what INVENTORY.md lists under State. -/

namespace Sys2Proof.Machine

-- ------------------------------------------------------------------ closed sets of names

/-- Status codes of R284. -/
inductive Status where
  | ok | retryLater | duplicate | notReady | authFail | counterStale | keyMismatch | levelExhausted | headroom
  | queueReset | faultReplayed | entropyUnavailable | scrubbing | tamper | policyDenied | malformed | range
  | keyDraining | roundClosed | version | stalledIsland
  deriving DecidableEq, Repr

/-- Round states of R43, in the encoding order of PWIN.STATUS.round_state (R282). -/
inductive RoundState where
  | idle | opened | closing | unmasking | finishing | exported | retired | aborted
  deriving DecidableEq, Repr

/-- Round modes of R47. -/
inductive Mode where
  | maskedSum | shareSum | cipherSum
  deriving DecidableEq, Repr

/-- Priority classes of R270. -/
inductive Cls where
  | p0 | p1 | p2 | p3
  deriving DecidableEq, Repr

/-- Event kinds of R263. -/
inductive EventKind where
  | lodged | stateChange | roundStatus | verifierOut | port | key | queueReset | orphan
  deriving DecidableEq, Repr

/-- Tile phases of R119. -/
inductive TilePhase where
  | accumulating | unmasked | finished
  deriving DecidableEq, Repr

/-- Power states of R422 and PWR.STATUS. -/
inductive PowerState where
  | d0 | doze | waking | sleep
  deriving DecidableEq, Repr

/-- Bank states of R336. -/
inductive BankState where
  | testing | healthy | failed | retired
  deriving DecidableEq, Repr

/-- The stages whose key slots lie on the key path (R29, R87); KEYSTREAM's are its seed store. -/
inductive SlotStage where
  | opens | finish | seals
  deriving DecidableEq, Repr

/-- Ledger-set states of R240. -/
inductive SetState where
  | empty | loading | held | draining
  deriving DecidableEq, Repr

/-- A granule's state (R35, R308, R384). -/
inductive GranState where
  | free | owned (p : Nat) | scrubbing (p : Nat) | unavailable
  deriving DecidableEq, Repr

/-- Partition phases (R34, R307). -/
inductive PartPhase where
  | absent | live | scrubbing
  deriving DecidableEq, Repr

/-- The finish passes of R201 and R198. -/
inductive FinishPass where
  | waitingEntropy | shareNoise | update | rowMerge | apply | ctFinish | exporting | done
  deriving DecidableEq, Repr

/-- The apply record of a tile (R212). -/
inductive ApplyState where
  | untouched | staged | applied
  deriving DecidableEq, Repr

/-- Verdict of a share-sum client (R174). -/
inductive Verdict where
  | undecided | accept | reject
  deriving DecidableEq, Repr

-- ------------------------------------------------------------------ byte memories

/-- A byte memory in canonical form: addresses strictly rising, no listed byte equal to the 0 that an unlisted
address reads as (R295: a line that has not been written since its granule was scrubbed reads as zeros). -/
abbrev Memory := List Host.Cell

-- ------------------------------------------------------------------ commands and queues

/-- A submission-queue entry as R258 lays it out. -/
structure Desc where
  opcode     : Nat
  flags      : Byte
  channel    : Byte
  commandId  : BitVec 16
  reserved   : Nat
  counter    : W64
  address    : W64
  length     : Nat
  params     : Bytes
  tag        : Bytes
  /-- bytes 0x00 to 0x2F, which the tag covers (R268) -/
  head       : Bytes
  deriving DecidableEq, Repr

/-- Cells a command or an event holds, by the region they were drawn from (R68, R271, R446). -/
structure Cells where
  reserved : Nat := 0
  shared   : Nat := 0
  p0Slots  : Nat := 0
  p0Other  : Nat := 0
  deriving DecidableEq, Repr

/-- A completion or event entry before it is written (R261), with the cells it holds. -/
structure Completion where
  commandId  : BitVec 16
  source     : Nat
  status     : Status
  infoStatus : Byte := 0
  sqHead     : Nat := 0
  result0    : W64 := 0
  result1    : W64 := 0
  result2    : W64 := 0
  cells      : Cells := {}
  /-- opcode of the descriptor, which an ORPHAN event reports (R263) -/
  opcode     : Nat := 0
  /-- place of the command in the Stewards' order, by which a P0 slot knows its own completion (R271) -/
  order      : Nat := 0
  deriving DecidableEq, Repr

/-- An entry the device has written to a CQ ring and the host has not consumed: the entry, its phase bit and index. -/
structure CqEntry where
  entry : Completion
  phase : Bool
  index : Nat
  deriving DecidableEq, Repr

/-- A command taken from a queue or a P0 slot and not yet completed (R25, R45, R382). -/
structure Taken where
  ref      : CmdRef
  desc     : Desc
  cls      : Cls
  /-- partition the command is for; none for a device-level command -/
  part     : Option Nat
  /-- place in the Steward's single order (R45) -/
  order    : Nat
  cells    : Cells
  sqHead   : Nat
  /-- a P0 ABORT before the Keeper's verdict (R273) -/
  unproved : Bool := false
  /-- the command has begun and waits for its end (QUIESCE, PART.RELEASE, a member's ROUND.OPEN, an unload) -/
  waiting  : Bool := false
  /-- the Steward has served the command's first trigger, which ended neither in a completion nor in a wait (R45, R53) -/
  begun    : Bool := false
  /-- completion carries FAULT_REPLAYED (R379) -/
  replayed : Bool := false
  /-- operands on which a CT command inserted a REFRESH (R190) -/
  inserted : List Nat := []
  deriving DecidableEq, Repr

/-- A held event of R263. -/
structure Event where
  kind       : EventKind
  status     : Status
  roundState : RoundState := .idle
  roundId    : W32 := 0
  result1    : W64 := 0
  result2    : W64 := 0
  /-- ORPHAN carries the original result0 in result1 (R263) -/
  cells      : Cells := {}
  deriving DecidableEq, Repr

/-- Registers and pointers of a submission queue (R282, R260). -/
structure Sq where
  /-- SQn_BASE.base; 64 (bits 63:12); 09 R282; 0 -/
  base      : W64 := 0
  /-- log2_entries, class and cq as the last enable found them in SQn_CFG; 5, 2 and 4; 09 R257, R282; 0 -/
  log2      : BitVec 5 := 0
  cls       : BitVec 2 := 0
  cq        : BitVec 4 := 0
  /-- the SQ is enabled; 1; 09 R257, R282; 0 -/
  enable    : Bool := false
  /-- SQn_STATUS.error; 1; 09 R282; 0 -/
  error     : Bool := false
  /-- SQn_STATUS.error_cause; 3; 09 R282; 0 -/
  cause     : BitVec 3 := 0
  /-- SQn_STATUS.head; 16; 09 R282; 0 -/
  head      : Nat := 0
  /-- tail last written by the doorbell; 16; 09 R260; 0 -/
  tail      : Nat := 0
  /-- SQn_TAKEN; 64; 09 R282; 0 -/
  taken     : W64 := 0
  /-- SQn_CFG as last written; 12; 09 R282, 00 R13; 0 -/
  cfg       : W32 := 0
  /-- SQn_CTRL.enable as last written; 1; 09 R282, 00 R13; 0 -/
  ctrl      : Bool := false
  deriving DecidableEq, Repr

/-- Registers and pointers of a completion queue, with the entries the host has not consumed (R282, R265, R280). -/
structure Cq where
  /-- CQn_BASE.base; 64 (bits 63:12); 09 R282; 0 -/
  base      : W64 := 0
  /-- log2_entries and vector as the last enable found them in CQn_CFG, coal_count and coal_time as they stand there; 5, 6, 8 and 10;
  09 R257, R281, R282; 0 -/
  log2      : BitVec 5 := 0
  vector    : BitVec 6 := 0
  coalCount : BitVec 8 := 0
  coalTime  : BitVec 10 := 0
  /-- the CQ is enabled: CQn_STATUS.enabled; 1; 09 R257, R282; 0 -/
  enable    : Bool := false
  /-- CQn_STATUS.error; 1; 09 R282; 0 -/
  error     : Bool := false
  /-- CQn_STATUS.error_cause; 3; 09 R282; 0 -/
  cause     : BitVec 3 := 0
  /-- CQn_STATUS.tail; 16; 09 R282; 0 -/
  tail      : Nat := 0
  /-- head last written by the doorbell; 16; 09 R260; 0 -/
  head      : Nat := 0
  /-- phase of the present pass; 1; 09 R261; 1 -/
  phase     : Bool := true
  /-- entries written and not consumed; list; 09 R280; empty -/
  posted    : List CqEntry := []
  /-- completions held in cells while the CQ is full or reset; list; 09 R265; empty -/
  held      : List Completion := []
  /-- a pointer mismatch has reset the CQ, and it has not been enabled since: completions are held; 1; 09 R280; 0 -/
  awaiting  : Bool := false
  /-- completions written since the last message; count; 09 R281; 0 -/
  unsignalled : Nat := 0
  /-- CQn_CFG as last written; 29; 09 R282, 00 R13; 0 -/
  cfg       : W32 := 0
  /-- CQn_CTRL.enable as last written; 1; 09 R282, 00 R13; 0 -/
  ctrl      : Bool := false
  deriving DecidableEq, Repr

/-- One P0 slot (R271). -/
structure Slot where
  /-- PWIN.P0_SLOT_STATUS.busy; 1; 09 R282; 0 -/
  busy    : Bool := false
  /-- place in the Stewards' order of the command that the slot holds; 09 R271; 0 -/
  holder  : Nat := 0
  /-- PWIN.P0_SLOT_STATUS.overrun; 1; 09 R282; 0 -/
  overrun : Bool := false
  /-- descriptor bytes written and not yet taken; 64 B; 09 R271; every byte 0 (DC 9) -/
  staged  : Memory := []
  deriving DecidableEq, Repr

/-- An MSI-X table entry and its pending bit (R254, R255, R281). -/
structure MsixVec where
  /-- message address; 64; 09 R254, PCI Express base specification; DC 8 (0) -/
  address : W64 := 0
  /-- message data; 32; 09 R254; DC 8 (0) -/
  data    : W32 := 0
  /-- mask bit; 1; 09 R281; PRESUMED 8 (1, the base specification's) -/
  masked  : Bool := true
  /-- pending bit; 1; 09 R281; PRESUMED 8 (0) -/
  pending : Bool := false
  deriving DecidableEq, Repr

/-- A function's queues, window registers, slots and interrupt vectors (R255, R282, R283). -/
structure FnState where
  /-- SQ0 to SQ15; 16 queues; 09 R257; each at its reset -/
  sqs       : Table Nat Sq := []
  /-- CQ0 to CQ15; 16 queues; 09 R257; each at its reset -/
  cqs       : Table Nat Cq := []
  /-- PWIN.P0_CFG.p0_cq or CMD.P0_CFG.p0_cq; 4; 09 R282, R283; 0 -/
  p0Cq      : BitVec 4 := 0
  /-- PWIN.ERROR or CMD.ERROR; 6; 09 R282, R283; 0 -/
  error     : BitVec 6 := 0
  /-- PWIN.ERROR_MASK or CMD.ERROR_MASK; 6; 09 R282, R283; 0 -/
  errorMask : BitVec 6 := 0
  /-- P0 slots 0 to 3; 4 slots; 09 R271; free -/
  slots     : Table Nat Slot := []
  /-- MSI-X vectors; 64 (PF) or 31 (VF); 09 R281; masked -/
  msix      : Table Nat MsixVec := []
  /-- IDE keys installed, by key set: stream and the 240 bytes of entries; 2 sets; 11 R322; none -/
  ideKeys   : Table Nat (Nat × Bytes) := []
  /-- high halves that 32-bit reads of low halves latched, by the register's offset; 32 each; 09 R256; none (DC 9) -/
  latch     : Table Nat W32 := []
  deriving DecidableEq, Repr

/-- A port's own state (R252, R277, R283). -/
structure PortState where
  /-- CMD.PORT_STATUS.link_up; 1; 09 R283; 0 -/
  linkUp       : Bool := false
  /-- CMD.PORT_STATUS.flit_mode; 1; 09 R283; 0 -/
  flitMode     : Bool := false
  /-- CMD.PORT_STATUS.vc1_enabled; 1; 09 R283; 0 -/
  vc1          : Bool := false
  /-- CMD.PORT_STATUS.speed; 4; 09 R283; 0 -/
  speed        : BitVec 4 := 0
  /-- CMD.PORT_STATUS.width; 5; 09 R283; 0 -/
  width        : BitVec 5 := 0
  /-- CMD.FAILOVER_CFG.auto_failover; 1; 09 R283; 1 -/
  autoFailover : Bool := true
  /-- CMD.LOCK.lock; 1; 09 R283; 0 -/
  lock         : Bool := false
  /-- link training under way; 1; 16 R414; 0 -/
  training     : Bool := false
  /-- the PF is in D3hot; 1; 16 R422; 0 -/
  d3hot        : Bool := false
  /-- PERST# asserted; 1 pin; 17 R436; asserted (its internal pull-down) -/
  perst        : Bool := true
  deriving DecidableEq, Repr

/-- The command plane and the cell pool (R68 to R71, R257, R283). -/
structure CmdPlane where
  /-- P0; port; 09 R252; reset -/
  port0       : PortState := {}
  /-- P1; port; 09 R252; reset -/
  port1       : PortState := {}
  /-- functions' queues and registers; 130 functions; 09 R252, R282; each at its reset -/
  fns         : Table Fn FnState := []
  /-- commands taken and not completed, in the Stewards' order; list; 01 R25, 14 R382; empty -/
  taken       : List Taken := []
  /-- next place in the order; count; 02 R45; 0 -/
  nextOrder   : Nat := 0
  /-- CMD.SHARED_FREE.free_shared; 21; 09 R283, 02 R68; 1,046,528 (the whole region) -/
  sharedFree  : Nat := 1046528
  /-- CMD.SHARED_FREE.bulk_gate_closed; 1; 02 R69; 0 -/
  bulkClosed  : Bool := false
  /-- CMD.SHARED_FREE.all_gate_closed; 1; 02 R69; 0 -/
  allClosed   : Bool := false
  /-- free cells of the 1,040 that serve P0 slots; 11; 09 R271; 1,040 -/
  p0SlotFree  : Nat := 1040
  /-- free cells of the other 1,008 of the priority-0 reserve; 10; 09 R271; 1,008 -/
  p0OtherFree : Nat := 1008
  /-- device-level events held; list; 09 R263; empty -/
  events      : List Event := []
  deriving DecidableEq, Repr

-- ------------------------------------------------------------------ Falnyx

/-- A stream descriptor S (R229): the 256 bits. -/
abbrev StreamDesc := BitVec 256

/-- Sequencer registers (R223). -/
structure SeqRegs where
  /-- S0 to S15; 16 x 256; 08 R223; 0 at work start (R225) -/
  s  : Vector StreamDesc 16 := Vector.replicate 16 0
  /-- X0 to X15; 16 x 64; 08 R223; 0 at work start but for the arguments -/
  x  : Vector W64 16 := Vector.replicate 16 0
  /-- L0 to L3; 4 x 64; 08 R223; 0 at work start -/
  l  : Vector W64 4 := Vector.replicate 4 0
  /-- Q0 to Q7; 8 x 1 (Q0 reads 1 in the accessor); 08 R223; 0 at work start -/
  q  : BitVec 8 := 0
  /-- program counter; 12; 08 R223; the role's entry point at work start -/
  pc : BitVec 12 := 0
  deriving DecidableEq, Repr

/-- An armed stage: the marker's word and the scalars read when it issued (R237). -/
structure Arm where
  word : FWord
  /-- the opcode byte of the marker -/
  op   : Nat
  /-- registers the marker read at issue: Xa, Xb, and the two descriptors it copies -/
  xa   : W64 := 0
  xb   : W64 := 0
  sa   : StreamDesc := 0
  sd   : StreamDesc := 0
  deriving DecidableEq, Repr

/-- The armed stages of a chain; none is bypassed (R82, R84). HASH taps bus A beside SEAL.AEAD. -/
structure Chain where
  /-- OPEN; marker; 03 R85; bypassed -/
  openS   : Option Arm := none
  /-- UNPACK; marker; 03 R85; bypassed -/
  unpack  : Option Arm := none
  /-- KEYSTREAM; marker; 03 R85; bypassed -/
  ks      : Option Arm := none
  /-- COMBINE; marker; 03 R85; bypassed -/
  comb    : Option Arm := none
  /-- LEDGER; marker; 03 R85; bypassed -/
  ledger  : Option Arm := none
  /-- TURN; marker; 03 R85; bypassed -/
  turn    : Option Arm := none
  /-- NTT; marker; 03 R85; bypassed -/
  ntt     : Option Arm := none
  /-- FINISH, row statistics; marker; 07 R207; bypassed -/
  rows    : Option Arm := none
  /-- FINISH, noise; marker; 07 R204; bypassed -/
  noise   : Option Arm := none
  /-- FINISH, scaling; marker; 07 R202; bypassed -/
  scale   : Option Arm := none
  /-- FINISH, clipping; marker; 07 R209; bypassed -/
  clip    : Option Arm := none
  /-- FINISH, optimiser apply; marker; 07 R210; bypassed -/
  apply   : Option Arm := none
  /-- SEAL encryption; marker; 03 R85; bypassed -/
  sealS   : Option Arm := none
  /-- SEAL hash tap; marker; 08 R244; off -/
  hash    : Option Arm := none
  deriving DecidableEq, Repr

/-- A ledger set: its state, the tile and source bank it holds, its slots' elements (R116, R240). -/
structure LedgerSet where
  /-- EMPTY, LOADING, HELD or DRAINING; 2; 08 R240; EMPTY -/
  state : SetState := .empty
  /-- tile held; 32; 08 R223; 0 -/
  tile  : Nat := 0
  /-- elements, in the canonical encoding of the domain; 2 MiB of lanes; 04 R116; zero -/
  data  : List Nat := []
  /-- check store: one word for each 128-bit group, 16 to a slot; 16 each; 04 R117; empty -/
  check : List Nat := []
  /-- the check words are the byte parities of GF128 elements; 1; 04 R117, R123; 0 -/
  parity : Bool := false
  deriving DecidableEq, Repr

/-- A queued shadow-port operation, with the swaps issued before it and, for a routed save, the armed stages (R236). -/
structure ShadowOp where
  isLoad : Bool
  tile   : Nat
  source : Bool
  routed : Bool
  swaps  : Nat
  chain  : Chain
  deriving DecidableEq, Repr

/-- A queued seed load (R239). -/
structure SeedLoad where
  first  : Nat
  slot   : Nat
  count  : Nat
  deriving DecidableEq, Repr

/-- What has issued and has not left the chain, in order: a sweep with its own armed stages, the beats of its stream that have
entered (its stream position, on a TURN block boundary at every step boundary: R94, R226) and the elements taken from a ring so far
(R102); a swap marker (R236); or a seed load that waits for the sweeps issued before it (R239). -/
inductive ChainItem where
  | sweep (chain : Chain) (src : StreamDesc) (dst : Option StreamDesc) (count : Nat) (entered : Nat) (got : List Nat)
  | swap (final : Bool)
  | load (q : SeedLoad)
  deriving DecidableEq, Repr

/-- A long-ledger word (R131): the accumulator A and the three flags, with the residue word that FINISH carries beside it (R124). -/
structure LongWord where
  /-- a; 312, two's complement; 04 R131; 0 -/
  a      : BitVec 312 := 0
  /-- pos_inf; 1; 04 R131; 0 -/
  posInf : Bool := false
  /-- neg_inf; 1; 04 R131; 0 -/
  negInf : Bool := false
  /-- nan; 1; 04 R131; 0 -/
  nan    : Bool := false
  /-- residue word of A as a signed integer modulo 65,535; 16; 04 R124; 0 -/
  res    : Nat := 0
  deriving DecidableEq, Repr

/-- The NTT twiddle store (R186): the limb or field and the length it holds factors of, its layout, and its words. -/
structure Twiddle where
  /-- domain code and limb; 08 R234, 06 R186 -/
  code   : Nat
  limb   : Nat
  /-- log2 of the transform's length, the modulus and omega -/
  n      : Nat
  prime  : Nat
  root   : Nat
  /-- the direct layout; otherwise the factored one -/
  direct : Bool
  /-- powers of omega: all of them, or the low and the high part -/
  omega  : List Nat
  omegaHi : List Nat
  /-- powers of psi of an RNS limb, in the same layout -/
  psi    : List Nat
  psiHi  : List Nat
  deriving DecidableEq, Repr

/-- A work on a caravan: one call of an itinerary (R225). -/
structure Work where
  /-- partition served; 6; 08 R225 -/
  part      : Nat
  /-- itinerary set slot and role; 2 and 4; 08 R225 -/
  setSlot   : Nat
  role      : Nat
  /-- the arguments of the call; 8 x 64; 08 R225 -/
  args      : List W64
  /-- batch the call belongs to (role SWEEP): last sequence number and batch number; 48 and 32; 08 R249 -/
  batchW    : Nat := 0
  batchNo   : Nat := 0
  regs      : SeqRegs := {}
  chain     : Chain := {}
  setA      : LedgerSet := {}
  setB      : LedgerSet := {}
  /-- which set is active: A when true; 1; 03 R93; A -/
  activeA   : Bool := true
  /-- shadow-port queue; up to 4; 08 R236, R238; empty -/
  shadowQ   : List ShadowOp := []
  /-- the save whose drain runs (tile, data written); 08 R240; none -/
  draining  : Option (Nat × List Nat) := none
  /-- swaps issued and swaps done; counts; 08 R236; 0 -/
  swapsIssued : Nat := 0
  swapsDone   : Nat := 0
  /-- a LEDG.LOAD has issued since the last LEDG.SWAP; 1; 08 R240; 0 -/
  loadSince : Bool := false
  /-- what has issued and not left the chain, with stream positions; up to 8 sweeps; 08 R226, R238; empty -/
  flow      : List ChainItem := []
  /-- seed loads to make again after a context switch; list; 08 R239; empty -/
  loadQ     : List SeedLoad := []
  /-- seed store: slot to vault record (its index, sign, key); 4,096 x 32 B; 03 R86; empty -/
  seeds     : Table Nat (Nat × Bool × Bytes) := []
  /-- lines written by streams and not ordered by a WAIT: written by a LEDG.SAVE, space, area, line address, old line; 08 R239; empty -/
  unordered : List (Bool × Nat × Nat × Nat × Bytes) := []
  /-- tiles whose saves were acknowledged in this work; list; 08 R228; empty -/
  savedTiles : List Nat := []
  /-- END issued, with its progress word; 08 R227; none -/
  ending    : Option W64 := none
  /-- the Steward asks for a yield; 1; 08 R227; 0 -/
  yieldAsk  : Bool := false
  /-- position and peers when started as chained, the ring this work writes and its size; 03 R102; none -/
  chained   : Option Nat := none
  linked    : Bool := false
  ringUnits : Nat := 4
  /-- elements in the ring this work writes; ringUnits × 64 KiB; 03 R102; empty -/
  ring      : List Nat := []
  /-- elements at the exit that the full ring makes wait, and bytes of an element; 03 R102, R88; empty -/
  exitQ     : List Nat := []
  ringLane  : Nat := 4
  /-- FINISH row store: sums and maxima of open rows; up to 3,072 rows; 03 R86, 07 R207; empty -/
  rowSums   : Table Nat LongWord := []
  rowMaxima : Table Nat W32 := []
  /-- a SWEEP has issued; 1; 08 R244 (LINK must precede); 0 -/
  swept     : Bool := false
  /-- a library routine runs (KSW or REFRESH), with its handle; 08 R236; none -/
  library   : Option Nat := none
  /-- the REFRESH that the KSW at the program counter inserts is done; 1; 06 R190; 0 -/
  inserted  : Bool := false
  /-- the work has stopped on a fault or its end; 1; 08 R245; 0 -/
  stopped   : Bool := false
  deriving DecidableEq, Repr

/-- A message on a Steward's mailbox to a Sequencer: a step of a partition waits (R26, R96), under its number in the mailbox (R381). -/
structure MailMsg where
  steward : Nat
  cls     : Cls
  part    : Nat
  seq     : Nat
  deriving DecidableEq, Repr

/-- One Sequencer with its caravan (R86, R94 to R101). -/
structure Caravan where
  /-- the work whose state the SRAM holds; 03 R86; none -/
  work       : Option Work := none
  /-- a step runs; 1; 03 R94; 0 -/
  stepping   : Bool := false
  /-- entry beats left in the step; 14; 03 R94; 15,000 -/
  entryLeft  : Nat := 15000
  /-- instructions issued in the step; 14; 08 R226; 0 -/
  issued     : Nat := 0
  /-- valid itinerary pages; 16; 08 R224; 0 -/
  pages      : BitVec 16 := 0
  /-- partition whose state the SRAM holds last; 03 R98, 10 R308; none -/
  owner      : Option Nat := none
  /-- admission duty; 1; 02 R57; see State.reset -/
  duty       : Bool := false
  /-- Steward mailboxes: works or steps waiting; 01 R26, 03 R96; empty -/
  mailbox    : List MailMsg := []
  /-- number of the last message of each Steward's mailbox posted; 8 x 32; 14 R381; 0 -/
  mailSent   : Table Nat Nat := []
  /-- number of the last message of each Steward's mailbox taken; 8 x 32; 14 R381; 0 -/
  mailTook   : Table Nat Nat := []
  /-- Steward served last in each class, for round-robin; 3 x 3; 01 R27, 03 R96; 0 -/
  lastServed : Table Nat Nat := []
  /-- steps since P3 last had one, while P3 waits; 5; 03 R96; 0 -/
  sinceP3    : Nat := 0
  /-- segments staged for this caravan: command and segment index; up to 4; 02 R57; empty -/
  staged     : List (CmdRef × Nat) := []
  /-- a context switch in pieces: incoming partition and pieces done; 03 R101; none -/
  switching  : Option (Nat × Nat) := none
  /-- the half of an image that a switch in pieces has moved: of the outgoing one after piece 1, of the incoming one after piece 3;
  2,384 beats; 03 R101; none -/
  half       : Option Work := none
  /-- key slots, by stage, partition and slot: OPEN 16, FINISH 2 and SEAL 4 for each partition; 256 each and, in OPEN, 96 of base
  nonce; 01 R29, 03 R87; empty -/
  slots      : Table (SlotStage × Nat × Nat) Bytes := []
  /-- NTT twiddle store; 65,536 words; 03 R86, 06 R186; none -/
  twiddle    : Option Twiddle := none
  /-- OPEN and SEAL segment buffers; 128 KiB each; 03 R86; zeroed -/
  openBuf    : Bytes := []
  sealBuf    : Bytes := []
  /-- partition, role and arguments of the work whose last run here met a detected fault, until it has ended: a fault in its replay retires
  the caravan; 14 R374; none -/
  faultedOn  : Option (Nat × Nat × List W64) := none
  deriving DecidableEq, Repr

-- ------------------------------------------------------------------ keys and sessions

/-- A session (R319 to R323). -/
structure Session where
  /-- session_number; 32; 11 R319; 0 before the first -/
  number     : Nat := 0
  /-- a session is current; 1; 11 R319; 0 -/
  live       : Bool := false
  /-- prk of the current session; 256; 11 R323; empty -/
  prk        : Bytes := []
  /-- k_h2d, k_d2h, exporter secret; 3 x 256; 11 R319; empty -/
  h2d        : Bytes := []
  d2h        : Bytes := []
  exporter   : Bytes := []
  /-- binding secret, when bound; 256; 11 R319; none -/
  binding    : Option Bytes := none
  /-- last PLAINTEXT record number accepted in the session; 64; 11 R320; none -/
  plainNo    : Option Nat := none
  deriving DecidableEq, Repr

/-- An installed key (R291, R292). -/
structure KeyEntry where
  value : Bytes
  deriving DecidableEq, Repr

/-- A DRAINING key of R301: its handle, its value, and for a command key the place in the Stewards' order before which
critical commands hold it (R302). -/
structure DrainKey where
  handle : W32
  value  : Bytes
  bound  : Nat
  /-- round_id of the round that a verify, peer or round key goes on to serve (R292, R302) -/
  round  : W32 := 0
  deriving DecidableEq, Repr

/-- A loaded itinerary set (R247). -/
structure ItinSet where
  digest    : Bytes
  /-- role, entry instruction, words -/
  itins     : List (Nat × Nat × List W64)
  /-- constants: kind, id, body -/
  consts    : List (Nat × Nat × Bytes)
  deriving DecidableEq, Repr

/-- A loaded key set (R179, R183). -/
structure KeySet where
  fingerprint : Nat
  log2n       : Nat
  limbs       : Nat
  special     : Nat
  digitLimbs  : Nat
  refreshOut  : Nat
  modulus     : Nat
  freshBudget : Nat
  outBudget   : Nat
  primes      : List Nat
  roots       : List Nat
  levelCap    : List Nat
  publicKey   : Bytes
  /-- evaluation keys: kind, galois element, fingerprint in the stream header, body -/
  evalKeys    : List (Nat × Nat × Nat × List Nat)
  deriving DecidableEq, Repr

/-- A REFRESH under way (R196): its table, the phase that runs, the beats of stream entry left in it, and the partial output. -/
structure Refreshing where
  /-- lookup table; 5; 06 R194 -/
  lut   : Nat
  /-- phase; 1 to 5, 6 when all are over; 06 R196 -/
  phase : Nat := 1
  /-- beats of entry that the phase still takes; 06 R196 -/
  left  : Nat := 0
  /-- partial output, in a store area of its own; 06 R196 -/
  words : List Nat := []
  deriving DecidableEq, Repr

/-- A stored ciphertext (R182). -/
structure Cipher where
  level       : Nat
  ntt         : Bool
  channel     : Nat
  budget      : Nat
  fingerprint : Nat
  body        : List Nat
  /-- a REFRESH runs on it; 06 R196, R197; none -/
  refreshing  : Option Refreshing := none
  deriving DecidableEq, Repr

/-- A partition's weight image (R211, R213). -/
structure Weights where
  optimiser    : Nat
  vectorLength : Nat
  /-- the image's 4-byte words in the order of its record: tiles ascending, in each W, then M, then V -/
  flat         : List W32
  torn         : Bool := false
  digest       : Bytes
  deriving DecidableEq, Repr

-- ------------------------------------------------------------------ rounds

/-- The round descriptor of R47, field by field; raw keeps the 256 bytes. -/
structure RoundDesc where
  raw : Bytes
  version : Nat
  mode : Nat
  packedBits : Nat
  roundId : W32
  vectorLength : Nat
  rowLength : Nat
  nMax : Nat
  ringK : Nat
  laneFormat : Nat
  prg : Nat
  seedFormat : Nat
  boundB : Nat
  graphDegree : Nat
  threshold : Nat
  aggCount : Nat
  aggIndex : Nat
  log2n : Nat
  limbCount : Nat
  fieldPrime : Nat
  ptModulus : Nat
  ksFingerprint : Nat
  leveled : BitVec 64
  refreshThreshold : Nat
  ckptEvery : Nat
  ckptIntervalMs : Nat
  ckptAdmissions : Nat
  flags : W32
  dpSigma : W32
  clipBound : W32
  optimiser : Nat
  learningRate : W32
  beta1 : W32
  beta2 : W32
  epsilon : W32
  ownerKey : W32
  distKey : W32
  itinDigest : Bytes
  reservedOk : Bool
  deriving DecidableEq, Repr

/-- One copy of a tile: its two banks and its directory entry (R118, R119). -/
structure TileCopy where
  /-- bank 0 and bank 1; lane data of the tile; 04 R118; zero -/
  bank0     : List Nat := []
  bank1     : List Nat := []
  /-- the bank's written lines carry the epoch bit of epoch e - 1, which a rotation has left behind; 1 for each bank; 01 R20, 10 R297; 0 -/
  old0      : Bool := false
  old1      : Bool := false
  /-- directory watermark; 48; 04 R119; 0 -/
  watermark : Nat := 0
  /-- committed_bank; 1; 04 R119; 0 -/
  bank      : Bool := false
  /-- tile_phase; 2; 04 R119; ACCUMULATING -/
  phase     : TilePhase := .accumulating
  /-- batch_number; 32; 04 R119; 0 -/
  batch     : Nat := 0
  deriving DecidableEq, Repr

/-- A tile of the round: primary and mirror copies, and the finish state of the tile. -/
structure Tile where
  prim      : TileCopy := {}
  mirr      : TileCopy := {}
  /-- groups of the unmask applied, and the bank a hand-off drained to; 05 R159; 0 -/
  groups    : Nat := 0
  /-- caravans that have run groups of the tile's unmask; up to 2; 05 R163; none -/
  unmaskers : List Nat := []
  /-- mirror of the unmasked tile done; 1; 05 R160; 0 -/
  mirrored  : Bool := false
  /-- apply record; 2; 07 R212; untouched -/
  applyRec  : ApplyState := .untouched
  /-- staging slot; a weight record; 07 R201; none -/
  staging   : Option (List W32) := none
  /-- leaf digest stored at STAGED; 256; 07 R212; empty -/
  leaf      : Bytes := []
  /-- maximum row partials stored at STAGED, for the tile's rows in order; 32 each; 07 R208, R212; none -/
  maxima    : List W32 := []
  deriving DecidableEq, Repr

/-- A journal record (R232): its key block, the envelope's fixed header and segments. -/
structure JournalRec where
  seq    : Nat
  client : Nat
  header : Bytes
  segs   : List Bytes
  /-- the 96-byte key block: the envelope's AEAD key and base nonce, wrapped under the journal key -/
  block  : Bytes
  deriving DecidableEq, Repr

/-- An ADMIT in flight (R53, R57). -/
structure Flight where
  header  : Bytes
  enc     : Bytes
  client  : Nat
  /-- segments received, by index -/
  segs    : Table Nat Bytes := []
  /-- pass verdict of each segment: its tag verified -/
  passed  : Table Nat Bool := []
  /-- a fault was replayed during its pass -/
  replayed : Bool := false
  /-- OPEN slot that holds its key on the duty caravans of its dies, from the first staged segment on (R29, R57, R87) -/
  slot     : Option Nat := none
  /-- journal bytes it has reserved on AD0 and AD1 (R53, R72) -/
  jour0    : Nat := 0
  jour1    : Nat := 0
  deriving DecidableEq, Repr

/-- A share-sum verifier record (R171, R172). -/
structure VRec where
  jOwn : Bytes
  fr   : List Nat
  pr   : Nat
  y    : Nat
  deriving DecidableEq, Repr

/-- A vault record of 64 bytes (R156): survivor, dropped (none for a self key), sign, the wrapped key and its tag. -/
structure VaultRec where
  survivor : Nat
  dropped  : Option Nat
  negative : Bool
  wrapped  : Bytes
  tag      : Bytes
  deriving DecidableEq, Repr

/-- Unmask state of a round (R143 to R157). -/
structure Unmask where
  /-- client directory; 48 B per client; 05 R145; empty -/
  directory   : Table Nat Bytes := []
  /-- stored shares, by (client, pair kind, half), sorted by holder; 05 R152; empty -/
  shares      : Table (Nat × Bool × Nat) (List (Nat × Nat)) := []
  /-- secrets reconstructed and checked, as wrapped records: self keys, and the separate section of pair keys; 05 R154, R156; empty -/
  secrets     : Table Nat VaultRec := []
  /-- secrets FAILED; 05 R154; empty -/
  failed      : List Nat := []
  /-- seed vault, by record index in the order of R158; 64 B a record; 05 R156; empty -/
  vault       : Table Nat VaultRec := []
  /-- UNMASK.SEEDS with the last flag accepted; 1; 05 R154; 0 -/
  lastSeen    : Bool := false
  /-- the journal cannot hold the unmask area; 1; 05 R157; 0 -/
  tooBig      : Bool := false
  deriving DecidableEq, Repr

/-- Share-sum state of a round (R171 to R177). -/
structure ShareState where
  /-- verdicts, by client; 06 R174; undecided -/
  verdicts   : Table Nat Verdict := []
  /-- the device's own verifier records; 06 R171; none -/
  own        : Table Nat VRec := []
  /-- peers' records, by client and sender; 06 R173; none -/
  peers      : Table (Nat × Nat) VRec := []
  /-- clients on whose share a VERIFY work has run; 08 R249; none -/
  verified   : List Nat := []
  /-- verifier output buffer: next address, bytes left, port; 06 R172; none -/
  outbuf     : Option (W64 × Nat × Port) := none
  /-- verifier records written so far; 64; 09 R263; 0 -/
  written    : Nat := 0
  /-- peers' sum shares; 06 R177; none -/
  sums       : Table Nat (List Nat) := []
  /-- the device's sum records have been written; 1; 06 R177; 0 -/
  sumSent    : Bool := false
  /-- the peers' shares have been added; 1; 06 R177; 0 -/
  combined   : Bool := false
  /-- journal bytes held by records of clients not yet admitted, by client; 06 R173; none -/
  early      : Table Nat Nat := []
  deriving DecidableEq, Repr

/-- A row-table entry (R209, R214, R218). -/
structure RowEntry where
  norm   : W32 := 0
  factor : W32 := 0
  maxAbs : W32 := 0
  deriving DecidableEq, Repr

/-- Finish state of a round (R201 to R222). -/
structure Finish where
  /-- pass in progress; 07 R201; none before FINISHING -/
  pass        : FinishPass := .waitingEntropy
  /-- K_noise; 256; 07 R203; none -/
  kNoise      : Option Bytes := none
  /-- export_salt; 128; 07 R215; none -/
  salt        : Option Bytes := none
  /-- K_img of each image kind; 256 each; 07 R215; none -/
  imgKeys     : Table Nat Bytes := []
  /-- maximum row partials of a circuit's members, by row and member; 07 R208, 15 R406; none -/
  maxima      : Table (Nat × Nat) W32 := []
  /-- row table; 07 R209; empty -/
  rows        : Table Nat RowEntry := []
  /-- images confirmed in host memory, by image kind; 07 R220; empty -/
  confirmed   : List Nat := []
  /-- aggregate ciphertexts that the finish itinerary has been run on; 07 R198, 08 R249; empty -/
  ctDone      : List Nat := []
  /-- segments of the image that is due on which EXPORT works have run; 08 R249; empty -/
  sealed      : List Nat := []
  deriving DecidableEq, Repr

/-- A checkpoint in progress (R59, R60). -/
structure Ckpt where
  /-- W; 48; 02 R59 -/
  w        : Nat
  /-- checkpoint_number; 32; 14 R376 -/
  number   : Nat
  batch    : Nat
  final    : Bool
  exported : Bool
  /-- tiles mirrored at W; 02 R60 -/
  mirrored : List Nat := []
  /-- committed_bank of each primary when its copy began; 04 R121 -/
  entries  : Table Nat Bool := []
  mirrorDone : Bool := false
  deriving DecidableEq, Repr

/-- A circuit's round state (R400 to R406). -/
structure Circuit where
  /-- member: device serial, partition, first tile; up to 16; 15 R400 -/
  members   : List (Nat × Nat × Nat)
  self      : Nat
  /-- routes of this package: primary and alternate link toward each member; 15 R400 -/
  routes    : List (Nat × Nat)
  /-- members that joined; 15 R401; empty -/
  joined    : List Nat := []
  /-- admission verdicts, by client and member: 0 for a pass, or the number of the failing check of R53; 15 R403; none -/
  verdicts  : Table (Nat × Nat) Nat := []
  /-- members that confirmed a number's commit, by client; 15 R403 -/
  commits   : Table (Nat × Nat) Unit := []
  /-- numbers assigned and not yet posted, by client; 15 R403 -/
  assigned  : Table Nat Nat := []
  /-- number of the checkpoint lodged last by each member; 15 R405; none -/
  lodged    : Table Nat Nat := []
  /-- members that reported seeds reconstructed, and tiles complete; 15 R406 -/
  seedsDone : List Nat := []
  tilesDone : List Nat := []
  /-- row partials received, by row and member; 15 R406; none -/
  partials  : Table (Nat × Nat) LongWord := []
  deriving DecidableEq, Repr

/-- A round (R42 to R77). -/
structure Round where
  /-- round state; 3; 02 R43 -/
  state      : RoundState
  /-- descriptor; 256 B; 02 R47 -/
  desc       : RoundDesc
  /-- KEM of the round; 8; 11 R321 -/
  kem        : Nat
  /-- round secret; 256; 10 R289 -/
  secret     : Bytes
  /-- key registers of the X25519 engines that serve the round: round key, journal key, seed-wrapping key; 256 (or 512), 256, 256;
  01 R29; none -/
  engineKeys : Option (Bytes × Bytes × Bytes) := none
  /-- weights digest recorded at ROUND.OPEN; 256; 02 R43 -/
  wDigest    : Bytes
  /-- client index, which is the guestbook: client_id to sequence number; n_max entries; 02 R54, R56; empty -/
  index      : Table Nat Nat := []
  /-- next sequence number; 48; 02 R55; 1 -/
  nextSeq    : Nat := 1
  /-- journal records not freed; 08 R232; empty -/
  journal    : List JournalRec := []
  /-- journal capacity and use, AD0 and AD1, in bytes; 02 R50, R59 -/
  jCap0      : Nat := 0
  jCap1      : Nat := 0
  jUse0      : Nat := 0
  jUse1      : Nat := 0
  /-- last closed batch: its last sequence number and its number; 03 R89; 0 -/
  batchW     : Nat := 0
  batchNo    : Nat := 0
  /-- first sequence number of the open batch's predecessor; 48; 03 R89; 1 -/
  batchFrom  : Nat := 1
  /-- tiles; 03 R89; zero -/
  tiles      : Table Nat Tile := []
  /-- checkpoint in progress; 02 R59; none -/
  ckpt       : Option Ckpt := none
  /-- checkpoint whose batch has closed while the one before it is still in progress; 03 R92; none -/
  ckptNext   : Option Ckpt := none
  /-- last complete checkpoint: watermark and number; 02 R59; 0 -/
  lastW      : Nat := 0
  ckptNo     : Nat := 0
  /-- admissions since the last checkpoint; 32; 02 R59; 0 -/
  sinceCkpt  : Nat := 0
  /-- the final checkpoint is complete; 1; 02 R59; 0 -/
  finalDone  : Bool := false
  /-- highest lodged W; 48; 02 R74; none -/
  lodgedW    : Option Nat := none
  /-- the final checkpoint is lodged; 1; 02 R43, R59; 0 -/
  finalLodged : Bool := false
  /-- survivor set, fixed on entry to CLOSING; 02 R63; empty -/
  survivors  : List Nat := []
  unmask     : Unmask := {}
  share      : ShareState := {}
  finish     : Finish := {}
  /-- output buffers 0 and 1: address, length, port; 07 R220; none -/
  outbufs    : Table Nat (W64 × Nat × Port) := []
  /-- handle of the first aggregate ciphertext; 32; 06 R182; 0 -/
  aggFirst   : Nat := 0
  /-- the destruction after ABORT still runs; 1; 02 R46; 0 -/
  destroying : Bool := false
  /-- a work fault or R380: the round can only be aborted; 1; 08 R245, 14 R380; 0 -/
  lost       : Bool := false
  circuit    : Option Circuit := none
  deriving DecidableEq, Repr

/-- A partition (R34, R311). -/
structure Partition where
  /-- absent, live or scrubbing: PDIR.PART.exists and scrubbing; 2; 10 R311; absent -/
  phase       : PartPhase := .absent
  /-- home port; 1; 09 R253, 10 R311; P0 -/
  home        : Port := .p0
  /-- admission class: latency when true; 1; 02 R69; bulk -/
  latency     : Bool := false
  /-- Steward serving; 3; 01 R25; 0 -/
  steward     : Nat := 0
  /-- granules held on AD0 and AD1, as (stack, granule); 10 R293; none -/
  gran0       : List (Nat × Nat) := []
  gran1       : List (Nat × Nat) := []
  /-- create_nonce; 128; 10 R289; empty -/
  nonce       : Bytes := []
  /-- current memory epoch; 32; 10 R297; 0 -/
  epoch       : Nat := 0
  /-- epoch e - 1 is live: PDIR.PART.epoch_draining; 1; 10 R297; 0 -/
  oldLive     : Bool := false
  /-- last accepted command counter: PWIN.COUNTER; 64; 09 R269; 0 at PART.CREATE (DC 9) -/
  counter     : W64 := 0
  /-- serving function's port; 09 R277; none -/
  serving     : Option Port := none
  /-- cells of the reservation in use, those of the DRBG queue included; 13; 01 R34, 12 R344; 0 -/
  cellsUsed   : Nat := 0
  /-- quiesced; 1; 09 R275; 0 -/
  quiesced    : Bool := false
  /-- no new step while a P0 ABORT is unproved; 1; 09 R273; 0 -/
  held        : Bool := false
  /-- the Keeper waits with a key rotation until a running step has ended; 1; 01 R36; 0 -/
  keeperHold  : Bool := false
  /-- PART.RELEASE is accepted and a running step has not ended yet; 1; 01 R36, 10 R308; 0 -/
  erasing     : Bool := false
  /-- session; 11 R319; none -/
  session     : Session := {}
  /-- command key; 256; 10 R288; none -/
  cmdKey      : Option Bytes := none
  /-- installed keys, by handle; up to 1,024; 10 R292; none -/
  keys        : Table W32 KeyEntry := []
  /-- DRAINING keys; 10 R301; none -/
  drains      : List DrainKey := []
  /-- itinerary sets, by set slot; 4; 08 R248; none -/
  itins       : Table Nat ItinSet := []
  /-- key sets, by set slot; 4; 06 R179; none -/
  keySets     : Table Nat KeySet := []
  /-- weight image; 07 R211; none -/
  weights     : Option Weights := none
  /-- current round; 02 R44; none -/
  round       : Option Round := none
  /-- a circuit round whose members have not all joined; 15 R401; none -/
  opening     : Option Round := none
  /-- round_ids opened since PART.CREATE; 02 R42; empty -/
  opened      : List W32 := []
  /-- ADMITs in flight; 02 R53; none -/
  flights     : Table CmdRef Flight := []
  /-- ciphertext store, by handle; 06 R182; empty -/
  store       : Table Nat Cipher := []
  /-- next ciphertext handle; 32; 06 R182; DC 10 (1) -/
  nextHandle  : Nat := 1
  /-- plaintext polynomials of CT.PMUL commands not completed, by place in the Steward's order; 06 R188, 11 R321; empty -/
  plains      : Table Nat (Status × List Nat) := []
  /-- context area: saved works, by caravan; 24 images per die; 03 R98; none -/
  saved       : Table Nat Work := []
  /-- work spaces of R230, by (space, area); 08 R230; empty memories -/
  spaces      : Table (Nat × Nat) Memory := []
  /-- events held; 09 R263; none -/
  events      : List Event := []
  /-- MiB still to be zero-filled: PDIR.PART.scrub_remaining; 32; 10 R311; 0 -/
  scrubMiB    : Nat := 0
  /-- caravans named by the release record; 48; 10 R310; none -/
  release     : List Nat := []
  /-- telemetry: admissions, envelope bytes, rounds retired; 64, 64, 32; 16 R431; 0 -/
  admissions  : Nat := 0
  envBytes    : Nat := 0
  retiredCnt  : Nat := 0
  deriving DecidableEq, Repr

-- ------------------------------------------------------------------ Keeper, boot, flash

/-- An alarm-relevant part of the Keeper and the tamper monitor (R312, R318, R327 to R331). -/
structure Keeper where
  /-- last accepted device-level counter; 64; 09 R269; 0x8000_0000_0000_0000 with unreadable ceilings (R269) -/
  counter      : W64 := 0
  /-- C, the ceiling of that counter, as the Keeper last read or wrote it; 64; 09 R269; 0, read at each cold boot -/
  ceiling      : W64 := 0
  /-- pending ML-KEM-1024 key pairs: function to (seed, report digest); 11 R318; none -/
  pendingEk    : Table Fn (Bytes × Bytes) := []
  /-- Steward whose mailbox to the Keeper was served last, in each class; 4 x 3; 01 R27; 7 (mailbox 0 first) -/
  lastServed   : Table Nat Nat := []
  /-- PF sessions, by port; 11 R321; none -/
  pf0          : Session := {}
  pf1          : Session := {}
  /-- identity keys and certificate cached: HUB.STATUS.attest_ready; 1; 11 R312; 0 -/
  identity     : Bool := false
  /-- the cache itself: both key pairs' seeds and the certificate, sealed in the device area, kept by Sleep; 11 R312, 01 R21, 16 R422;
  empty -/
  cache        : Bytes := []
  /-- PDIR.MODE.tamper_locked; 1; 10 R311; 0 -/
  locked       : Bool := false
  /-- start-up tamper hold; 1; 11 R329; 0 -/
  tamperHold   : Bool := false
  /-- OTP tamper counter; 10 (0 to 1,023); 11 R330; DC 9 (0, a new part) -/
  tamperCount  : Nat := 0
  /-- last_tamper_cause and last_tamper_phase; 8 and 8; 11 R316; 0 -/
  lastCause    : Nat := 0
  lastPhase    : Nat := 0
  /-- the tamper monitor is armed; 1; 17 R439; 0, armed when PWRGOOD rises -/
  armed        : Bool := false
  /-- count owed from the flag in the retention domain; 1; 11 R331; 0 -/
  owedCount    : Bool := false
  /-- a Sleep alarm cleared the retention domain; 1; 11 R329; 0 -/
  retentionLost : Bool := false
  /-- the Keeper has derived its first key since PWRGOOD rose, which ends the start-up phase; 1; 11 R329; 0 -/
  derived      : Bool := false
  /-- causes that have raised an alarm and have not been seen clear since; 4 sources; 11 R331; none -/
  asserted     : List Nat := []
  deriving DecidableEq, Repr

/-- A firmware group as it runs (R433). -/
structure FwGroup where
  /-- HUB.FW.version; 16; 16 R433; 0 -/
  version     : Nat := 0
  /-- HUB.FW.slot; 1; 16 R433; A -/
  slot        : Bool := false
  /-- HUB.FW.stage_failed; 1; 16 R433; 0 -/
  stageFailed : Bool := false
  /-- HUB.FW.sequence; 32; 16 R433; 0 -/
  sequence    : Nat := 0
  /-- digest of the running image; 256; 16 R412; empty -/
  digest      : Bytes := []
  /-- compat ranges of the running image; 5 pairs; 16 R412; empty -/
  compat      : List (Nat × Nat) := []
  /-- bundle of the running image; 256; 16 R412; empty -/
  bundle      : Bytes := []
  deriving DecidableEq, Repr

/-- Boot and recovery (R414 to R421, R433). -/
structure Hub where
  /-- HUB.STATUS.boot_state; 3; 16 R433; 0 -/
  bootState   : Nat := 0
  /-- HUB.STATUS.update_policy: rolling; 1; 16 R433; 0 -/
  rolling     : Bool := false
  /-- HUB.STATUS.restart_busy; 1; 16 R433; 0 -/
  restartBusy : Bool := false
  /-- HUB.BOOT_CAUSE.cause; 4; 16 R433; 0 -/
  cause       : Nat := 0
  /-- HUB.BOOT_CAUSE.group; 3; 16 R433; 0 -/
  causeGroup  : Nat := 0
  /-- HUB.BOOT_CAUSE.warm; 1; 16 R433; 0 -/
  warm        : Bool := false
  /-- PDIR.MODE.config; 2; 10 R311; 0 until a block is verified (DC 9) -/
  config      : Nat := 0
  /-- digest of the configuration block in force; 256; 11 R316; empty -/
  configDigest : Bytes := []
  /-- running groups 0 to 5; 16 R433; each at its reset -/
  fw          : Table Nat FwGroup := []
  /-- versions run by the three die bridges; 3 x 8; 01 R32; 0 -/
  bridgeVer   : List Nat := []
  /-- HUB.RECOVERY_STATUS.state; 2; 16 R433; 0 -/
  recState    : Nat := 0
  /-- HUB.RECOVERY_STATUS.i3c_path; 1; 16 R433; 0 -/
  recI3c      : Bool := false
  /-- recovery bytes taken so far and their group; 16 R421; empty -/
  recImage    : Bytes := []
  recGroup    : Nat := 0
  /-- HUB.RECOVERY_BUF window; 64 KiB; 16 R433; every byte 0 (DC 9) -/
  recBuf      : Memory := []
  /-- bytes written through I3C RECOVERY_DATA and not yet taken; 16 R431; empty -/
  recI3cData  : Bytes := []
  deriving DecidableEq, Repr

/-- The SPI flash (R411): an outside part; its contents at reset are DC 11. -/
structure Flash where
  /-- firmware and configuration slots, by (group, slot B); 16 R411; empty (DC 11) -/
  slots     : Table (Nat × Bool) Bytes := []
  /-- device identity certificate; 16,352 B; 16 R411; empty (DC 11) -/
  cert      : Bytes := []
  /-- link training counters, each sealed under the device-area key; 4 x 36 B (DC 137); 15 R397, 16 R411; empty, which cannot be read
  and counts as 0 (DC 11) -/
  linkCtr   : Table Nat Bytes := []
  /-- ageing record: island voltages in mV; 16 R411, 14 R389; unreadable (DC 11) -/
  ageing    : Option (List Nat) := none
  /-- ageing record: canary history, for each island the projections that its record has taken, oldest first; 14 R389; none (DC 11) -/
  canaries  : Table Nat (List Nat) := []
  /-- the two sealed copies of the ceiling of the device-level counter; 36 B each (DC 137); 09 R269, 16 R411; empty, which cannot be
  read (DC 11) -/
  ceiling0  : Bytes := []
  ceiling1  : Bytes := []
  deriving DecidableEq, Repr

-- ------------------------------------------------------------------ HBM

/-- Granules and stacks (R17, R19, R293, R384). -/
structure Hbm where
  /-- state of each data granule, by (stack, granule); 8 x 56; 01 R19; free -/
  gran   : Table (Nat × Nat) GranState := []
  /-- keys in the XTS engines of the eight controllers, by (partition, epoch), the device-area key under partition 64; 768 each;
  01 R21, R29, 10 R288, R294, R297; none -/
  xts    : Table (Nat × Nat) Bytes := []
  /-- verified images as they were loaded into the device area, by group 0 to 4; 01 R21; none -/
  images : Table Nat Bytes := []
  deriving DecidableEq, Repr

-- ------------------------------------------------------------------ entropy

/-- A source bank (R332 to R339). -/
structure Bank where
  /-- ENT.BANK.state; 2; 12 R348; TESTING -/
  state     : BankState := .testing
  /-- ENT.BANK.failures; 2; 12 R348; 0 -/
  failures  : Nat := 0
  /-- ENT.BANK.last_rct; 1; 12 R348; 0 -/
  lastRct   : Bool := false
  /-- ENT.BANK.last_apt; 1; 12 R348; 0 -/
  lastApt   : Bool := false
  /-- last raw sample and its run length; 8 and 5; 12 R334; none -/
  rctSample : Option Byte := none
  rctRun    : Nat := 0
  /-- adaptive-proportion window: first sample, recurrences, samples in it; 8, 9, 9; 12 R334; none -/
  aptFirst  : Byte := 0
  aptCount  : Nat := 0
  aptPos    : Nat := 0
  /-- start-up samples passed; 10; 12 R335; 0 -/
  startup   : Nat := 0
  deriving DecidableEq, Repr

/-- A DRBG instance with its queue (R341 to R346). -/
structure Drbg where
  /-- instantiated; 1; 12 R342; 0 -/
  live      : Bool := false
  /-- working state; 384; 12 R341; empty -/
  key       : Bytes := []
  /-- generate requests since the last reseed; 25; 12 R343; 0 -/
  count     : Nat := 0
  /-- interval I; 25; 12 R343; 2^16 -/
  interval  : Nat := 65536
  /-- a reseed is owed; 1; 12 R343; 0 -/
  owed      : Bool := false
  /-- stalled; 1; 12 R343; 0 -/
  stalled   : Bool := false
  /-- queue of generated cells; up to 32 x 64 B; 12 R344; empty -/
  queue     : List Bytes := []
  /-- the engine refills the queue, from 16 cells or fewer up to 32; 1; 12 R344; 0 -/
  filling   : Bool := false
  /-- cells that the queue has drawn and holds; up to 32; 12 R344, R346; 0 -/
  cells     : Nat := 0
  deriving DecidableEq, Repr

/-- The entropy subsystem (R332 to R348). -/
structure Entropy where
  /-- banks 0 to 3; 12 R332; TESTING -/
  banks      : Table Nat Bank := []
  /-- active bank, when one feeds the conditioner: ENT.STATUS.active_bank; 2; 12 R338; none -/
  active     : Option Nat := none
  /-- samples of the active bank's open window not yet released; up to 512 B; 12 R338; empty -/
  window     : Bytes := []
  /-- the active bank waits for a window boundary; 1; 12 R339; 0 -/
  syncing    : Bool := false
  /-- seed buffer; up to 16 x 32 B; 12 R340; empty -/
  seeds      : List Bytes := []
  /-- DRBG instances 0 to 64; 12 R341; uninstantiated -/
  inst       : Table Nat Drbg := []
  /-- instance served last by the refill engine; 7; 12 R344; 0 -/
  lastRefill : Nat := 0
  /-- ENT.ERROR; 4; 12 R348; 0 -/
  error      : BitVec 4 := 0
  /-- ENT.ERROR_MASK; 4; 12 R348; 0 -/
  errorMask  : BitVec 4 := 0
  /-- ENT.STRICT; 64; 12 R348; 0 -/
  strict     : W64 := 0
  /-- ENT.LOCK; 1; 12 R348; 0 -/
  lock       : Bool := false
  /-- a tamper alarm has zeroed the instances: none is instantiated again before a reset; 1; 12 R342; 0 -/
  erased     : Bool := false
  /-- the last draw: instance, consumer, status and bytes delivered (the model's record; assumption 12) -/
  lastDraw   : Option (Nat × DrawConsumer × Status × Bytes) := none
  deriving DecidableEq, Repr

-- ------------------------------------------------------------------ reliability, islands, crossings

/-- A fault-log entry (R390). -/
structure LogEntry where
  /-- time; 64; 13 R351: the Keeper's clock when the entry was written -/
  time      : Nat
  kind      : Nat
  index     : Nat
  mechanism : Nat
  partition : Nat
  outcome   : Nat
  values    : BitVec 128
  /-- the host has not read the entry (R390, for log_wrapped) -/
  unread    : Bool := true
  deriving DecidableEq, Repr

/-- Reliability state (R368 to R390). -/
structure Rel where
  /-- REL.STATUS.containing; 1; 14 R390; 0 -/
  containing : Bool := false
  /-- REL.STATUS.degraded; 1; 14 R390; 0 -/
  degraded   : Bool := false
  /-- REL.ERROR; 5; 14 R390; 0 -/
  error      : BitVec 5 := 0
  /-- REL.ERROR_MASK; 5; 14 R390; 0 -/
  errorMask  : BitVec 5 := 0
  /-- REL.FAULTS.corrected; 32; 14 R390; 0 -/
  corrected  : W32 := 0
  /-- REL.FAULTS.detected; 32; 14 R390; 0 -/
  detected   : W32 := 0
  /-- REL.RETIRED.caravans; 48; 14 R390; 0 -/
  caravans   : BitVec 48 := 0
  /-- REL.RETIRED_UNITS.stewards; 8; 14 R390; 0 -/
  stewards   : BitVec 8 := 0
  /-- REL.RETIRED_UNITS.x25519; 8; 14 R390; 0 -/
  x25519     : BitVec 8 := 0
  /-- retired Porters (R374; no register shows them); 16; 14 R374; 0 -/
  porters    : BitVec 16 := 0
  /-- REL.RETIRED_UNITS.pseudo_channels; 8; 14 R390; 0 -/
  pseudo     : Nat := 0
  /-- REL.RETIRED_UNITS.stacks; 8; 14 R390; 0 -/
  lostStacks : BitVec 8 := 0
  /-- REL.AGEING.worst_island; 7; 14 R390; 0 -/
  worstIsland : Nat := 0
  /-- REL.AGEING.margin_exhausted; 1; 14 R390; 0 -/
  exhausted  : Bool := false
  /-- REL.AGEING.worst_margin; 10; 14 R390; 0 -/
  worstMargin : Nat := 0
  /-- REL.AGEING.worst_voltage; 10; 14 R390; 0 -/
  worstVolt  : Nat := 0
  /-- REL.LOG_HEAD; 8; 14 R390; 0 -/
  logHead    : Nat := 0
  /-- REL.LOG; 256 entries; 14 R390; 0 -/
  log        : Table Nat LogEntry := []
  /-- lanes of each die bridge that failed: AD0-HD, AD1-HD, AD0-AD1; 14 R383; none -/
  bridgeLanes : Table Nat Nat := []
  /-- link-up status of the three die bridges, in that order, which crosses as LEVEL; 3; 13 R357, 16 R414; 0 -/
  bridgesUp  : BitVec 3 := 0
  /-- the AD0-AD1 bridge has failed: no mirror copy; 1; 14 R386; 0 -/
  crossDown  : Bool := false
  /-- a die, or its bridge to HD, has failed: the state lasts until the device is replaced; 2; 14 R386; 0 -/
  diesDown   : BitVec 2 := 0
  /-- the Keeper, the power manager, the tamper monitor or the fuses have failed: the next boot check stops; 1; 14 R386; 0 -/
  keeperDown : Bool := false
  /-- Keeper clock periods since the last cold boot; 64; 13 R351; 0 -/
  now        : Nat := 0
  deriving DecidableEq, Repr

/-- Islands: stalls, parking, retention, voltages and canaries (R352, R361, R367, R388, R425, R426). -/
structure Islands where
  /-- REL.ISLAND_STALL.stall_seen; 40; 13 R367; 0 -/
  seen      : BitVec 40 := 0
  /-- REL.ISLAND_STALLED.stalled; 40; 13 R367; 0 -/
  stalled   : BitVec 40 := 0
  /-- clocked islands parked by the power manager; 40; 13 R362, 16 R425; 0 -/
  parked    : BitVec 40 := 0
  /-- self-timed islands held at retention; 120; 03 R84, 16 R425; 0 -/
  retention : BitVec 120 := 0
  /-- island voltages in mV; 120; 14 R388; 850 (R389: no readable record) -/
  volts     : Table Nat Nat := []
  /-- consecutive readings above floor + 10 %; 2; 14 R388; 0 -/
  highRuns  : Table Nat Nat := []
  /-- last projection of each island in M beats/s: PWR island counters; 16; 16 R433; 0 -/
  lastProj  : Table Nat Nat := []
  /-- voltages at the last ageing record write; 14 R389; none -/
  recorded  : Option (List Nat) := none
  /-- projections read since the last ageing record write, oldest first, by island; 14 R389; none -/
  readings  : Table Nat (List Nat) := []
  deriving DecidableEq, Repr

-- ------------------------------------------------------------------ power, pins, I3C, Porush

/-- Power management (R422 to R433). -/
structure Power where
  /-- PWR.STATUS.state and Sleep; 2; 16 R433; D0 -/
  state     : PowerState := .d0
  /-- PWR.CTRL.doze; 1; 16 R433; 0 -/
  doze      : Bool := false
  /-- Doze entry is waiting for running steps; 1; 16 R423; 0 -/
  entering  : Bool := false
  /-- PWR.STATUS.duty_ad0; 5; 16 R433; 16 -/
  duty0     : Nat := 16
  /-- PWR.STATUS.duty_ad1; 5; 16 R433; 16 -/
  duty1     : Nat := 16
  /-- PWR.LIMIT.package_limit; 10; 16 R433; 0x398 -/
  limit     : BitVec 10 := 0x398
  /-- PWR.LOCK; 1; 16 R433; 0 -/
  lock      : Bool := false
  /-- PWR.TEMP ad0, ad1, hd; 3 x 8; 16 R433; 0 -/
  temp0     : BitVec 8 := 0
  temp1     : BitVec 8 := 0
  tempH     : BitVec 8 := 0
  /-- PWR.POWER.package; 10; 16 R433; 0 -/
  power     : Nat := 0
  /-- PWR.ERROR; 4; 16 R433; 0 -/
  error     : BitVec 4 := 0
  /-- PWR.ERROR_MASK; 4; 16 R433; 0 -/
  errorMask : BitVec 4 := 0
  /-- PWR.THROTTLED in evaluations of 10 us (100 to the millisecond); 64; 16 R433; 0 -/
  throttled : Nat := 0
  /-- consecutive evaluations with every condition of the raise row, per die; 7; 16 R429; 0 -/
  calm0     : Nat := 0
  calm1     : Nat := 0
  deriving DecidableEq, Repr

/-- Output and input pins that hold state (R436, R442). -/
structure Pins where
  /-- PWRGOOD; 1; 17 R436; deasserted (internal pull-down) -/
  pwrgood   : Bool := false
  /-- TAMPER_OUT; 1; 17 R442; low -/
  tamperOut : Bool := false
  /-- THERMTRIP# asserted; 1; 17 R442; released -/
  thermtrip : Bool := false
  /-- ALERT# asserted; 1; 17 R442; released -/
  alert     : Bool := false
  deriving DecidableEq, Repr

/-- The I3C target (R327, R431). -/
structure I3c where
  /-- TELEMETRY_SEL; 6; 16 R431; DC 9 (0) -/
  sel       : BitVec 6 := 0
  /-- CHALLENGE in the holding register; 32 B; 11 R327; none -/
  challenge : Option Bytes := none
  /-- RESPONSE; 48 B; 11 R327; none -/
  response  : Option Bytes := none
  deriving DecidableEq, Repr

/-- A Porush link (R391 to R397, R410). -/
structure Link where
  /-- PRS.LINK.up; 1; 15 R410; 0 -/
  up        : Bool := false
  /-- PRS.LINK.narrow; 1; 15 R410; 0 -/
  narrow    : Bool := false
  /-- PRS.LINK.cause; 4; 15 R410; 0 -/
  cause     : Nat := 0
  /-- PRS.LINK.version; 8; 15 R410; 0 -/
  version   : Nat := 0
  /-- PRS.LINK.failed_lanes; 8; 15 R410; 0 -/
  failed    : BitVec 8 := 0
  /-- PRS.LINK.link_event; 1; 15 R410; 0 -/
  event     : Bool := false
  /-- PRS.LINK.event_mask; 1; 15 R410; 0 -/
  mask      : Bool := false
  /-- PRS.LINK.partner_serial; 64; 15 R410; 0 -/
  partner   : W64 := 0
  /-- PRS.LINK.replays; 32; 15 R410; 0 -/
  replays   : W32 := 0
  /-- training runs; 1; 15 R395; 0 -/
  training  : Bool := false
  /-- link key; 256; 15 R397; empty -/
  key       : Bytes := []
  /-- link epoch; 64; 15 R397; 0 -/
  epoch     : Nat := 0
  /-- this side has the lower link identity; 1; 15 R397; 0 -/
  lower     : Bool := false
  /-- transmit flit counter; 64; 15 R393; 0 -/
  txCtr     : Nat := 0
  /-- next receive counter expected; 64; 15 R394; 0 -/
  rxCtr     : Nat := 0
  /-- nak to send in the next flit; 1; 15 R394; 0 -/
  nakNext   : Bool := false
  /-- naks received in a row for one flit; 4; 15 R394; 0 -/
  naks      : Nat := 0
  /-- replay buffer: flits sent and not acknowledged, with their counters; up to 512; 15 R394; empty -/
  replay    : List (Nat × Bytes) := []
  /-- credits to send, per class; 3 x 8; 15 R398; 128 -/
  credits   : List Nat := [128, 128, 128]
  /-- payload received and not yet a whole message, per class; 15 R399; empty -/
  partials  : Table Nat Bytes := []
  /-- payload waiting to be sent, per class; 15 R398; empty -/
  txq       : Table Nat Bytes := []
  /-- credits to return in the next flit, per class; 3 x 8; 15 R398; 0 -/
  owed      : List Nat := [0, 0, 0]
  /-- flits sent since class 2 last had one, while it has data; 5; 15 R398; 0 -/
  since2    : Nat := 0
  deriving DecidableEq, Repr

/-- A message of a circuit as data: the spec gives the bodies' contents and not their bytes (assumption 22). -/
inductive CircuitMsg where
  | join (proof descDigest : Bytes) (w : Nat)
  | change (c : LeadChange)
  | forward (opcode : Nat)
  | report (client : Nat) (m : MemberMsg)
  | rowPartial (row : Nat) (word : Bytes)
  deriving DecidableEq, Repr

/-- Porush messages end to end (R399). -/
structure Porush where
  /-- links 0 to 3; 15 R391; down -/
  links     : Table Nat Link := []
  /-- next number delivered, per (source, destination, class); 32; 15 R399; 0 -/
  delivered : Table (Nat × Nat × Nat) Nat := []
  /-- next number sent, per (source, destination, class); 32; 15 R399; DC 48 (0) -/
  sent      : Table (Nat × Nat × Nat) Nat := []
  /-- messages kept until acknowledged: the link they left by, the circuit's partition, the bytes; 15 R399; empty -/
  unacked   : List (Nat × Nat × Bytes) := []
  /-- messages for this package, in order of delivery; 15 R399; empty -/
  inbox     : List Bytes := []
  /-- messages with no route, with their circuit's partition; 15 R409; empty -/
  waiting   : List (Nat × Bytes) := []
  /-- what the messages say that this package has handed to its links, in order, as (partition, member, content): the model's own record;
  on a link they travel in flits under the link key (R393, R397); empty -/
  messages  : List (Nat × Nat × CircuitMsg) := []
  deriving DecidableEq, Repr

/-- A write the device made to host memory or a signal it sent, in order (the model's record of outputs; assumption 13). -/
inductive Output where
  | data (port : Port) (address : W64) (bytes : Bytes)
  | completion (fn : Fn) (cq : Nat) (address : W64) (bytes : Bytes)
  | msix (fn : Fn) (vector : Nat)
  | flit (link : Nat) (bytes : Bytes)
  deriving DecidableEq, Repr

-- ------------------------------------------------------------------ crossings

/-- A clocked island's crossings to the fabric, while its clock does not run (R352 to R366). An island whose clock runs takes each item
within the step that sends it, so that its stores are empty between steps. A LEVEL crossing stores nothing: the far side samples the
condition, which is a bit of the state. -/
structure Crossing where
  /-- STREAM into the island: FIFO on the island side; up to 32 entries; 13 R354; empty -/
  inFifo    : List Output := []
  /-- its replay copies on the fabric side, of entries that the read pointer has not passed; up to 32; 13 R364; empty -/
  inReplay  : List Output := []
  /-- items at the source, which the full FIFO stops; list; 13 R354, R361; empty -/
  inWait    : List Output := []
  /-- STREAM into the fabric: FIFO on the fabric side and replay copies on the island side; up to 32; 13 R354; empty -/
  outFifo   : List Output := []
  outReplay : List Output := []
  /-- COUNTED: the events that the pending counter counts, in the order they arose; the counter has 8 bits; 13 R355; empty -/
  counted   : List Output := []
  /-- events for which the credits of R356 are used up; list; 13 R356; empty -/
  uncredited : List Output := []
  /-- VALUE output register and one-deep holding register; 13 R358; empty and none -/
  value     : Bytes := []
  holding   : Option Bytes := none
  /-- what the crossing delivered after a stop, in order, and what a reset of a side lost; lists (the model's record); 13 R361, R364, R365 -/
  delivered : List Output := []
  lost      : List Output := []
  deriving DecidableEq, Repr

-- ------------------------------------------------------------------ the state

/-- The whole block. -/
structure State where
  /-- commands waiting, first in first out; list; the model's own (this task's queue); empty -/
  pending  : List Instr := []
  cmd      : CmdPlane := {}
  /-- partitions 0 to 63; 64; 01 R34; absent -/
  parts    : Table Nat Partition := []
  keeper   : Keeper := {}
  hub      : Hub := {}
  flash    : Flash := {}
  hbm      : Hbm := {}
  entropy  : Entropy := {}
  /-- caravans C00 to C47; 48; 03 R82; idle -/
  caravans : Table Nat Caravan := []
  rel      : Rel := {}
  islands  : Islands := {}
  power    : Power := {}
  pins     : Pins := {}
  i3c      : I3c := {}
  porush   : Porush := {}
  /-- outputs in order, as the fabric sent them to the islands that carry them; list; the model's own record (assumption 13); empty -/
  outputs  : List Output := []
  /-- crossings of the clocked islands, by island; 40; 13 R354; empty -/
  crossings : Table Nat Crossing := []
  /-- counter applied to the free values of Config; Nat; the model's own (assumption 3); DC 3 (0) -/
  freeCount : Nat := 0
  deriving DecidableEq, Repr

/-- The machine after reset, before PWRGOOD rises (R414, R442): every field at its reset value. The two admission-duty
caravans of each die (R57) are C00, C01, C24 and C25 (DESIGN CHOICE, assumption 14). -/
def State.reset : State :=
  { caravans := [(0, { duty := true }), (1, { duty := true }), (24, { duty := true }), (25, { duty := true })] }

/-- Faults of a step. The spec reports every failure as a status, an event or a register, so a step of this block never
stops with a fault; the one constructor names an internal contradiction and no meaning raises it. Safe. -/
inductive Fault where
  /-- Raised by no meaning. Safe. -/
  | none
  deriving DecidableEq, Repr

/-- Refusals of a step. -/
inductive Refusal where
  /-- An instruction with no meaning yet, by its mnemonic; raised in exec's arms only. Safe. -/
  | notModelled (mnemonic : String)
  deriving DecidableEq, Repr

end Sys2Proof.Machine
end

