-- ==== Sys2Proof/Machine/Bits.lean ====
section
/-! DEFINITION. Bytes and fields: little-endian integers (R12), slices, bit fields, and canonical byte memories. -/

namespace Sys2Proof.Machine

/-- The number that a byte string spells, lowest address first (R12). -/
def leNat : Bytes → Nat
  | [] => 0
  | b :: bs => b.toNat + 256 * leNat bs

/-- A number as n bytes, lowest address first (R12). -/
def toLe : Nat → Nat → Bytes
  | 0, _ => []
  | n + 1, v => BitVec.ofNat 8 v :: toLe n (v / 256)

/-- A number as n bytes, highest first: where a published standard fixes that order (R287, R324). -/
def toBe (n v : Nat) : Bytes := (toLe n v).reverse

/-- The bytes at an offset. -/
def slice (bs : Bytes) (off len : Nat) : Bytes := (bs.drop off).take len

/-- A little-endian field of a byte string. -/
def field (bs : Bytes) (off len : Nat) : Nat := leNat (slice bs off len)

/-- Are the bytes at an offset all zero? -/
def zeros (bs : Bytes) (off len : Nat) : Bool := (slice bs off len).all (fun b => decide (b = 0))

/-- n zero bytes. -/
def zeroBytes (n : Nat) : Bytes := List.replicate n 0

/-- A byte string cut or zero-padded to n bytes. -/
def padTo (n : Nat) (bs : Bytes) : Bytes := bs.take n ++ zeroBytes (n - bs.length)

/-- The bits [lo + w - 1 : lo] of a number. -/
def bits (v lo w : Nat) : Nat := v / 2 ^ lo % 2 ^ w

/-- Bit i of a number. -/
def bitAt (v i : Nat) : Bool := decide (v / 2 ^ i % 2 = 1)

/-- A Bool as a bit. -/
def bn (b : Bool) : Nat := if b then 1 else 0

/-- The ASCII bytes of a label. -/
def ascii (s : String) : Bytes := s.toList.map (fun c => BitVec.ofNat 8 c.toNat)

/-- XOR of two byte strings, of the shorter one's length. -/
def xorBytes (a b : Bytes) : Bytes := List.zipWith (fun x y => x ^^^ y) a b

/-- Cut a byte string into pieces of k bytes: the first n of them. -/
def chunks : Nat → Nat → Bytes → List Bytes
  | 0, _, _ => []
  | n + 1, k, bs => bs.take k :: chunks n k (bs.drop k)

/-- Cut a byte string into pieces of k bytes, all of them. -/
def pieces (k : Nat) (bs : Bytes) : List Bytes := chunks (ceilDiv bs.length k) k bs

/-- The canonical form of a byte memory: strictly rising addresses, no listed 0 (R295). -/
def Memory.wf : Memory → Bool
  | [] => true
  | [(_, b)] => decide (b ≠ 0)
  | (a, b) :: (a', b') :: m => decide (b ≠ 0) && decide (a < a') && Memory.wf ((a', b') :: m)

/-- The byte at an address: 0 where nothing is listed (R295). -/
def Memory.read : Memory → Nat → Byte
  | [], _ => 0
  | (k, b) :: m, a => if k = a then b else Memory.read m a

/-- Write one byte, keeping the canonical form. -/
def Memory.write : Memory → Nat → Byte → Memory
  | [], a, b => if b = 0 then [] else [(a, b)]
  | (k, c) :: m, a, b =>
    if a < k then (if b = 0 then (k, c) :: m else (a, b) :: (k, c) :: m)
    else if a = k then (if b = 0 then m else (a, b) :: m)
    else (k, c) :: Memory.write m a b

/-- Write a byte string at an address. -/
def Memory.writes (m : Memory) (a : Nat) : Bytes → Memory
  | [] => m
  | b :: bs => Memory.writes (Memory.write m a b) (a + 1) bs

/-- Read n bytes from an address. -/
def Memory.reads (m : Memory) (a : Nat) : Nat → Bytes
  | 0 => []
  | n + 1 => Memory.read m a :: Memory.reads m (a + 1) n

end Sys2Proof.Machine
end

