-- ==== Sys2Proof/Machine/Codes.lean ====
section
/-! DEFINITION. The number codes of the spec's tables: statuses, round states, event kinds, opcodes and classes. -/

namespace Sys2Proof.Machine

/-- The 8-bit code of a status (R284). -/
def Status.code : Status → Nat
  | .ok => 0x00 | .retryLater => 0x01 | .duplicate => 0x02 | .notReady => 0x03 | .authFail => 0x04
  | .counterStale => 0x05 | .keyMismatch => 0x06 | .levelExhausted => 0x07 | .headroom => 0x08
  | .queueReset => 0x09 | .faultReplayed => 0x0A | .entropyUnavailable => 0x0B | .scrubbing => 0x0C
  | .tamper => 0x0D | .policyDenied => 0x0E | .malformed => 0x0F | .range => 0x10 | .keyDraining => 0x11
  | .roundClosed => 0x12 | .version => 0x13 | .stalledIsland => 0x14

/-- The encoding of PWIN.STATUS.round_state (R282). -/
def RoundState.code : RoundState → Nat
  | .idle => 0 | .opened => 1 | .closing => 2 | .unmasking => 3 | .finishing => 4 | .exported => 5
  | .retired => 6 | .aborted => 7

/-- The kind code of an event (R263). -/
def EventKind.code : EventKind → Nat
  | .lodged => 1 | .stateChange => 2 | .roundStatus => 3 | .verifierOut => 4 | .port => 5 | .key => 6
  | .queueReset => 7 | .orphan => 8

/-- Kinds 1 to 4 are replaced by a later event of the same kind and status; kinds 5 to 8 never (R263). -/
def EventKind.replaced (k : EventKind) : Bool := decide (k.code ≤ 4)

/-- The tile_phase code (R119). -/
def TilePhase.code : TilePhase → Nat
  | .accumulating => 0 | .unmasked => 1 | .finished => 2

/-- The mode code of a descriptor (R47). -/
def Mode.code : Mode → Nat
  | .maskedSum => 0 | .shareSum => 1 | .cipherSum => 2

/-- The class of an SQ from SQn_CFG.class (R282): 1 P1, 2 P2, 3 P3. -/
def Cls.ofCfg (c : BitVec 2) : Cls :=
  if c = 1 then .p1 else if c = 2 then .p2 else if c = 3 then .p3 else .p0

/-- The priority number of a class: 0 is served first (R27). -/
def Cls.prio : Cls → Nat
  | .p0 => 0 | .p1 => 1 | .p2 => 2 | .p3 => 3

/-- The bank state code of ENT.BANK (R348). -/
def BankState.code : BankState → Nat
  | .testing => 0 | .healthy => 1 | .failed => 2 | .retired => 3

/-- P0 is port 0 and P1 port 1 (R282). -/
def portNat : Port → Nat
  | .p0 => 0 | .p1 => 1

/-- The other port (R253). -/
def otherPort : Port → Port
  | .p0 => .p1 | .p1 => .p0

/-- Port 0 or 1 by number. -/
def portOf (n : Nat) : Port := if n = 0 then .p0 else .p1

/-- The port of a function. -/
def fnPort : Fn → Port
  | .pf p => p
  | .vf p _ => p

/-- The partition of a VF (R253). -/
def fnPart : Fn → Option Nat
  | .pf _ => none
  | .vf _ n => some n

/-- Is the function a PF? -/
def fnIsPf : Fn → Bool
  | .pf _ => true
  | .vf _ _ => false

/-- Where a command may be submitted (R266). -/
inductive Where where
  | pf | vf | both
  deriving DecidableEq, Repr

/-- The key under which a command is critical (R266). -/
inductive TagKey where
  | none | keeper | partition | either
  deriving DecidableEq, Repr

/-- One row of the command table of R266. The classes are the SQ class numbers that may carry the command, with 0 for a
P0 slot; by channel for CT commands. params lists the defined bytes of params as (offset, size, mask of the defined bits
of a single byte, 0xFF when all are). -/
structure CmdRow where
  opcode   : Nat
  fns      : Where
  classes  : List Nat
  channel  : Bool := false
  tag      : TagKey := .none
  buffer   : Bool := false
  params   : List (Nat × Nat × Nat) := []
  /-- offset of the partition param, which only the PF uses -/
  partAt   : Option Nat := none
  deriving DecidableEq, Repr

/-- The command table, first half (R266). -/
def commandRowsA : List CmdRow :=
  [ { opcode := 0x0101, fns := .pf, classes := [2, 3], tag := .keeper, partAt := some 0,
      params := [(0, 1, 0xFF), (1, 1, 0xFF), (2, 1, 0xFF), (3, 1, 0xFF), (4, 1, 0xFF)] },
    { opcode := 0x0102, fns := .pf, classes := [2, 3], tag := .keeper, partAt := some 0, params := [(0, 1, 0xFF)] },
    { opcode := 0x0103, fns := .both, classes := [0, 1], partAt := some 0, params := [(0, 1, 0xFF), (1, 1, 0xFF)] },
    { opcode := 0x0201, fns := .vf, classes := [1, 2], tag := .partition, buffer := true,
      params := [(0, 4, 0xFF), (8, 8, 0xFF)] },
    { opcode := 0x0202, fns := .vf, classes := [0, 1, 2], params := [(0, 4, 0xFF)] },
    { opcode := 0x0203, fns := .vf, classes := [2], tag := .partition, buffer := true,
      params := [(0, 4, 0xFF), (8, 8, 0xFF)] },
    { opcode := 0x0204, fns := .vf, classes := [1, 2], params := [(0, 4, 0xFF)] },
    { opcode := 0x0205, fns := .vf, classes := [1, 2], buffer := true, params := [(0, 4, 0xFF), (4, 1, 0xFF)] },
    { opcode := 0x0301, fns := .vf, classes := [1], buffer := true, params := [(0, 4, 0xFF)] },
    { opcode := 0x0401, fns := .vf, classes := [1, 2], buffer := true, params := [(0, 4, 0xFF)] },
    { opcode := 0x0501, fns := .vf, classes := [1, 2], buffer := true, params := [(0, 4, 0xFF)] },
    { opcode := 0x0502, fns := .vf, classes := [1, 2], buffer := true, params := [(0, 4, 0xFF)] },
    { opcode := 0x0503, fns := .vf, classes := [1, 2], params := [(0, 4, 0xFF), (4, 4, 0xFF)] },
    { opcode := 0x0504, fns := .vf, classes := [1, 2], buffer := true, params := [(0, 4, 0xFF)] },
    { opcode := 0x0601, fns := .vf, classes := [], channel := true, params := [(0, 4, 0xFF), (4, 4, 0xFF)] },
    { opcode := 0x0602, fns := .vf, classes := [], channel := true, buffer := true,
      params := [(0, 4, 0xFF), (4, 1, 0xFF)] },
    { opcode := 0x0603, fns := .vf, classes := [], channel := true,
      params := [(0, 4, 0xFF), (4, 4, 0xFF), (8, 1, 0x01)] },
    { opcode := 0x0604, fns := .vf, classes := [], channel := true, params := [(0, 4, 0xFF), (4, 1, 0xFF)] } ]

/-- The command table, second half (R266). -/
def commandRowsB : List CmdRow :=
  [ { opcode := 0x0701, fns := .both, classes := [2, 3], tag := .either, partAt := some 0, params := [(0, 1, 0xFF)] },
    { opcode := 0x0702, fns := .vf, classes := [2], tag := .partition, buffer := true, params := [(0, 4, 0xFF)] },
    { opcode := 0x0801, fns := .vf, classes := [2, 3], tag := .partition, buffer := true },
    { opcode := 0x0802, fns := .vf, classes := [2], tag := .partition, params := [(0, 1, 0xFF)] },
    { opcode := 0x0901, fns := .vf, classes := [2, 3], tag := .partition, buffer := true },
    { opcode := 0x0902, fns := .vf, classes := [2], tag := .partition, params := [(0, 1, 0xFF)] },
    { opcode := 0x0A01, fns := .vf, classes := [2, 3], tag := .partition, buffer := true, params := [(0, 1, 0xFF)] },
    { opcode := 0x0B01, fns := .both, classes := [2], buffer := true },
    { opcode := 0x0B02, fns := .both, classes := [2], buffer := true },
    { opcode := 0x0B03, fns := .both, classes := [2], buffer := true },
    { opcode := 0x0C01, fns := .both, classes := [3], buffer := true },
    { opcode := 0x0F01, fns := .both, classes := [0, 1, 2, 3] },
    { opcode := 0x0F02, fns := .both, classes := [0, 1, 2], tag := .either, partAt := some 4,
      params := [(0, 4, 0xFF), (4, 1, 0xFF)] },
    { opcode := 0x0F03, fns := .both, classes := [0, 1, 2], partAt := some 1,
      params := [(0, 1, 0x01), (1, 1, 0xFF)] },
    { opcode := 0x1001, fns := .pf, classes := [3], tag := .keeper, buffer := true,
      params := [(0, 1, 0xFF), (1, 1, 0xFF)] },
    { opcode := 0x1002, fns := .pf, classes := [3], tag := .keeper, buffer := true } ]

/-- The device executes exactly these commands (R266). -/
def commandRows : List CmdRow := commandRowsA ++ commandRowsB

/-- The row of an opcode. -/
def commandRow (op : Nat) : Option CmdRow := commandRows.find? (fun r => decide (r.opcode = op))

/-- The descriptor that 64 bytes spell (R258). -/
def parseDesc (raw : Bytes) : Desc :=
  { opcode := field raw 0x00 2
    flags := BitVec.ofNat 8 (field raw 0x02 1)
    channel := BitVec.ofNat 8 (field raw 0x03 1)
    commandId := BitVec.ofNat 16 (field raw 0x04 2)
    reserved := field raw 0x06 2
    counter := BitVec.ofNat 64 (field raw 0x08 8)
    address := BitVec.ofNat 64 (field raw 0x10 8)
    length := field raw 0x18 8
    params := padTo 16 (slice raw 0x20 16)
    tag := padTo 16 (slice raw 0x30 16)
    head := padTo 48 (slice raw 0 48) }

/-- A little-endian field of a descriptor's params. -/
def Desc.param (d : Desc) (off len : Nat) : Nat := field d.params off len

/-- Flags bit 0: counter and tag are present (R258). -/
def Desc.critical (d : Desc) : Bool := bitAt d.flags.toNat 0
/-- Flags bit 1: the last flag of UNMASK.SEEDS (R258). -/
def Desc.last (d : Desc) : Bool := bitAt d.flags.toNat 1

/-- Are a param byte and its bits defined for a row, on this function? The partition byte is defined on the PF alone
when the command may also come from a VF (R266). -/
def CmdRow.paramMask (r : CmdRow) (pf : Bool) (i : Nat) : Nat :=
  if r.partAt = some i ∧ pf = false then 0
  else match r.params.find? (fun e => decide (e.1 ≤ i ∧ i < e.1 + e.2.1)) with
    | some e => e.2.2
    | none => 0

/-- Every unused bit of params is 0 (R267 check 1). -/
def CmdRow.paramsOk (r : CmdRow) (pf : Bool) (d : Desc) : Bool :=
  (List.range 16).all (fun i => (field d.params i 1) &&& (255 - r.paramMask pf i) == 0)

end Sys2Proof.Machine
end

