-- ==== Sys2Proof/Machine/Ops.lean ====
section
/-! DEFINITION. Named operations over the state: the accessors of each table, cells and gates, interrupts and error
registers, events, and the one operation that completes a command. -/

namespace Sys2Proof.Machine

-- ------------------------------------------------------------------ accessors

/-- A function's registers and queues. -/
def getFn (s : State) (f : Fn) : FnState := Table.getD s.cmd.fns f {}
/-- Set a function's registers and queues. -/
def setFn (s : State) (f : Fn) (x : FnState) : State := { s with cmd := { s.cmd with fns := Table.put s.cmd.fns f x } }
/-- SQ n of a function. -/
def getSq (s : State) (f : Fn) (n : Nat) : Sq := Table.getD (getFn s f).sqs n {}
/-- Set SQ n of a function. -/
def setSq (s : State) (f : Fn) (n : Nat) (q : Sq) : State :=
  setFn s f { getFn s f with sqs := Table.put (getFn s f).sqs n q }
/-- CQ n of a function. -/
def getCq (s : State) (f : Fn) (n : Nat) : Cq := Table.getD (getFn s f).cqs n {}
/-- Set CQ n of a function. -/
def setCq (s : State) (f : Fn) (n : Nat) (q : Cq) : State :=
  setFn s f { getFn s f with cqs := Table.put (getFn s f).cqs n q }
/-- P0 slot n of a function. -/
def getSlot (s : State) (f : Fn) (n : Nat) : Slot := Table.getD (getFn s f).slots n {}
/-- Set P0 slot n of a function. -/
def setSlot (s : State) (f : Fn) (n : Nat) (x : Slot) : State :=
  setFn s f { getFn s f with slots := Table.put (getFn s f).slots n x }
/-- A port. -/
def getPort (s : State) : Port → PortState
  | .p0 => s.cmd.port0
  | .p1 => s.cmd.port1
/-- Set a port. -/
def setPort (s : State) (p : Port) (x : PortState) : State :=
  match p with
  | .p0 => { s with cmd := { s.cmd with port0 := x } }
  | .p1 => { s with cmd := { s.cmd with port1 := x } }
/-- Partition n. -/
def getPart (s : State) (n : Nat) : Partition := Table.getD s.parts n {}
/-- Set partition n. -/
def setPart (s : State) (n : Nat) (x : Partition) : State := { s with parts := Table.put s.parts n x }
/-- The partition's current round (R44). -/
def getRound (s : State) (n : Nat) : Option Round := (getPart s n).round
/-- Set the partition's current round. -/
def setRound (s : State) (n : Nat) (r : Round) : State := setPart s n { getPart s n with round := some r }
/-- Caravan cv. -/
def getCv (s : State) (cv : Nat) : Caravan := Table.getD s.caravans cv {}
/-- Set caravan cv. -/
def setCv (s : State) (cv : Nat) (x : Caravan) : State := { s with caravans := Table.put s.caravans cv x }
/-- Set the work of a caravan. -/
def setWork (s : State) (cv : Nat) (w : Work) : State := setCv s cv { getCv s cv with work := some w }
/-- Bank b of the entropy subsystem. -/
def getBank (s : State) (b : Nat) : Bank := Table.getD s.entropy.banks b {}
/-- Set bank b. -/
def setBank (s : State) (b : Nat) (x : Bank) : State :=
  { s with entropy := { s.entropy with banks := Table.put s.entropy.banks b x } }
/-- DRBG instance n. -/
def getInst (s : State) (n : Nat) : Drbg := Table.getD s.entropy.inst n {}
/-- Set DRBG instance n. -/
def setInst (s : State) (n : Nat) (x : Drbg) : State :=
  { s with entropy := { s.entropy with inst := Table.put s.entropy.inst n x } }
/-- Porush link l. -/
def getLink (s : State) (l : Nat) : Link := Table.getD s.porush.links l {}
/-- Set Porush link l. -/
def setLink (s : State) (l : Nat) (x : Link) : State :=
  { s with porush := { s.porush with links := Table.put s.porush.links l x } }
/-- Firmware group g as it runs. -/
def getFw (s : State) (g : Nat) : FwGroup := Table.getD s.hub.fw g {}
/-- Set firmware group g. -/
def setFw (s : State) (g : Nat) (x : FwGroup) : State := { s with hub := { s.hub with fw := Table.put s.hub.fw g x } }
/-- The state of a granule (R19, R293). -/
def getGran (s : State) (g : Nat × Nat) : GranState := Table.getD s.hbm.gran g .free
/-- Set the state of a granule. -/
def setGran (s : State) (g : Nat × Nat) (x : GranState) : State := { s with hbm := { s.hbm with gran := Table.put s.hbm.gran g x } }
/-- The crossings of a clocked island. -/
def getCrossing (s : State) (i : Nat) : Crossing := Table.getD s.crossings i {}

/-- The clocked island into which an output crosses: the PCI Express controller of its port, or the link's (R352). -/
def outIsland : Output → Nat
  | .data p _ _ => 2 + (if p = .p0 then 0 else 1)
  | .completion f _ _ _ => 2 + (if fnPort f = .p0 then 0 else 1)
  | .msix f _ => 2 + (if fnPort f = .p0 then 0 else 1)
  | .flit l _ => 20 + l

/-- Does an island's clock stand still: stalled, or parked by the power manager (R361)? -/
def clockStopped (s : State) (i : Nat) : Bool := s.islands.stalled.getLsbD i || s.islands.parked.getLsbD i

/-- Is a voltage island at its operating voltage (R84, R425)? -/
def islandUp (s : State) (n : Nat) : Bool := !s.islands.retention.getLsbD n

/-- Entries of a STREAM crossing's FIFO (R354). -/
def streamDepth : Nat := 32

/-- The events that credits limit, and their limits (R356). -/
inductive CountedKind where
  | msixRequest | writeAck | flitCredit | bridgeCredit | mailPost | slotWrite | windowPassed
  deriving DecidableEq, Repr

/-- Outstanding events of a COUNTED crossing at most (R356). Of all but the first, none is outstanding between two steps. -/
def countedLimit : CountedKind → Nat
  | .msixRequest => 128 | .writeAck => 192 | .flitCredit => 128 | .bridgeCredit => 96
  | .mailPost => 64 | .slotWrite => 32 | .windowPassed => 16

/-- An output that reaches a crossing whose island's clock stands still: an MSI-X request is a COUNTED event while credits last; every
other output is a STREAM item, with its replay copy, and waits at the source while the FIFO is full (R354 to R356, R364). -/
def crossIn (x : Crossing) (o : Output) : Crossing :=
  match o with
  | .msix _ _ =>
    if x.counted.length < countedLimit .msixRequest ∧ x.uncredited = [] then { x with counted := x.counted ++ [o] }
    else { x with uncredited := x.uncredited ++ [o] }
  | _ =>
    if x.inFifo.length < streamDepth ∧ x.inWait = [] then { x with inFifo := x.inFifo ++ [o], inReplay := x.inReplay ++ [o] }
    else { x with inWait := x.inWait ++ [o] }

/-- The crossings after an output. -/
def crossed (s : State) (o : Output) : Table Nat Crossing :=
  if clockStopped s (outIsland o) then Table.put s.crossings (outIsland o) (crossIn (getCrossing s (outIsland o)) o) else s.crossings

/-- Send an output: it joins the record, and where its island's clock stands still its crossing holds it (R354, R361). -/
def emit (s : State) (o : Output) : State := { s with outputs := s.outputs ++ [o], crossings := crossed s o }
/-- Take a fresh index for a free value (assumption 3). -/
def bumpFree (s : State) : State := { s with freeCount := s.freeCount + 1 }

/-- The partition's round state: IDLE where it holds no round (R43, R282). -/
def roundStateOf (s : State) (p : Nat) : RoundState :=
  match getRound s p with
  | none => .idle
  | some r => r.state

/-- The round_id of the partition's current round, 0 for none. -/
def roundIdOf (s : State) (p : Nat) : W32 :=
  match getRound s p with
  | none => 0
  | some r => r.desc.roundId

/-- Does the partition exist, the scrub included (R311)? -/
def partExists (s : State) (p : Nat) : Bool := decide ((getPart s p).phase ≠ .absent)

/-- The function that serves a partition (R277). -/
def servingFn (s : State) (p : Nat) : Option Fn := (getPart s p).serving.map (fun port => Fn.vf port p)

/-- The die of a caravan: AD0 carries C00 to C23 (R17). -/
def dieOf (cv : Nat) : Nat := cv / 24

/-- The stacks of a die: H0 to H3 on AD0, H4 to H7 on AD1 (R17). -/
def stacksOf (die : Nat) : List Nat := (List.range 4).map (fun i => 4 * die + i)

-- ------------------------------------------------------------------ cells and gates

/-- The gates after a change of the free shared cells: each closes below its close count and reopens at its reopen
count (R69). -/
def regate (s : State) : State :=
  { s with cmd := { s.cmd with
      bulkClosed := if s.cmd.sharedFree < 261632 then true
        else if 313959 ≤ s.cmd.sharedFree then false else s.cmd.bulkClosed
      allClosed := if s.cmd.sharedFree < 104653 then true
        else if 156980 ≤ s.cmd.sharedFree then false else s.cmd.allClosed } }

/-- Works of a partition, on a caravan or saved: each holds one cell of the reservation for the one message that its Steward and its
Sequencer pass to and fro (R28, R225; DESIGN CHOICE, assumption 109). -/
def worksOf (s : State) (p : Nat) : Nat :=
  (s.caravans.filter (fun e => e.2.work.any (fun w => decide (w.part = p)))).length + (getPart s p).saved.length

/-- Cells free in a function's own region: the partition's reservation for a VF, none for the PF (R28, R446). -/
def reservedFree (s : State) : Option Nat → Nat
  | none => 0
  | some p => 8192 - (getPart s p).cellsUsed - worksOf s p

/-- Draw n cells: the reservation first, then the shared region (R68, R446); none when they are not free. -/
def drawCells (s : State) (p : Option Nat) (n : Nat) : Option (Cells × State) :=
  let r := min n (reservedFree s p)
  if n - r ≤ s.cmd.sharedFree then
    let s1 := match p with
      | none => s
      | some q => setPart s q { getPart s q with cellsUsed := (getPart s q).cellsUsed + r }
    some ({ reserved := r, shared := n - r },
      regate { s1 with cmd := { s1.cmd with sharedFree := s1.cmd.sharedFree - (n - r) } })
  else none

/-- Give cells back to the regions they came from. -/
def freeCells (s : State) (p : Option Nat) (c : Cells) : State :=
  let s1 := match p with
    | none => s
    | some q => setPart s q { getPart s q with cellsUsed := (getPart s q).cellsUsed - c.reserved }
  regate { s1 with cmd := { s1.cmd with
    sharedFree := s1.cmd.sharedFree + c.shared
    p0SlotFree := s1.cmd.p0SlotFree + c.p0Slots
    p0OtherFree := s1.cmd.p0OtherFree + c.p0Other } }

/-- Two sets of cells held together. -/
def addCells (a b : Cells) : Cells :=
  { reserved := a.reserved + b.reserved, shared := a.shared + b.shared,
    p0Slots := a.p0Slots + b.p0Slots, p0Other := a.p0Other + b.p0Other }

-- ------------------------------------------------------------------ interrupts and error registers

/-- Signal a vector: a masked one sets its pending bit, another is sent (R281). -/
def signal (s : State) (f : Fn) (v : Nat) : State :=
  let m := Table.getD (getFn s f).msix v {}
  if m.masked then setFn s f { getFn s f with msix := Table.put (getFn s f).msix v { m with pending := true } }
  else emit s (.msix f v)

/-- Signal a vector of the PF on both ports: the hub blocks show the same values on both (R254). -/
def signalPfs (s : State) (v : Nat) : State := signal (signal s (.pf .p0) v) (.pf .p1) v

/-- Set a bit of PWIN.ERROR or CMD.ERROR: vector 0 signals when an unmasked bit goes from 0 to 1 (R281). -/
def setFnError (s : State) (f : Fn) (bit : Nat) : State :=
  let x := getFn s f
  let s1 := setFn s f { x with error := x.error ||| (1 <<< bit) }
  if x.error.getLsbD bit then s1
  else if x.errorMask.getLsbD bit then s1 else signal s1 f 0

/-- Is ALERT# asserted (R432, R442)? -/
def alertCond (s : State) : Bool :=
  decide (s.power.error &&& ~~~s.power.errorMask ≠ 0) || s.keeper.locked || s.keeper.tamperHold || s.pins.thermtrip
    || decide (105 ≤ s.power.temp0.toInt) || decide (105 ≤ s.power.temp1.toInt) || decide (105 ≤ s.power.tempH.toInt)

/-- Drive ALERT# from its conditions (R432); released before PWRGOOD and in Sleep (R442). -/
def realert (s : State) : State :=
  { s with pins := { s.pins with
      alert := s.pins.pwrgood && !decide (s.power.state = .sleep) && alertCond s } }

/-- Set bits of PWR.ERROR: vector 49 signals when an unmasked bit goes from 0 to 1 (R433). -/
def setPwrError (s : State) (m : BitVec 4) : State :=
  let fresh := m &&& ~~~s.power.error &&& ~~~s.power.errorMask
  let s1 := { s with power := { s.power with error := s.power.error ||| m } }
  realert (if fresh = 0 then s1 else signalPfs s1 49)

/-- Set bits of ENT.ERROR: vector 50 signals when an unmasked bit goes from 0 to 1 (R348). -/
def setEntError (s : State) (m : BitVec 4) : State :=
  let fresh := m &&& ~~~s.entropy.error &&& ~~~s.entropy.errorMask
  let s1 := { s with entropy := { s.entropy with error := s.entropy.error ||| m } }
  if fresh = 0 then s1 else signalPfs s1 50

/-- Set bits of REL.ERROR: vector 51 signals when an unmasked bit goes from 0 to 1 (R390). -/
def setRelError (s : State) (m : BitVec 5) : State :=
  let fresh := m &&& ~~~s.rel.error &&& ~~~s.rel.errorMask
  let s1 := { s with rel := { s.rel with error := s.rel.error ||| m } }
  if fresh = 0 then s1 else signalPfs s1 51

/-- Set PRS.LINK[l].link_event: vector 52 signals when it goes from 0 to 1 unmasked (R410). -/
def setLinkEvent (s : State) (l : Nat) : State :=
  let k := getLink s l
  let s1 := setLink s l { k with event := true }
  if k.event || k.mask then s1 else signalPfs s1 52

-- ------------------------------------------------------------------ writing completion entries

/-- Entries of a ring: 2^log2_entries (R257). -/
def Cq.size (q : Cq) : Nat := 2 ^ q.log2.toNat

/-- A CQ ring that holds 2^log2_entries - 1 unconsumed entries takes no further one (R260, R265; assumption 16). -/
def Cq.isFull (q : Cq) : Bool := decide ((q.tail + q.size - q.head) % q.size = q.size - 1)

/-- Can the device write an entry to a function's CQ n now? -/
def cqCanTake (s : State) (f : Fn) (n : Nat) : Bool :=
  (getPort s (fnPort f)).linkUp && (getCq s f n).enable && !(getCq s f n).isFull

/-- A P0 slot is free again once the completion of the command that it holds is written or has nowhere to go (R271): an entry
written again, or one of an earlier command, frees no slot. -/
def freeSlot (s : State) (f : Fn) (c : Completion) : State :=
  if 16 ≤ c.source ∧ c.source < 20 ∧ (getSlot s f (c.source - 16)).holder = c.order then
    setSlot s f (c.source - 16) { getSlot s f (c.source - 16) with busy := false }
  else s

/-- The 32 bytes of a completion entry, little-endian (R12, R261). -/
def entryBytes (e : CqEntry) : Bytes :=
  let c := e.entry
  toLe 2 c.commandId.toNat ++ toLe 1 (c.source % 32) ++ toLe 1 (bn e.phase) ++ toLe 1 c.status.code ++ [c.infoStatus] ++ toLe 2 c.sqHead
    ++ toLe 8 c.result0.toNat ++ toLe 8 c.result1.toNat ++ toLe 8 c.result2.toNat

/-- Where entry i of a CQ ring lies in host memory (R257, R261). -/
def entryAddress (q : Cq) (i : Nat) : W64 := q.base + BitVec.ofNat 64 (32 * i)

/-- The cells of the slots' 1,040 that a P0 slot's command holds: they serve the slot again as soon as it is free, so that a slot write
always finds its cells (R271). -/
def slotCells (c : Completion) : Nat := if 16 ≤ c.source ∧ c.source < 20 then c.cells.p0Slots else 0

/-- The completion without them. -/
def dropSlotCells (c : Completion) : Completion :=
  if 16 ≤ c.source ∧ c.source < 20 then { c with cells := { c.cells with p0Slots := 0 } } else c

/-- They are free. -/
def freeSlotCells (s : State) (c : Completion) : State :=
  { s with cmd := { s.cmd with p0SlotFree := s.cmd.p0SlotFree + slotCells c } }

/-- Write one entry: index and phase of the present pass, then the message of R281 when it is due. -/
def writeEntry (s : State) (f : Fn) (n : Nat) (c : Completion) : State :=
  let q := getCq s f n
  let e : CqEntry := { entry := dropSlotCells c, phase := q.phase, index := q.tail }
  let wrap := decide (q.size ≤ q.tail + 1)
  let due := decide (q.coalTime = 0) || decide (max 1 q.coalCount.toNat ≤ q.unsignalled + 1)
  let q1 := { q with
    tail := if wrap then 0 else q.tail + 1
    phase := if wrap then !q.phase else q.phase
    posted := q.posted ++ [e]
    unsignalled := if due then 0 else q.unsignalled + 1 }
  let s1 := emit (setCq s f n q1) (.completion f n (entryAddress q q.tail) (entryBytes e))
  let s2 := freeSlotCells (freeSlot s1 f c) c
  if due then signal s2 f q.vector.toNat else s2

-- ------------------------------------------------------------------ events

/-- The 32-byte entry that an event is written as (R263). -/
def eventEntry (e : Event) : Completion :=
  { commandId := 0xFFFF
    source := 31
    status := e.status
    result0 := BitVec.ofNat 64 (e.kind.code + 256 * e.roundState.code + 2 ^ 32 * e.roundId.toNat)
    result1 := e.result1
    result2 := e.result2
    cells := e.cells }

/-- The list of held events with one more. Kinds 1 to 4 keep one pending event of each kind and status per round: the
later takes the earlier one's place in content and stands last; a replacing STATE event keeps the previous state of the
earliest change, and a ROUND_STATUS event counts its occurrences (R263; the order is DEDUCED, assumption 17). -/
def mergeEvent (l : List Event) (e : Event) : List Event :=
  if e.kind.replaced then
    match l.find? (fun x => decide (x.kind = e.kind ∧ x.status = e.status ∧ x.roundId = e.roundId)) with
    | none => l ++ [e]
    | some old =>
      l.filter (fun x => !decide (x.kind = e.kind ∧ x.status = e.status ∧ x.roundId = e.roundId)) ++
        [{ e with
            result1 := if e.kind = .stateChange then old.result1 else e.result1
            result2 := if e.kind = .roundStatus then
                BitVec.ofNat 64 ((e.result2.toNat / 2 ^ 32) * 2 ^ 32 + (old.result2.toNat % 2 ^ 32 + e.result2.toNat % 2 ^ 32) % 2 ^ 32)
              else e.result2 }]
  else l ++ [e]

/-- Add an event to a partition's held list, with the round state that PWIN.STATUS shows (R263). A PORT, KEY or
QUEUE_RESET event occupies a cell of the reservation. -/
def addEvent (s : State) (p : Nat) (e : Event) : State :=
  let x := getPart s p
  let own := decide (e.kind = .port ∨ e.kind = .key ∨ e.kind = .queueReset) && decide (0 < reservedFree s (some p))
  let e1 := { e with
    roundState := roundStateOf s p
    cells := if own then { e.cells with reserved := e.cells.reserved + 1 } else e.cells }
  setPart s p { x with
    cellsUsed := if own then x.cellsUsed + 1 else x.cellsUsed
    events := mergeEvent x.events e1 }

/-- Add a device-level event, which occupies a cell of the priority-0 reserve where one is free (R263). -/
def addDeviceEvent (s : State) (e : Event) : State :=
  let own := decide (0 < s.cmd.p0OtherFree)
  let e1 := if own then { e with cells := { e.cells with p0Other := e.cells.p0Other + 1 } } else e
  { s with cmd := { s.cmd with
      p0OtherFree := if own then s.cmd.p0OtherFree - 1 else s.cmd.p0OtherFree
      events := mergeEvent s.cmd.events e1 } }

/-- A STATE event: the round has moved from the previous state (R263). -/
def stateEvent (s : State) (p : Nat) (prev : RoundState) : State :=
  addEvent s p { kind := .stateChange, status := .ok, roundId := roundIdOf s p,
                 result1 := BitVec.ofNat 64 prev.code }

/-- A ROUND_STATUS event (R263). -/
def roundStatusEvent (s : State) (p : Nat) (st : Status) (r1 r2hi : Nat) : State :=
  addEvent s p { kind := .roundStatus, status := st, roundId := roundIdOf s p,
                 result1 := BitVec.ofNat 64 r1, result2 := BitVec.ofNat 64 (1 + 2 ^ 32 * (r2hi % 2 ^ 32)) }

/-- A KEY event carries one handle (R263). -/
def keyEvent (s : State) (p : Nat) (handle : W32) : State :=
  addEvent s p { kind := .key, status := .ok, result1 := handle.setWidth 64 }

-- ------------------------------------------------------------------ completing commands

/-- A completion that cannot be written becomes an ORPHAN event of its partition when another function serves, and is
otherwise discarded with its cells (R263, R277, R279). -/
def orphan (s : State) (f : Fn) (d : Completion) : State :=
  let s1 := freeSlotCells (freeSlot s f d) d
  let c := dropSlotCells d
  match fnPart f with
  | none => freeCells s1 none c.cells
  | some p =>
    if (getPart s1 p).serving.isSome && decide ((getPart s1 p).serving ≠ some (fnPort f)) && decide (c.source < 20) then
      addEvent s1 p { kind := .orphan, status := c.status, cells := c.cells, result1 := c.result0,
                      result2 := BitVec.ofNat 64 (c.commandId.toNat + 2 ^ 16 * c.opcode + 2 ^ 32 * c.source) }
    else freeCells s1 (some p) c.cells

/-- Is a completion an ADMITTED one (R58, R262)? -/
def isAdmitted (c : Completion) : Bool := decide (c.opcode = 0x0301 ∧ c.status = .ok ∧ c.source < 20)

/-- Must an ADMITTED completion wait for an earlier one of its partition, which another CQ of its two functions holds (R264)? -/
def mustWait (s : State) (f : Fn) (n : Nat) (c : Completion) : Bool :=
  isAdmitted c && (match fnPart f with
    | none => false
    | some p => [Fn.vf .p0 p, Fn.vf .p1 p].any (fun g => (getFn s g).cqs.any (fun q =>
        !decide (g = f ∧ q.1 = n) && q.2.held.any (fun x => isAdmitted x && decide (x.result0.toNat < c.result0.toNat)))))

/-- Post a completion on CQ n of a function: written when the ring can take it, held while the ring is full or was reset
by a pointer mismatch or while an ADMITTED must wait (R264, R265, R280), and otherwise unwritable (R279). -/
def postCompletion (s : State) (f : Fn) (n : Nat) (c : Completion) : State :=
  let q := getCq s f n
  if (getPort s (fnPort f)).linkUp = false then orphan s f c
  else if q.enable then
    if q.isFull || !q.held.isEmpty || mustWait s f n c then setCq s f n { q with held := q.held ++ [c] } else writeEntry s f n c
  else if q.awaiting then setCq s f n { q with held := q.held ++ [c] }
  else orphan s f c

/-- Write held completions in order while the ring can take them (R265). -/
def drainHeldList (f : Fn) (n : Nat) : List Completion → State → State
  | [], s => setCq s f n { getCq s f n with held := [] }
  | c :: cs, s =>
    if cqCanTake s f n && !mustWait s f n c then drainHeldList f n cs (writeEntry s f n c)
    else setCq s f n { getCq s f n with held := c :: cs }

/-- A CQ of a partition whose first held completion is an ADMITTED that need not wait any longer. -/
def readyCq (s : State) (p : Nat) : Option (Fn × Nat) :=
  ([Fn.vf .p0 p, Fn.vf .p1 p].flatMap (fun g => (getFn s g).cqs.map (fun q => (g, q.1)))).find? (fun e =>
    match (getCq s e.1 e.2).held with
    | [] => false
    | c :: _ => isAdmitted c && cqCanTake s e.1 e.2 && !mustWait s e.1 e.2 c)

/-- Write what CQs of a partition hold and what waited only for an ADMITTED of another CQ, CQ by CQ (R264). -/
def drainReady (p : Nat) : Nat → State → State
  | 0, s => s
  | k + 1, s =>
    match readyCq s p with
    | none => s
    | some e => drainReady p k (drainHeldList e.1 e.2 (getCq s e.1 e.2).held s)

/-- Write what a CQ holds while it can take it, and what of other CQs waited for that (R264, R265). -/
def drainHeld (s : State) (f : Fn) (n : Nat) : State :=
  let s1 := drainHeldList f n (getCq s f n).held s
  match fnPart f with
  | none => s1
  | some p => drainReady p 32 s1

/-- Post held events in the order they arose while the CQ0 of the function can take them (R263). -/
def postEventList (f : Fn) : List Event → State → State × List Event
  | [], s => (s, [])
  | e :: es, s =>
    if cqCanTake s f 0 && (getCq s f 0).held.isEmpty then postEventList f es (writeEntry s f 0 (eventEntry e))
    else (s, e :: es)

/-- The CQ to which a command's completion goes: the SQ's bound CQ, or the CQ that P0_CFG names (R271). -/
def completionCq (s : State) (r : CmdRef) : Nat :=
  if r.source < 16 then (getSq s r.fn r.source).cq.toNat else (getFn s r.fn).p0Cq.toNat

/-- The commands that a FENCE covers: taken before it, for its partition on either function, or on the PFs for a FENCE of
a PF (R276). -/
def fenceCovers (t x : Taken) : Bool := decide (x.order < t.order ∧ x.part = t.part)

/-- Results of a completion. -/
structure Results where
  r0 : Nat := 0
  r1 : Nat := 0
  r2 : Nat := 0
  deriving DecidableEq, Repr

/-- Complete one command: it leaves the list of taken commands, and its entry is posted with its cells (R261, R379). -/
def completeOne (s : State) (t : Taken) (st : Status) (r : Results := {}) : State :=
  let s1 := { s with cmd := { s.cmd with taken := s.cmd.taken.filter (fun x => !decide (x.order = t.order)) } }
  postCompletion s1 t.ref.fn (completionCq s1 t.ref)
    { commandId := t.ref.commandId, source := t.ref.source, status := st
      infoStatus := if t.replayed then 0x0A else 0
      sqHead := if t.ref.source < 16 then t.sqHead else 0
      result0 := BitVec.ofNat 64 r.r0, result1 := BitVec.ofNat 64 r.r1, result2 := BitVec.ofNat 64 r.r2
      cells := t.cells, opcode := t.desc.opcode, order := t.order }

/-- Is a taken command a FENCE that waits for covered commands? -/
def isWaitingFence (t : Taken) : Bool := decide (t.desc.opcode = 0x0F01) && t.waiting

/-- Complete, in order, every waiting FENCE of a list whose covered commands have all completed (R276). -/
def settleFenceList : List Taken → State → State
  | [], s => s
  | t :: ts, s =>
    if isWaitingFence t && !(s.cmd.taken.any (fenceCovers t)) then settleFenceList ts (completeOne s t .ok)
    else settleFenceList ts s

/-- Complete every waiting FENCE that has become due. -/
def settleFences (s : State) : State := settleFenceList s.cmd.taken s

/-- Complete a command, and the FENCEs that waited for it. -/
def complete (s : State) (t : Taken) (st : Status) (r : Results := {}) : State := settleFences (completeOne s t st r)

/-- Complete every command of a list with one status. -/
def completeAll : List Taken → Status → State → State
  | [], _, s => s
  | t :: ts, st, s => completeAll ts st (complete s t st)

/-- The taken command that a reference names. -/
def findTaken (s : State) (r : CmdRef) : Option Taken := s.cmd.taken.find? (fun t => decide (t.ref = r))

/-- Change a taken command in place. -/
def updTaken (s : State) (t : Taken) : State :=
  { s with cmd := { s.cmd with taken := s.cmd.taken.map (fun x => if x.order = t.order then t else x) } }

/-- The status and hint of a RETRY_LATER completion: the hint in result0 [31:0] (R262). -/
def retryHint (h : Nat) : Results := { r0 := h % 2 ^ 32 }

/-- A floor estimate of the Steward or the Keeper: at least 50 us, otherwise a free value (R75, R262; assumption 3). -/
def freeHint (s : State) : Nat := max 50 ((Sys2Proof.Config.freeWord s.freeCount).toNat % 2 ^ 32)

/-- Complete with RETRY_LATER and an estimate that the spec leaves free. -/
def completeRetryFree (s : State) (t : Taken) : State :=
  complete (bumpFree s) t .retryLater (retryHint (freeHint s))

/-- The commands that the Keeper alone executes (R285). -/
def keeperOps : List Nat :=
  [0x0101, 0x0102, 0x0701, 0x0702, 0x0801, 0x0901, 0x0A01, 0x0B01, 0x0B02, 0x0B03, 0x0C01, 0x1001, 0x1002]

/-- Does a command still wait for the Steward's first look at it? A CT command is looked at when it enters its channel's order (R187),
and an unproved ABORT waits for the Keeper alone (R273). -/
def unseen (x : Taken) : Bool := !x.begun && !x.waiting && !x.unproved && decide (x.desc.opcode / 256 ≠ 6)

/-- The Steward that takes a command; none for a device-level command (R25). -/
def stewardFor (s : State) (t : Taken) : Option Nat := t.part.map (fun p => (getPart s p).steward)

/-- Does a command stand before another that waits for the Steward's first look? Of one partition, or of the PFs, the Steward takes the
triggers in the order of submission, a higher class first (R25, R45); of its several partitions a higher class first (R27), but for
what it only passes to the Keeper. -/
def mustFollow (s : State) (t x : Taken) : Bool :=
  unseen x && (decide (x.order < t.order ∧ x.part = t.part ∧ x.cls.prio ≤ t.cls.prio)
    || (decide (stewardFor s x = stewardFor s t ∧ x.part ≠ t.part ∧ x.cls.prio < t.cls.prio) && !keeperOps.contains x.desc.opcode))

/-- Is the command critical on this function (R266, R268)? -/
def isCritical (row : CmdRow) : Bool := decide (row.tag ≠ .none)

/-- The island that a command's first action crosses into: the Keeper for what the Keeper checks or executes (R285), the
port's PCI Express controller for a command with a buffer (R363; assumption 19). -/
def firstIsland (row : CmdRow) (f : Fn) : Option Nat :=
  if isCritical row || decide (row.opcode = 0x0101 ∨ row.opcode / 256 = 0x0B ∨ row.opcode = 0x0C01) then some 30
  else if row.buffer then some (2 + portNat (fnPort f)) else none

/-- Does a command that has been taken wait for an island whose crossings are stalled (R363)? -/
def islandWaits (s : State) (t : Taken) : Bool :=
  ((commandRow t.desc.opcode).bind (fun row => firstIsland row t.ref.fn)).any (fun i => s.islands.stalled.getLsbD i)

/-- Has the Steward of a command been retired, and its partition not moved to another yet: its commands wait (R382)? -/
def stewardGone (s : State) (t : Taken) : Bool := (stewardFor s t).any (fun n => s.rel.stewards.getLsbD n)

/-- Is a taken command's turn come (R27, R45, R363, R382)? -/
def inOrder (s : State) (t : Taken) : Bool := !(s.cmd.taken.any (mustFollow s t)) && !islandWaits s t && !stewardGone s t

/-- Run a meaning on the taken command that a row names, when it is taken, has the row's opcode, is not yet waiting for its end and
its turn has come; otherwise nothing happens (assumption 18). -/
def withCmd (s : State) (r : CmdRef) (op : Nat) (k : Taken → State) : State :=
  match findTaken s r with
  | none => s
  | some t => if t.desc.opcode = op ∧ t.waiting = false ∧ t.unproved = false ∧ inOrder s t = true then k t else s

-- ------------------------------------------------------------------ ADMITs in flight (R53, R57)

/-- Remove every staged segment of an ADMIT from the larders. -/
def unstageAll (s : State) (ref : CmdRef) : State :=
  { s with caravans := Table.mapVals s.caravans (fun _ c => { c with staged := c.staged.filter (fun e => decide (e.1 ≠ ref)) }) }

/-- Has the whole envelope of an ADMIT arrived (R277 step 3)? -/
def envelopeReceived (x : Partition) (r : CmdRef) : Bool :=
  match Table.get? x.flights r with
  | none => false
  | some fl => decide (fl.segs.length = field fl.header 0x0C 4)

/-- Zero one key slot of a partition on every caravan (R87). -/
def zeroSlot (s : State) (k : SlotStage × Nat × Nat) : State :=
  { s with caravans := Table.mapVals s.caravans (fun _ c => { c with slots := Table.erase c.slots k }) }

/-- Zero every key slot of a partition for which a test holds (R36, R46, R87). -/
def zeroSlots (s : State) (p : Nat) (f : SlotStage → Nat → Bool) : State :=
  { s with caravans := Table.mapVals s.caravans (fun _ c =>
      { c with slots := c.slots.filter (fun e => !(decide (e.1.2.1 = p) && f e.1.1 e.1.2.2)) }) }

/-- Load a key into a slot of a caravan, on the key path (R29, R87). -/
def loadSlot (s : State) (cv : Nat) (k : SlotStage × Nat × Nat) (v : Bytes) : State :=
  setCv s cv { getCv s cv with slots := Table.put (getCv s cv).slots k v }

/-- The key that a stage of a caravan finds under a slot handle of the partition whose step runs; none for an empty or a foreign
handle (R29, R87). -/
def slotKey (s : State) (cv : Nat) (stage : SlotStage) (p n : Nat) : Option Bytes :=
  Table.get? (getCv s cv).slots (stage, p, n)

/-- A flight is over: nothing of it is staged, its OPEN slot is zero; with no journal record its journal space is free (R53). -/
def dropFlight (s : State) (p : Nat) (ref : CmdRef) (keep : Bool) : State :=
  match Table.get? (getPart s p).flights ref with
  | none => s
  | some f =>
    let s1 := unstageAll s ref
    let s2 := match f.slot with
      | none => s1
      | some n => zeroSlot s1 (.opens, p, n)
    let x := getPart s2 p
    setPart s2 p { x with
      flights := Table.erase x.flights ref
      round := x.round.map (fun r =>
        if keep then r else { r with jUse0 := r.jUse0 - f.jour0, jUse1 := r.jUse1 - f.jour1 }) }

-- ------------------------------------------------------------------ the Keeper's mailboxes (R26, R27, R285)

/-- The mailbox on which a command reaches the Keeper: that of the Steward of the partition that the command is for, on a PF as well,
or a ninth one for a command that names no partition (DESIGN CHOICE, assumption 110). -/
def keeperBox (s : State) (t : Taken) : Nat := (stewardFor s t).getD 8

/-- The management commands that stand in the Keeper's mailboxes: each in its turn, none begun (R26, R285). -/
def keeperMail (s : State) : List Taken :=
  s.cmd.taken.filter (fun t => keeperOps.contains t.desc.opcode && !t.begun && !t.waiting && inOrder s t)

/-- Messages of one mailbox that nothing in it precedes: a mailbox is first in, first out (R26). -/
def isHead (s : State) (l : List Taken) (t : Taken) : Bool :=
  l.all (fun x => decide (keeperBox s x ≠ keeperBox s t ∨ t.order ≤ x.order))

/-- Place of a mailbox in the round after the one served last, of nine. -/
def boxRank (last b : Nat) : Nat := (b + 8 - last) % 9

/-- Does the Keeper serve a before b: by class, then round-robin in mailbox order (R27)? -/
def servedBefore (s : State) (a b : Taken) : Bool :=
  decide (a.cls.prio < b.cls.prio) || (decide (a.cls.prio = b.cls.prio) &&
    decide (boxRank (Table.getD s.keeper.lastServed a.cls.prio 8) (keeperBox s a)
      < boxRank (Table.getD s.keeper.lastServed a.cls.prio 8) (keeperBox s b)))

/-- Is the Keeper busy with a management command that it has begun and that has not ended: a rotation that waits for a running step
(R36, R285)? A release whose scrub runs keeps it free for the next command (R307, R310). -/
def keeperBusy (s : State) : Bool := s.cmd.taken.any (fun t => keeperOps.contains t.desc.opcode && t.begun && !t.waiting)

/-- The management command that the Keeper serves next, one at a time (R27, R285). -/
def keeperNext (s : State) : Option Taken :=
  if keeperBusy s then none else ((keeperMail s).filter (isHead s (keeperMail s))).foldl (fun acc t =>
    match acc with
    | none => some t
    | some b => if servedBefore s t b then some t else some b) none

/-- Run a meaning on a management command, when the Keeper's mailboxes deliver it next, or have delivered it already (R27, R285). -/
def withKeeper (s : State) (r : CmdRef) (op : Nat) (k : State → Taken → State) : State :=
  withCmd s r op (fun t =>
    if t.begun then k s t
    else if (keeperNext s).map (fun x => x.order) = some t.order then
      k { s with keeper := { s.keeper with lastServed := Table.put s.keeper.lastServed t.cls.prio (keeperBox s t) } } t
    else s)

end Sys2Proof.Machine
end

