-- ==== Sys2Proof/Machine/Crypto.lean ====
section
/-! DEFINITION. The key ladder (R286 to R290), the command tag (R268), GF(2^128) and GHASH, XTS and line tags (R294,
R295), and the CRC of Porush flits (R392). The published functions underneath are those of Config (assumption 2). -/

namespace Sys2Proof.Machine

-- ------------------------------------------------------------------ derivation

/-- Block i of SP 800-108 counter mode: [i] and [L] are 32-bit big-endian (R287). -/
def kdfBlock (kin label ctx : Bytes) (bitsL i : Nat) : Bytes :=
  Sys2Proof.Config.hmacSha256 kin (toBe 4 i ++ label ++ [0] ++ ctx ++ toBe 4 bitsL)

/-- The first L bits of K(1) then K(2) and so on (R287); L is a whole number of bytes. -/
def kdf (kin label ctx : Bytes) (bitsL : Nat) : Bytes :=
  (((List.range (ceilDiv bitsL 256)).map (fun i => kdfBlock kin label ctx bitsL (i + 1))).flatten).take (bitsL / 8)

/-- The 32 bytes of a fused root (R12, R286). -/
def rootBytes (i : Nat) : Bytes := toLe 32 (Sys2Proof.Config.root i).toNat

/-- Root i as the Keeper uses it: substituted while debug is enabled (R290). -/
def rootKey (s : State) (i : Nat) : Bytes :=
  if s.hub.config = 2 then kdf (rootBytes 4) (ascii "CHIELM-TEST") (toLe 1 i) 256
  else rootBytes i

/-- Partition memory key of an epoch: 768 bits (R288). -/
def memoryKey (s : State) (p : Nat) (nonce : Bytes) (epoch : Nat) : Bytes :=
  kdf (rootKey s 1) (ascii "CHIELM-MEM") (toLe 1 p ++ nonce ++ toLe 4 epoch) 768

/-- Device-area key: 768 bits (R288). -/
def deviceAreaKey (s : State) : Bytes := kdf (rootKey s 1) (ascii "CHIELM-DEVAREA") [0] 768

/-- Something sealed with AES-256-GCM under bits 0 to 255 of the device-area key: a fresh nonce, the ciphertext and the tag (R269;
the form is assumption 137). -/
def areaSeal (s : State) (plain : Bytes) : Bytes :=
  let nonce := padTo 12 (Sys2Proof.Config.freeBytes s.freeCount)
  nonce ++ Sys2Proof.Config.aeadSeal 0 ((deviceAreaKey s).take 32) nonce [] plain

/-- What such a record holds, when it can be read. -/
def areaOpen (s : State) (record : Bytes) : Option Bytes :=
  if record.length < 28 then none
  else Sys2Proof.Config.aeadOpen 0 ((deviceAreaKey s).take 32) (record.take 12) [] (record.drop 12)

/-- The number of the device area among the XTS engines' keys. -/
def areaPart : Nat := 64

/-- The key that a pair of partition and epoch has: the partition memory key, or the device-area key (R288). -/
def xtsKey (s : State) (p epoch : Nat) : Bytes :=
  if p = areaPart then deviceAreaKey s else memoryKey s p (getPart s p).nonce epoch

/-- The Keeper places a key in the XTS engines of the eight controllers (R29, R298); under the tamper lock it derives none (R330). -/
def placeXts (s : State) (p epoch : Nat) : State :=
  if s.keeper.locked then s
  else { s with hbm := { s.hbm with xts := Table.put s.hbm.xts (p, epoch) (xtsKey s p epoch) } }

/-- The Keeper destroys a key in the XTS engines (R299, R308). -/
def dropXts (s : State) (p epoch : Nat) : State :=
  { s with hbm := { s.hbm with xts := Table.erase s.hbm.xts (p, epoch) } }

/-- The Keeper derives every live key again and places it where it stood, the device-area key with them (R289, R300). -/
def rederiveXts (s : State) : State :=
  placeXts { s with hbm := { s.hbm with xts := s.hbm.xts.map (fun e => (e.1, xtsKey s e.1.1 e.1.2)) } } areaPart 0

/-- The ceiling in one sealed copy, when it can be read (R269). -/
def copyCeiling (s : State) (copy : Bytes) : Option Nat := (areaOpen s copy).map (fun b => field b 0 8)

/-- The ceiling in flash: that of the copies that can be read, the larger where they differ (R269). -/
def flashCeiling (s : State) : Option Nat := ([s.flash.ceiling0, s.flash.ceiling1].filterMap (copyCeiling s)).max?

/-- The Keeper writes a ceiling to both copies (R269). -/
def writeCeiling (s : State) (c : W64) : State :=
  let a := areaSeal s (toLe 8 c.toNat)
  let b := areaSeal (bumpFree s) (toLe 8 c.toNat)
  let s2 := bumpFree (bumpFree s)
  { s2 with keeper := { s2.keeper with ceiling := c }, flash := { s2.flash with ceiling0 := a, ceiling1 := b } }

/-- The stored training counter of a link; a record that cannot be read counts as 0 (R397). -/
def storedCounter (s : State) (l : Nat) : Nat :=
  match (Table.get? s.flash.linkCtr l).bind (areaOpen s) with
  | none => 0
  | some b => field b 0 8

/-- The Keeper writes the training counter of a link, sealed (R397). -/
def writeLinkCounter (s : State) (l epoch : Nat) : State :=
  let r := areaSeal s (toLe 8 epoch)
  { bumpFree s with flash := { s.flash with linkCtr := Table.put s.flash.linkCtr l r } }

/-- Checkpoint key (R288). -/
def checkpointKey (s : State) (salt : Bytes) : Bytes := kdf (rootKey s 1) (ascii "CHIELM-CKPT") salt 256

/-- Link key (R288, R397). -/
def linkKey (s : State) (lower higher : Bytes) (epoch : Nat) : Bytes :=
  kdf (rootKey s 2) (ascii "CHIELM-LINK") (lower ++ higher ++ toLe 8 epoch) 256

/-- Identity key seeds: 1 SLH-DSA-SHA2-192s, 2 SLH-DSA-SHA2-192f (R288). -/
def identitySeeds (s : State) (alg : Nat) : Bytes := kdf (rootKey s 0) (ascii "CHIELM-IDENT") (toLe 1 alg) 576

/-- Keeper command key (R288). -/
def keeperKey (s : State) : Bytes := kdf (rootKey s 3) (ascii "CHIELM-OPCMD") Sys2Proof.Config.fabricGroupCode 256

/-- Partition command key from the session exporter secret (R288). -/
def commandKey (exporter : Bytes) (p number : Nat) : Bytes :=
  kdf exporter (ascii "CHIELM-CMDKEY") (toLe 1 p ++ toLe 4 number) 256

/-- Round private key: 256 bits for X25519, the 512-bit seed for ML-KEM-768 (R288). -/
def roundKey (secret : Bytes) (roundId : W32) (kem : Nat) : Bytes :=
  kdf secret (ascii "CHIELM-ROUNDKEY") (toLe 4 roundId.toNat) (if kem = 0 then 256 else 512)

/-- Journal key (R288). -/
def journalKey (secret : Bytes) (roundId : W32) : Bytes := kdf secret (ascii "CHIELM-JOURNAL") (toLe 4 roundId.toNat) 256

/-- Seed-wrapping key (R288). -/
def seedWrapKey (secret : Bytes) (roundId : W32) : Bytes :=
  kdf secret (ascii "CHIELM-SEEDWRAP") (toLe 4 roundId.toNat) 256

-- ------------------------------------------------------------------ HPKE (R324, R325; RFC 9180)

/-- The KEM's identifier: DHKEM(X25519, HKDF-SHA256), or the device-defined one (R324, R325). -/
def kemId (kem : Nat) : Nat := if kem = 0 then 0x0020 else 0x7F68

/-- Bytes of an encapsulated key (R51, R325). -/
def kemEncLen (kem : Nat) : Nat := if kem = 0 then 32 else 1088

/-- The KEM's suite_id: "KEM" and the identifier. -/
def kemSuite (kem : Nat) : Bytes := ascii "KEM" ++ toBe 2 (kemId kem)

/-- The suite_id of the context: KEM, KDF 0x0001 and AEAD 0x0002 or 0x0003 (R324). -/
def hpkeSuite (kem aead : Nat) : Bytes := ascii "HPKE" ++ toBe 2 (kemId kem) ++ toBe 2 1 ++ toBe 2 (2 + aead)

/-- LabeledExtract: suite_id, salt, label, ikm. -/
def labeledExtract (suite salt : Bytes) (label : String) (ikm : Bytes) : Bytes :=
  Sys2Proof.Config.hkdfExtract salt (ascii "HPKE-v1" ++ suite ++ ascii label ++ ikm)

/-- LabeledExpand: suite_id, prk, label, info, length. -/
def labeledExpand (suite prk : Bytes) (label : String) (info : Bytes) (n : Nat) : Bytes :=
  Sys2Proof.Config.hkdfExpand prk (toBe 2 n ++ ascii "HPKE-v1" ++ suite ++ ascii label ++ info) n

/-- The base point of X25519 (RFC 7748). -/
def x25519Base : Bytes := 9 :: zeroBytes 31

/-- The public key of a round private key: X25519's, or the encapsulation key that KeyGen_internal makes of d and z (R325). -/
def kemPublicKey (kem : Nat) (sk : Bytes) : Bytes :=
  if kem = 0 then Sys2Proof.Config.x25519 sk x25519Base else (Sys2Proof.Config.mlkem768KeyGen (sk.take 32) (sk.drop 32)).1

/-- What decapsulation yields before the labels: X25519's product, none where it is zero (RFC 9180), or the secret of ML-KEM.Decaps. -/
def kemRaw (kem : Nat) (sk enc : Bytes) : Option Bytes :=
  if enc.length ≠ kemEncLen kem then none
  else if kem = 0 then
    (if (Sys2Proof.Config.x25519 sk enc).all (fun b => decide (b = 0)) then none else some (Sys2Proof.Config.x25519 sk enc))
  else some (Sys2Proof.Config.mlkem768Decaps (Sys2Proof.Config.mlkem768KeyGen (sk.take 32) (sk.drop 32)).2 enc)

/-- shared_secret: LabeledExpand of LabeledExtract("", "eae_prk", ss) with "shared_secret" and enc then pkR (R325). -/
def kemShared (kem : Nat) (sk enc : Bytes) : Option Bytes :=
  (kemRaw kem sk enc).map (fun ss =>
    labeledExpand (kemSuite kem) (labeledExtract (kemSuite kem) [] "eae_prk" ss) "shared_secret" (enc ++ kemPublicKey kem sk) 32)

/-- The context of base mode: AEAD key and base nonce; none when decapsulation fails (R324). -/
def hpkeContext (kem : Nat) (sk enc info : Bytes) (aead : Nat) : Option (Bytes × Bytes) :=
  let suite := hpkeSuite kem aead
  let context := [0] ++ labeledExtract suite [] "psk_id_hash" [] ++ labeledExtract suite [] "info_hash" info
  (kemShared kem sk enc).map (fun ss =>
    let secret := labeledExtract suite ss "secret" []
    (labeledExpand suite secret "key" context 32, labeledExpand suite secret "base_nonce" context 12))

/-- The message that a command tag covers: the label, the partition byte, descriptor bytes 0x00 to 0x2F (R268). -/
def tagMessage (partByte : Nat) (d : Desc) : Bytes := ascii "CHIELM-CMD" ++ toLe 1 partByte ++ d.head

/-- The tag of a critical command: bytes 0 to 15 of the HMAC (R268). -/
def commandTag (key : Bytes) (partByte : Nat) (d : Desc) : Bytes :=
  (Sys2Proof.Config.hmacSha256 key (tagMessage partByte d)).take 16

-- ------------------------------------------------------------------ GF(2^128), GHASH, XTS

/-- Multiply by x in GF(2^128) of polynomial x^128 + x^7 + x^2 + x + 1, bit 0 the coefficient of 1. -/
def gfDouble (a : BitVec 128) : BitVec 128 := (a <<< 1) ^^^ (if a.msb then 0x87 else 0)

/-- The product in that field, over the low n bits of b. -/
def gfMulBits : Nat → BitVec 128 → BitVec 128 → BitVec 128 → BitVec 128
  | 0, _, _, acc => acc
  | n + 1, a, b, acc => gfMulBits n (gfDouble a) (b >>> 1) (if b.getLsbD 0 then acc ^^^ a else acc)

/-- The product in GF(2^128) with bit 0 the coefficient of 1 (R152, R108). -/
def gfMul (a b : BitVec 128) : BitVec 128 := gfMulBits 128 a b 0

/-- A block as the bit-reflected field element of SP 800-38D: the first bit of the block is the coefficient of 1. -/
def ghashIn (b : Bytes) : BitVec 128 := (BitVec.ofNat 128 (leNat (b.map (fun x => x.reverse))))

/-- Back to the block. -/
def ghashOut (a : BitVec 128) : Bytes := (toLe 16 a.toNat).map (fun x => x.reverse)

/-- GHASH over whole blocks (SP 800-38D). -/
def ghash (h : Bytes) (blocks : List Bytes) : Bytes :=
  ghashOut (blocks.foldl (fun y b => gfMul (y ^^^ ghashIn b) (ghashIn h)) 0)

/-- The device address of a line (R294). -/
def deviceAddress (stack granule offset : Nat) : Nat := stack * 2 ^ 36 + granule * 2 ^ 30 + offset

/-- The XTS tweak of block j of a line (IEEE 1619, R294). -/
def xtsTweak (key : Bytes) (da : Nat) : Nat → Bytes
  | 0 => Sys2Proof.Config.aes256 (slice key 32 32) (toLe 16 da)
  | j + 1 => toLe 16 (gfDouble (BitVec.ofNat 128 (leNat (xtsTweak key da j)))).toNat

/-- A 64-byte line as HBM holds it: XTS under bits 0 to 511 of the memory key (R294). -/
def encryptLine (key : Bytes) (da : Nat) (line : Bytes) : Bytes :=
  ((List.range 4).map (fun j =>
    xorBytes (Sys2Proof.Config.aes256 (slice key 0 32) (xorBytes (slice line (16 * j) 16) (xtsTweak key da j)))
      (xtsTweak key da j))).flatten

/-- The integrity tag of a line: 56 bits, never 0 (R295). -/
def lineTag (key : Bytes) (da p epoch : Nat) (cipher : Bytes) : Nat :=
  let kmac := slice key 64 32
  let h := Sys2Proof.Config.aes256 kmac (zeroBytes 16)
  let y := ghash h ((List.range 4).map (fun j => slice cipher (16 * j) 16) ++ [zeroBytes 8 ++ toBe 8 512])
  let a := toLe 8 da ++ toLe 1 p ++ toLe 4 epoch ++ zeroBytes 3
  let t := Sys2Proof.Config.aes256 kmac (xorBytes y a)
  let tag := leNat (t.take 7)
  if tag = 0 then 1 else tag

/-- The metadata word of a written line: the tag and the epoch bit (R20, R297). -/
def metadataWord (key : Bytes) (da p epoch : Nat) (cipher : Bytes) : Nat :=
  lineTag key da p epoch cipher + 2 ^ 56 * (epoch % 2)

-- ------------------------------------------------------------------ CRC-64/XZ

/-- One bit of the reflected CRC-64 of polynomial 0x42F0_E1EB_A9EA_3693 (R392). -/
def crcBit (c : BitVec 64) : BitVec 64 := if c.getLsbD 0 then (c >>> 1) ^^^ 0xC96C5795D7870F42 else c >>> 1

/-- n bits. -/
def crcBits : Nat → BitVec 64 → BitVec 64
  | 0, c => c
  | n + 1, c => crcBits n (crcBit c)

/-- CRC-64/XZ over a byte string (R392). -/
def crc64 (bs : Bytes) : BitVec 64 :=
  (bs.foldl (fun c b => crcBits 8 (c ^^^ b.setWidth 64)) (BitVec.allOnes 64)) ^^^ BitVec.allOnes 64

-- ------------------------------------------------------------------ sealed segments

/-- Seal a byte string in segments of 1,048,576 bytes, at least one when asked for, each followed by its tag
(R320, R376, R219). -/
def sealSegments (code : Nat) (key : Bytes) (nonce : Nat → Bytes) (aad : Bytes) (segs : List Bytes) : Bytes :=
  ((List.range segs.length).map (fun i =>
    Sys2Proof.Config.aeadSeal code key (nonce i) aad (segs.getD i []))).flatten

/-- Open sealed segments one after the other, the first of them numbered i; none when a tag fails. -/
def openSegments (code : Nat) (key : Bytes) (nonce : Nat → Bytes) (aad : Bytes) : Nat → List Bytes → Option Bytes
  | _, [] => some []
  | i, c :: cs =>
    match Sys2Proof.Config.aeadOpen code key (nonce i) aad c with
    | none => none
    | some m => (openSegments code key nonce aad (i + 1) cs).map (fun r => m ++ r)

/-- Cut a plaintext into segments of 1,048,576 bytes; a plaintext of no bytes has the one empty segment (R320). -/
def plainSegments (bs : Bytes) : List Bytes := if bs.isEmpty then [[]] else pieces 1048576 bs

/-- Cut a sealed text into segments of 1,048,592 bytes. -/
def sealedSegments (bs : Bytes) : List Bytes := pieces 1048592 bs

end Sys2Proof.Machine
end

