-- ==== Sys2Proof/Machine/HostQueues.lean ====
section
/-! DEFINITION. The command plane's queues: enabling and disabling, doorbells, fetching and the checks of R267, the P0
slots, coalescing, held events and pointer mismatches (R256 to R284, R381, R446). -/

namespace Sys2Proof.Machine

-- ------------------------------------------------------------------ enabling queues

/-- Enabled queues device-wide (R257, CMD.QUEUES_USED). -/
def queuesUsed (s : State) : Nat :=
  sumNat (s.cmd.fns.map (fun e =>
    (e.2.sqs.filter (fun q => q.2.enable)).length + (e.2.cqs.filter (fun q => q.2.enable)).length))

/-- Does a VF's partition exist? A PF needs none (R257 check 1). -/
def fnUsable (s : State) (f : Fn) : Bool :=
  match fnPart f with
  | none => true
  | some p => partExists s p

/-- The vectors that a CQ of a function may name: 0 to 30 on a VF, 0 to 47 on the PF (R282). -/
def vectorLimit (f : Fn) : Nat := if fnIsPf f then 48 else 31

/-- Is an SQ's configuration valid (R257 check 2)? -/
def sqConfigOk (s : State) (f : Fn) (q : Sq) : Bool :=
  decide (q.cls ≠ 0) && decide (6 ≤ q.log2.toNat) && decide (q.log2.toNat ≤ 16) && (getCq s f q.cq.toNat).enable

/-- Is a CQ's configuration valid (R257 check 2)? -/
def cqConfigOk (f : Fn) (q : Cq) : Bool :=
  decide (6 ≤ q.log2.toNat) && decide (q.log2.toNat ≤ 16) && decide (q.vector.toNat < vectorLimit f)

/-- The error_cause of a refused enable, 0 for an enable that stands (R257). -/
def enableCause (s : State) (f : Fn) (configOk : Bool) : BitVec 3 :=
  if fnUsable s f = false then 3 else if configOk = false then 2 else if 4096 ≤ queuesUsed s then 1 else 0

/-- An SQ with the configuration that SQn_CFG names: an enable takes it, and it holds until the next (R257, R282; DESIGN CHOICE,
assumption 68). -/
def sqConfigured (q : Sq) : Sq :=
  { q with log2 := q.cfg.setWidth 5, cls := (q.cfg >>> 5).setWidth 2, cq := (q.cfg >>> 8).setWidth 4 }

/-- A CQ with the configuration that CQn_CFG names. -/
def cqConfigured (q : Cq) : Cq :=
  { q with log2 := q.cfg.setWidth 5, vector := (q.cfg >>> 5).setWidth 6, coalCount := (q.cfg >>> 11).setWidth 8
           coalTime := (q.cfg >>> 19).setWidth 10 }

/-- A write of 1 to SQn_CTRL.enable. A write to an enabled SQ changes nothing. -/
def sqEnableOp (s : State) (f : Fn) (n : Nat) : State :=
  let q := getSq s f n
  if q.enable then s
  else
    let c := sqConfigured q
    let cause := enableCause s f (sqConfigOk s f c)
    if cause = 0 then setSq s f n { c with enable := true, head := 0, tail := 0, taken := 0, cause := 0, ctrl := true }
    else setSq s f n { q with error := true, cause := cause, ctrl := true }

/-- A write of 0 to SQn_CTRL.enable: fetching stops at once (R282). -/
def sqDisableOp (s : State) (f : Fn) (n : Nat) : State :=
  setSq s f n { getSq s f n with enable := false, ctrl := false }

/-- The cells of a list of written entries, given back. -/
def freePosted (s : State) (f : Fn) (l : List CqEntry) : State :=
  l.foldl (fun a e => freeCells a (fnPart f) e.entry.cells) s

/-- A CQ with coal_count and coal_time as they stand in CQn_CFG, which a running CQ follows (R281, R282). -/
def cqCoalesced (q : Cq) : Cq := { q with coalCount := (q.cfg >>> 11).setWidth 8, coalTime := (q.cfg >>> 19).setWidth 10 }

/-- A write of 1 to CQn_CTRL.enable. After a pointer reset the entries kept are rewritten first (R280); otherwise the old
ring's unconsumed entries are gone, and their cells are free again (assumption 16). -/
def cqEnableOp (s : State) (f : Fn) (n : Nat) : State :=
  let q := getCq s f n
  if q.enable then s
  else
    let c := cqConfigured q
    let cause := enableCause s f (cqConfigOk f c)
    if cause = 0 then
      let s1 := freePosted s f q.posted
      drainHeld (setCq s1 f n { c with enable := true, head := 0, tail := 0, phase := true, posted := [],
                                       unsignalled := 0, cause := 0, awaiting := false, ctrl := true }) f n
    else setCq s f n { q with error := true, cause := cause, ctrl := true }

/-- Is an enabled SQ bound to CQ n (R282)? An SQ that the host has disabled counts as enabled no longer, though SQn_STATUS.enabled
stays 1 until its commands have completed; so too for SQn_BASE and the count of queues (DESIGN CHOICE, assumption 142). -/
def cqBound (s : State) (f : Fn) (n : Nat) : Bool :=
  (getFn s f).sqs.any (fun q => q.2.enable && decide (q.2.cq.toNat = n))

/-- A write of 0 to CQn_CTRL.enable, ignored while an enabled SQ is bound to the CQ (R282). -/
def cqDisableOp (s : State) (f : Fn) (n : Nat) : State :=
  if cqBound s f n then s else setCq s f n { getCq s f n with enable := false, ctrl := false }

-- ------------------------------------------------------------------ doorbells

/-- A tail doorbell: ignored with bad_doorbell for a tail of 2^log2_entries or more, or on a disabled queue (R260). -/
def sqTailOp (s : State) (f : Fn) (n v : Nat) : State :=
  let q := getSq s f n
  if q.enable && decide (v < 2 ^ q.log2.toNat) then setSq s f n { q with tail := v } else setFnError s f 0

/-- A head doorbell: the entries consumed give their cells back, and held completions follow into the ring (R260, R265,
R446). -/
def cqHeadOp (s : State) (f : Fn) (n v : Nat) : State :=
  let q := getCq s f n
  if q.enable && decide (v < q.size) then
    let k := (v + q.size - q.head) % q.size
    let s1 := freePosted s f (q.posted.take k)
    drainHeld (setCq s1 f n { getCq s1 f n with head := v, posted := q.posted.drop k }) f n
  else setFnError s f 0

-- ------------------------------------------------------------------ the checks of R267

/-- The partition a command is for: the VF's, or the one that a PF command's params name (R266). -/
def cmdPart (row : CmdRow) (f : Fn) (d : Desc) : Option Nat :=
  match fnPart f with
  | some p => some p
  | none => row.partAt.map (fun o => d.param o 1)

/-- The class of a CT command's channel: leveled channels run at P1, refresh channels at P2 (R187, R270). -/
def channelClass (s : State) (f : Fn) (d : Desc) : Nat :=
  match fnPart f with
  | none => 2
  | some p =>
    match getRound s p with
    | none => 2
    | some r => if r.desc.leveled.getLsbD (d.channel.toNat % 64) then 1 else 2

/-- Check 1: the opcode is listed; reserved fields, unused params and absent fields are 0 (R258, R267). A buffer address that is not
64-byte aligned fails it too, for which no status is stated (DESIGN CHOICE, assumption 159). -/
def check1 (f : Fn) (d : Desc) : Bool :=
  match commandRow d.opcode with
  | none => false
  | some row =>
    decide (d.reserved = 0) && decide (d.flags.toNat / 4 = 0) && decide (d.channel.toNat / 64 = 0)
      && (row.channel || decide (d.channel = 0))
      && (d.critical || (decide (d.counter = 0) && d.tag.all (fun b => decide (b = 0))))
      && (row.buffer || (decide (d.address = 0) && decide (d.length = 0)))
      && decide (d.address.toNat % 64 = 0)
      && row.paramsOk (fnIsPf f) d

/-- Check 2: the function and the class are allowed (R266, R267). -/
def check2 (s : State) (row : CmdRow) (f : Fn) (cls : Nat) (d : Desc) : Bool :=
  (match row.fns with
    | .pf => fnIsPf f
    | .vf => !fnIsPf f
    | .both => true) &&
  (if row.channel then decide (cls = channelClass s f d) else row.classes.contains cls)

/-- Check 3: the partition param is at most 63, the partition exists and is not scrubbing; FENCE skips the scrub
(R267, R307). PART.CREATE is checked on its own. -/
def check3 (s : State) (row : CmdRow) (f : Fn) (d : Desc) : Option Status :=
  if row.opcode = 0x0101 then none
  else match cmdPart row f d with
    | none => none
    | some p =>
      if 63 < p then some .range
      else if (getPart s p).phase = .absent then some .policyDenied
      else if (getPart s p).phase = .scrubbing ∧ row.opcode ≠ 0x0F01 then some .scrubbing
      else none

/-- The partition byte of a command tag (R268). -/
def tagPartByte (row : CmdRow) (f : Fn) (d : Desc) : Nat :=
  match cmdPart row f d with
  | none => 0xFF
  | some p => p

/-- Check 4: flags bit 0 is 1 and the tag verifies; a tag that verifies under a DRAINING command key is KEY_DRAINING
(R267, R303). -/
def check4 (s : State) (row : CmdRow) (f : Fn) (d : Desc) : Option Status :=
  let pb := tagPartByte row f d
  if d.critical = false then some .authFail
  else match fnPart f with
    | none => if commandTag (keeperKey s) pb d = d.tag then none else some .authFail
    | some p =>
      if (match (getPart s p).cmdKey with
          | some k => decide (commandTag k pb d = d.tag)
          | none => false) then none
      else if (getPart s p).drains.any (fun k =>
          decide (k.handle.toNat / 2 ^ 24 = 0x81) && decide (commandTag k.value pb d = d.tag)) then some .keyDraining
      else some .authFail

/-- The last counter accepted under the command's key (R269). -/
def lastCounter (s : State) (f : Fn) : W64 :=
  match fnPart f with
  | none => s.keeper.counter
  | some p => (getPart s p).counter

/-- Accept a counter: the partition's, or the device-level one with its ceiling in flash (R269). -/
def acceptCounter (s : State) (f : Fn) (v : W64) : State :=
  match fnPart f with
  | some p => setPart s p { getPart s p with counter := v }
  | none =>
    let c := s.keeper.ceiling
    let s1 := if c.toNat ≤ v.toNat then writeCeiling s (BitVec.ofNat 64 (min (2 ^ 64 - 1) (max c.toNat v.toNat + 2 ^ 16))) else s
    { s1 with keeper := { s1.keeper with counter := v } }

/-- Checks 1 to 3, the tamper lock ahead of them (R267, R330), a stalled island after them (R363), and the loss of all
eight Stewards, which ends every command for a partition (R382). -/
def earlyChecks (s : State) (f : Fn) (cls : Nat) (d : Desc) : Option Status :=
  if s.keeper.locked && decide (d.opcode ≠ 0x0C01) then some .tamper
  else if check1 f d = false then some .malformed
  else match commandRow d.opcode with
    | none => some .malformed
    | some row =>
      if check2 s row f cls d = false then some .policyDenied
      else match check3 s row f d with
        | some st => some st
        | none =>
          if s.rel.stewards = 0xFF && (cmdPart row f d).any (partExists s) then some .policyDenied
          else match firstIsland row f with
          | none => none
          | some i => if s.islands.stalled.getLsbD i then some .stalledIsland else none

/-- Checks 4 and 5 of a critical command, and the counter that passing them consumes (R267, R269). -/
def lateChecks (s : State) (f : Fn) (d : Desc) : Option (Status × Results) × State :=
  match commandRow d.opcode with
  | none => (some (.malformed, {}), s)
  | some row =>
    if isCritical row = false then (none, s)
    else match check4 s row f d with
      | some st => (some (st, {}), s)
      | none =>
        if d.counter.toNat ≤ (lastCounter s f).toNat then
          (some (.counterStale, { r0 := (lastCounter s f).toNat }), s)
        else (none, acceptCounter s f d.counter)

-- ------------------------------------------------------------------ fetching

/-- Does the device take commands on a function: boot complete, awake, the link up, the port's PF not in D3hot (R414,
R415, R422, R423, R430)? -/
def acceptsCommands (s : State) (f : Fn) : Bool :=
  decide (s.hub.bootState = 3) && !decide (s.power.state = .sleep) && !s.pins.thermtrip
    && (getPort s (fnPort f)).linkUp && !(getPort s (fnPort f)).d3hot

/-- May a descriptor be fetched from an SQ: enabled, an entry up to the tail, its CQ able to take completions (R260,
R265, R280)? -/
def canFetch (s : State) (f : Fn) (n : Nat) : Bool :=
  let q := getSq s f n
  let c := getCq s f q.cq.toNat
  acceptsCommands s f && q.enable && decide (q.head ≠ q.tail) && c.enable && !c.isFull && c.held.isEmpty

/-- A command enters the list of taken commands. -/
def enqueueTaken (s : State) (t : Taken) : State := { s with cmd := { s.cmd with taken := s.cmd.taken ++ [t] } }

/-- A place in the Stewards' order (R45). -/
def takeOrder (s : State) : State := { s with cmd := { s.cmd with nextOrder := s.cmd.nextOrder + 1 } }

/-- Does an unproved P0 ABORT, taken before a place in the order, wait for the Keeper under the key that checks the function's critical
commands? Their counters are accepted in the Steward's order (R45, R269, R273). -/
def verdictBefore (s : State) (f : Fn) (order : Nat) : Bool :=
  s.cmd.taken.any (fun t => t.unproved && decide (fnPart t.ref.fn = fnPart f ∧ t.order < order))

/-- The device fetches one descriptor: two cells, the SQ's pointers, the checks of R267, and then the list of taken
commands or at once a completion (R446, R260, R267). A critical one waits in its ring for the verdicts before it (R269; DESIGN CHOICE,
assumption 143). -/
def fetchOp (s : State) (f : Fn) (n : Nat) (raw : Bytes) : State :=
  if canFetch s f n = false then s
  else if (commandRow (parseDesc raw).opcode).any isCritical && verdictBefore s f s.cmd.nextOrder then s
  else match drawCells s (fnPart f) 2 with
    | none => s
    | some (cells, s1) =>
      let q := getSq s1 f n
      let head := (q.head + 1) % 2 ^ q.log2.toNat
      let s2 := takeOrder (setSq s1 f n { q with head := head, taken := q.taken + 1 })
      let d := parseDesc raw
      let t : Taken := {
        ref := { fn := f, source := n, commandId := d.commandId }, desc := d, cls := Cls.ofCfg q.cls,
        part := (commandRow d.opcode).bind (fun row => cmdPart row f d)
        order := s.cmd.nextOrder, cells := cells, sqHead := head }
      match earlyChecks s2 f q.cls.toNat d with
      | some st => complete s2 t st
      | none =>
        match lateChecks s2 f d with
        | (some (st, r), s3) => complete s3 t st r
        | (none, s3) => enqueueTaken s3 t

-- ------------------------------------------------------------------ P0 slots

/-- Hold back or release a partition's new steps while a P0 ABORT waits for its verdict (R273). -/
def setHeld (s : State) (p : Option Nat) (b : Bool) : State :=
  match p with
  | none => s
  | some n => setPart s n { getPart s n with held := b }

/-- A 64-byte write to a P0 slot: a busy slot discards it and sets overrun; otherwise the descriptor is taken with its two
cells of the priority-0 reserve and dispatched (R271 to R273). -/
def p0Op (s : State) (f : Fn) (slot : Nat) (raw : Bytes) : State :=
  if acceptsCommands s f = false then s
  else if (getSlot s f slot).busy then
    setFnError (setSlot s f slot { getSlot s f slot with overrun := true }) f 2
  else
    let d := parseDesc raw
    let s1 := setSlot s f slot { getSlot s f slot with busy := true, holder := s.cmd.nextOrder }
    let s2 := takeOrder { s1 with cmd := { s1.cmd with p0SlotFree := s1.cmd.p0SlotFree - 2 } }
    let t : Taken := {
      ref := { fn := f, source := 16 + slot, commandId := d.commandId }, desc := d, cls := .p0
      part := (commandRow d.opcode).bind (fun row => cmdPart row f d)
      order := s.cmd.nextOrder, cells := { p0Slots := 2 }, sqHead := 0 }
    match earlyChecks s2 f 0 d with
    | some st => complete s2 t st
    | none =>
      if (commandRow d.opcode).any isCritical then setHeld (enqueueTaken s2 { t with unproved := true }) t.part true
      else enqueueTaken s2 t

/-- The taken command of a P0 slot that waits for the Keeper's verdict. -/
def unprovedOf (s : State) (f : Fn) (slot : Nat) : Option Taken :=
  s.cmd.taken.find? (fun t => decide (t.ref.fn = f ∧ t.ref.source = 16 + slot) && t.unproved)

-- ------------------------------------------------------------------ pointer mismatches

/-- A QUEUE_RESET event: the queue's index, bit 5 for a CQ, and the SQ's taken count (R263, R280). -/
def queueResetEvent (s : State) (f : Fn) (index : Nat) (isCq : Bool) (taken : W64) : State :=
  let e : Event := { kind := .queueReset, status := .queueReset,
                     result1 := BitVec.ofNat 64 (index + 32 * bn isCq), result2 := taken }
  match fnPart f with
  | none => addDeviceEvent s e
  | some p => addEvent s p e

/-- An ADMIT is fetched again from the start of its envelope: nothing of it is staged or passed, its OPEN slot is zero, and its completion
will carry FAULT_REPLAYED (R81, R381). -/
def refetchAdmit (s : State) (t : Taken) : State :=
  match t.part with
  | none => s
  | some n =>
    match Table.get? (getPart s n).flights t.ref with
    | none => s
    | some f =>
      let s1 := unstageAll s t.ref
      let s2 := match f.slot with
        | none => s1
        | some k => zeroSlot s1 (.opens, n, k)
      setPart s2 n { getPart s2 n with
        flights := Table.put (getPart s2 n).flights t.ref { f with segs := [], passed := [], slot := none, replayed := true } }

/-- Does an ABORT of the partition wait for its verdict (R273)? -/
def unprovedFor (s : State) (p : Nat) : Bool := s.cmd.taken.any (fun x => x.unproved && decide (x.part = some p))

/-- A P0 command that the Steward has not looked at, or that the Keeper has not proved, completes with QUEUE_RESET (R381). -/
def resetSlotCommand (s : State) (t : Taken) : State :=
  let s1 := complete s t .queueReset
  match t.part with
  | none => s1
  | some p => setHeld s1 (some p) (unprovedFor s1 p)

/-- Has a number of a mailbox not been taken yet, where took is the last one taken? Numbers wrap at 32 bits (R381). -/
def notTaken (took n : Nat) : Bool := decide ((n + 2 ^ 32 - took - 1) % 2 ^ 32 < 2 ^ 31)

/-- A caravan's mailboxes after a reset: each Steward posts again what comes after the last number that the Sequencer took, and no
number is taken twice (R381). -/
def resetMail (c : Caravan) : Caravan :=
  { c with mailbox := c.mailbox.filter (fun m => notTaken (Table.getD c.mailTook m.steward 0) m.seq) }

/-- The two copies of a queue's pointer disagree (R280, R381). Porter q serves the ADMITs of its port whose order is q
modulo 8, and an envelope that it has received whole needs no second transfer (R381; DESIGN CHOICE, assumption 20). The Keeper's
mailboxes hold their messages in the cells of the commands, from which the Stewards post them again, so nothing of them is lost. -/
def pointerMismatchOp (s : State) (q : QueueId) : State :=
  match q with
  | .sq f n =>
    let x := getSq s f n
    queueResetEvent (setSq s f n { x with enable := false, error := true, cause := 4 }) f n false x.taken
  | .cq f n =>
    let x := getCq s f n
    let s1 := setCq s f n { x with enable := false, error := true, cause := 4, awaiting := true, posted := [],
                                   held := x.posted.map (fun e => e.entry) ++ x.held }
    if n = 0 then setFnError s1 f 3 else queueResetEvent s1 f n true 0
  | .p0Slots f => (s.cmd.taken.filter (fun t => decide (t.ref.fn = f ∧ 16 ≤ t.ref.source) && (t.unproved || unseen t))).foldl resetSlotCommand s
  | .mailbox cv => setCv s cv (resetMail (getCv s cv))
  | .keeperMail _ => s
  | .porter p => (s.cmd.taken.filter (fun t => decide (p = 8 * portNat (fnPort t.ref.fn) + t.order % 8)
      && !(t.part.any (fun k => envelopeReceived (getPart s k) t.ref)))).foldl refetchAdmit s
  | .drbg n => setInst s n { getInst s n with queue := [], filling := true }
  | .events _ => s

-- ------------------------------------------------------------------ meanings

/-- SQ_TAIL_DOORBELL (R260): a new SQ tail is recorded, or the write is ignored with bad_doorbell. -/
def execSqTailDoorbell (fn : Fn) (n : Nat) (v : W32) (s : State) : Host.Outcome State Fault Refusal :=
  .next (sqTailOp s fn n (v.toNat % 2 ^ 16))

/-- CQ_HEAD_DOORBELL (R260, R265): the host's consumption of a CQ. -/
def execCqHeadDoorbell (fn : Fn) (n : Nat) (v : W32) (s : State) : Host.Outcome State Fault Refusal :=
  .next (cqHeadOp s fn n (v.toNat % 2 ^ 16))

/-- DESCRIPTOR_FETCH (R446): the 64 bytes of the SQ entry at the head are raw. -/
def execDescriptorFetch (fn : Fn) (n : Nat) (raw : Bytes) (s : State) : Host.Outcome State Fault Refusal :=
  .next (fetchOp s fn n raw)

/-- P0_DOORBELL (R271). -/
def execP0Doorbell (fn : Fn) (slot : Nat) (raw : Bytes) (s : State) : Host.Outcome State Fault Refusal :=
  .next (p0Op s fn slot raw)

/-- SQ_ENABLE (R257). -/
def execSqEnable (fn : Fn) (n : Nat) (s : State) : Host.Outcome State Fault Refusal := .next (sqEnableOp s fn n)

/-- SQ_DISABLE (R282). -/
def execSqDisable (fn : Fn) (n : Nat) (s : State) : Host.Outcome State Fault Refusal := .next (sqDisableOp s fn n)

/-- CQ_ENABLE (R257). -/
def execCqEnable (fn : Fn) (n : Nat) (s : State) : Host.Outcome State Fault Refusal := .next (cqEnableOp s fn n)

/-- CQ_DISABLE (R282). -/
def execCqDisable (fn : Fn) (n : Nat) (s : State) : Host.Outcome State Fault Refusal := .next (cqDisableOp s fn n)

/-- COALESCE_TIMER (R281): coal_time has passed since the first unsignalled completion of a CQ. -/
def execCoalesceTimer (fn : Fn) (n : Nat) (s : State) : Host.Outcome State Fault Refusal :=
  let q := getCq s fn n
  if q.unsignalled = 0 then .next s
  else .next (signal (setCq s fn n { q with unsignalled := 0 }) fn q.vector.toNat)

/-- Is an ADMITTED completion up to W still held in its cells (R60)? -/
def admittedHeld (s : State) (p w : Nat) : Bool :=
  [Port.p0, Port.p1].any (fun port => (getFn s (.vf port p)).cqs.any (fun q => q.2.held.any (fun c =>
    decide (c.opcode = 0x0301 ∧ c.status = .ok ∧ c.result0.toNat ≤ w))))

/-- May an event be posted: a LODGED at W only once every ADMITTED completion up to W is, those of a circuit's assigned numbers as well
(R60)? -/
def lodgedReady (s : State) (p : Nat) (e : Event) : Bool :=
  decide (e.kind ≠ .lodged) || (!admittedHeld s p e.result1.toNat
    && (getRound s p).all (fun r => r.circuit.all (fun c => c.assigned.all (fun a => decide (e.result1.toNat < a.2)))))

/-- EVENT_POST (R60, R263): held events are posted in order once the receiving CQ0 can take them: a partition's on its serving
function, a device-level event on P0's PF while its link is up and its CQ0 enabled, and otherwise on P1's PF. -/
def execEventPost (t : EventTarget) (s : State) : Host.Outcome State Fault Refusal :=
  match t with
  | .part p =>
    match servingFn s p with
    | none => .next s
    | some f =>
      let now := (getPart s p).events.takeWhile (lodgedReady s p)
      let r := postEventList f now s
      .next (setPart r.1 p { getPart r.1 p with events := r.2 ++ (getPart s p).events.drop now.length })
  | .device =>
    let f : Fn := if (getPort s .p0).linkUp && (getCq s (.pf .p0) 0).enable then .pf .p0 else .pf .p1
    let r := postEventList f s.cmd.events s
    .next { r.1 with cmd := { r.1.cmd with events := r.2 } }

end Sys2Proof.Machine
end

