-- ==== Sys2Proof/Machine/Entropy.lean ====
section
/-! DEFINITION. The entropy subsystem: sampling and health tests, the seed buffer, the DRBG instances and their queues
(R332 to R348). -/

namespace Sys2Proof.Machine

-- ------------------------------------------------------------------ sources

/-- Parity of the eight oscillators of byte g (R332). -/
def oscParity (osc : W64) (g : Nat) : Bool :=
  decide (((List.range 8).filter (fun i => osc.getLsbD (8 * g + i))).length % 2 = 1)

/-- The raw sample: bit g is the XOR of oscillators 8g to 8g + 7 (R332). -/
def rawSample (osc : W64) : Byte :=
  BitVec.ofNat 8 (sumNat ((List.range 8).map (fun g => bn (oscParity osc g) * 2 ^ g)))

/-- Is any bank HEALTHY (R346, ENT.STATUS.no_source)? -/
def anyHealthy (s : State) : Bool := (List.range 4).any (fun b => decide ((getBank s b).state = .healthy))

/-- The next HEALTHY bank in the order 0, 1, 2, 3, 0 after bank b (R339). -/
def nextHealthy (s : State) (b : Nat) : Option Nat :=
  ((List.range 4).map (fun i => (b + 1 + i) % 4)).find? (fun x => decide ((getBank s x).state = .healthy))

/-- Is the strict-entropy bit of instance n set (R343)? Instance 64 has none. -/
def isStrict (s : State) (n : Nat) : Bool := decide (n < 64) && s.entropy.strict.getLsbD n

/-- An instance stalls (R343). -/
def stallInst (s : State) (n : Nat) : State := setEntError (setInst s n { getInst s n with stalled := true }) 4

/-- Cells free for the queue of an instance: a partition's reservation, or the priority-0 reserve beside the slots' share (R344). -/
def queueRoom (s : State) (n : Nat) : Nat := if n = 64 then s.cmd.p0OtherFree else reservedFree s (some n)

/-- The queue of an instance draws k cells. -/
def drawQueue (s : State) (n k : Nat) : State :=
  if k = 0 then s else
  let s1 := setInst s n { getInst s n with cells := (getInst s n).cells + k }
  if n = 64 then { s1 with cmd := { s1.cmd with p0OtherFree := s1.cmd.p0OtherFree - k } }
  else setPart s1 n { getPart s1 n with cellsUsed := (getPart s1 n).cellsUsed + k }

/-- The queue of an instance returns k cells. -/
def returnQueue (s : State) (n k : Nat) : State :=
  if k = 0 then s else
  let s1 := setInst s n { getInst s n with cells := (getInst s n).cells - k }
  if n = 64 then { s1 with cmd := { s1.cmd with p0OtherFree := s1.cmd.p0OtherFree + k } }
  else setPart s1 n { getPart s1 n with cellsUsed := (getPart s1 n).cellsUsed - k }

/-- A queue that is flushed: every queued cell is zeroed and returned, and drawn again for what is queued later (R346; DEDUCED,
assumption 106). -/
def flushQueue (s : State) (n : Nat) : State :=
  let s1 := returnQueue s n (getInst s n).queue.length
  setInst s1 n { getInst s1 n with queue := [], filling := true }

/-- A strict instance that finds no HEALTHY bank flushes its queue and stalls (R346). -/
def checkStrict (s : State) (n : Nat) : State :=
  if isStrict s n && (getInst s n).live && !(getInst s n).stalled && !anyHealthy s then stallInst (flushQueue s n) n else s

/-- Every strict instance finds whether a bank is HEALTHY (R346). -/
def stallStrict (s : State) : State := (List.range 64).foldl checkStrict s

/-- A test of a bank fails: FAILED or, at the third failure, RETIRED; the active bank's open window is discarded and the
next HEALTHY bank takes over (R336, R339, R346). -/
def bankFails (s : State) (b : Nat) (rct apt : Bool) : State :=
  let k := getBank s b
  let n := k.failures + 1
  let s1 := setBank s b { k with state := if 3 ≤ n then .retired else .failed, failures := n, lastRct := rct, lastApt := apt,
                                 startup := 0 }
  let s2 := setEntError s1 (if 3 ≤ n then 9 else 1)
  let s3 := if s2.entropy.active = some b then
      { s2 with entropy := { s2.entropy with active := nextHealthy s2 b, window := [], syncing := true } } else s2
  if anyHealthy s3 then s3 else stallStrict (setEntError s3 2)

/-- A block of the conditioner: SHA-256 of the bank number and 256 samples (R338). -/
def seedBlock (b : Nat) (samples : Bytes) : Bytes := Sys2Proof.Config.sha256 (toLe 1 b ++ samples)

/-- A sample of the active bank reaches the conditioner; at the close of a window two blocks are released, as far as the
seed buffer has room (R338 to R340). -/
def conditionSample (s : State) (b : Nat) (v : Byte) (windowStart : Bool) : State :=
  if s.entropy.active ≠ some b then s
  else if s.entropy.syncing && !windowStart then s
  else
    let w := s.entropy.window ++ [v]
    if w.length < 512 then { s with entropy := { s.entropy with window := w, syncing := false } }
    else { s with entropy := { s.entropy with
             window := [], syncing := false
             seeds := (s.entropy.seeds ++ [seedBlock b (w.take 256), seedBlock b (w.drop 256)]).take 16 } }

/-- A bank passes its start-up test: HEALTHY, and the active bank when no other is (R335, R336, R338). -/
def bankPasses (s : State) (b : Nat) : State :=
  let s1 := setBank s b { getBank s b with state := .healthy }
  if s1.entropy.active.isNone then
    { s1 with entropy := { s1.entropy with active := some b, window := [], syncing := true } } else s1

/-- One sampler period of a bank: the raw sample and both continuous tests, which run in every state but RETIRED (R332, R334). A
test that fails while the bank is FAILED moves nothing (R336: DEDUCED, assumption 107). -/
def sampleOp (s : State) (b : Nat) (osc : W64) : State :=
  let k := getBank s b
  if k.state = .retired then s
  else
    let v := rawSample osc
    let run := if k.rctSample = some v then k.rctRun + 1 else 1
    let start := decide (k.aptPos = 0)
    let first := if start then v else k.aptFirst
    let count := if start then 1 else if v = k.aptFirst then k.aptCount + 1 else k.aptCount
    let rctBad := decide (16 ≤ run)
    let aptBad := decide (191 ≤ count)
    let s1 := setBank s b { k with
      rctSample := some v, rctRun := run, aptFirst := first, aptCount := count
      aptPos := (k.aptPos + 1) % 512 }
    if k.state = .failed then s1
    else if rctBad || aptBad then bankFails s1 b rctBad aptBad
    else if k.state = .testing then
      if 1023 ≤ k.startup then bankPasses (setBank s1 b { getBank s1 b with startup := 1024 }) b
      else setBank s1 b { getBank s1 b with startup := k.startup + 1 }
    else conditionSample s1 b v start

-- ------------------------------------------------------------------ instances

/-- The personalization string of an instance (R341). -/
def personalization (n : Nat) : Bytes := padTo 48 (ascii "CHIELM-DRBG" ++ toLe 1 n)

/-- The entropy input: the first seed block, then bytes 0 to 15 of the second (R341). -/
def entropyInput (a b : Bytes) : Bytes := a ++ b.take 16

/-- Does an instance wait for the seed buffer: to be instantiated, or owed a reseed (R342, R343)? A strict instance waits
for a HEALTHY bank first (R346). -/
def wantsSeed (s : State) (n : Nat) : Bool :=
  let d := getInst s n
  !s.entropy.erased && (if d.live then d.owed || d.stalled else decide (n = 64) || decide ((getPart s n).phase = .live))
    && !(isStrict s n && d.live && !anyHealthy s)

/-- Does instance a come before instance b at the seed buffer: the device instance, then stalled ones, then descending
reseed counters, then the lower number (R340)? -/
def seedBefore (s : State) (a b : Nat) : Bool :=
  let rank := fun n => if n = 64 then 0 else if (getInst s n).stalled then 1 else 2
  let cnt := fun n => if rank n = 2 then (getInst s n).count else 0
  decide (rank a < rank b) || (decide (rank a = rank b) && (decide (cnt b < cnt a) || (decide (cnt a = cnt b) && decide (a < b))))

/-- Is instance n the one that the seed buffer serves next, and are two blocks present (R340)? -/
def seedServes (s : State) (n : Nat) : Bool :=
  wantsSeed s n && decide (2 ≤ s.entropy.seeds.length)
    && (List.range 65).all (fun m => decide (m = n) || !wantsSeed s m || seedBefore s n m)

/-- The entropy input that the next two blocks form. -/
def nextSeed (s : State) : Bytes := entropyInput (s.entropy.seeds.getD 0 []) (s.entropy.seeds.getD 1 [])

/-- Take two blocks out of the seed buffer. -/
def takeSeeds (s : State) : State := { s with entropy := { s.entropy with seeds := s.entropy.seeds.drop 2 } }

/-- Instantiate an instance from the seed buffer; its queue's 32 cells are drawn, as far as they are free, the others when it needs them
(R341, R342, R344; DEDUCED, assumption 106). A strict instance that finds no HEALTHY bank stalls at once (R346). -/
def instantiateOp (s : State) (n : Nat) : State :=
  if seedServes s n && !(getInst s n).live then
    let key := Sys2Proof.Config.ctrDrbgInstantiate (nextSeed s) (personalization n)
    checkStrict (drawQueue (setInst (takeSeeds s) n { live := true, key := key, filling := true }) n (min 32 (queueRoom s n))) n
  else s

/-- Reseed an instance from the seed buffer (R343). -/
def reseedOp (s : State) (n : Nat) : State :=
  let d := getInst s n
  setInst (takeSeeds s) n { d with key := Sys2Proof.Config.ctrDrbgReseed d.key (nextSeed s), count := 0, interval := 65536,
                                   owed := false, stalled := false }

/-- A reseed that is not served: a strict instance stalls, one at 2^24 requests stalls, another doubles its interval
(R343). -/
def stretchOrStall (s : State) (n : Nat) : State :=
  let d := getInst s n
  if isStrict s n || decide (2 ^ 24 ≤ d.count) then stallInst s n
  else setInst s n { d with interval := d.interval * 2 }

/-- The count at which an instance asks for a reseed: its interval, or 2^16 for a strict one, which never stretches (R343). -/
def dueAt (s : State) (n : Nat) : Nat := if isStrict s n then 65536 else (getInst s n).interval

/-- An instance whose count is due asks for a reseed: served, or stretched, or stalled (R343). -/
def askReseed (s : State) (n : Nat) : State :=
  let s1 := setInst s n { getInst s n with owed := true }
  if seedServes s1 n then reseedOp s1 n else stretchOrStall s1 n

/-- One generate request: 64 bytes into the queue, and the request counted (R341, R343, R344); the queue draws a cell for them where a
flush has returned its own. -/
def generateOp (s : State) (n : Nat) : State :=
  let s1 := if dueAt s n ≤ (getInst s n).count then askReseed s n else s
  let d := getInst s1 n
  let short := decide (d.cells ≤ d.queue.length)
  if d.live && !d.stalled && decide (d.queue.length < 32) && (!short || decide (0 < queueRoom s1 n)) then
    let g := Sys2Proof.Config.ctrDrbgGenerate d.key
    let s2 := setInst s1 n { d with key := g.1, count := d.count + 1, queue := d.queue ++ [g.2],
                                    filling := d.filling && decide (d.queue.length + 1 < 32)
                                    owed := d.owed || decide (dueAt s1 n ≤ d.count + 1) }
    let s3 := if short then drawQueue s2 n 1 else s2
    if d.count + 1 = 2 ^ 24 then stallInst s3 n else s3
  else s1

/-- A consumer's draw of one whole cell (R344, R345): NOT_READY before the device instance or the instance itself is
instantiated; ENTROPY_UNAVAILABLE when the instance is stalled; otherwise a cell of the queue, or one that the engine generates for the
waiting consumer. -/
def drawOp (s : State) (n : Nat) : (Status × Bytes) × State :=
  if !(getInst s 64).live || !(getInst s n).live then ((.notReady, []), s)
  else if (getInst s n).stalled then ((.entropyUnavailable, []), s)
  else
    let s1 := if (getInst s n).queue.isEmpty then generateOp s n else s
    match (getInst s1 n).queue with
    | [] => ((.entropyUnavailable, []), s1)
    | c :: cs =>
      ((.ok, c), setInst s1 n { getInst s1 n with
        queue := cs, filling := (getInst s1 n).filling || decide (cs.length ≤ 16) })

/-- The instances that the refill engine would serve (R344). -/
def refillWaits (s : State) (n : Nat) : Bool :=
  let d := getInst s n
  d.live && !d.stalled && d.filling && decide (d.queue.length < 32)

/-- Is instance n the engine's next in round-robin order after the one it served last (R344, R345)? -/
def refillNext (s : State) (n : Nat) : Bool :=
  refillWaits s n && decide (((List.range 65).map (fun i => (s.entropy.lastRefill + 1 + i) % 65)).find? (refillWaits s) = some n)

/-- A partition's instance is zeroed and uninstantiated, and its queue's cells return (R308, R342, R344). -/
def uninstantiate (s : State) (n : Nat) : State := setInst (returnQueue s n (getInst s n).cells) n {}

/-- Every instance uninstantiated (R330, R342). -/
def uninstantiateAll (s : State) : State := (List.range 65).foldl uninstantiate s

-- ------------------------------------------------------------------ meanings

/-- ENTROPY_SAMPLE (R334): a bank latches its 64 oscillators and tests the sample. -/
def execEntropySample (bank : Nat) (oscillators : W64) (s : State) : Host.Outcome State Fault Refusal :=
  .next (if bank < 4 then sampleOp s bank oscillators else s)

/-- BANK_RETEST (R336): a FAILED bank with fewer than three failures returns to TESTING, and its start-up test begins. -/
def execBankRetest (bank : Nat) (s : State) : Host.Outcome State Fault Refusal :=
  let k := getBank s bank
  .next (if k.state = .failed ∧ k.failures < 3 then
      setBank s bank { k with state := .testing, startup := 0, rctSample := none, rctRun := 0, aptPos := 0, aptCount := 0 }
    else s)

/-- DRBG_INSTANTIATE (R342). -/
def execDrbgInstantiate (n : Nat) (s : State) : Host.Outcome State Fault Refusal := .next (instantiateOp s n)

/-- RESEED_SERVE (R343, R346): an instance that is owed a reseed is served, stretched or stalled. -/
def execReseedServe (n : Nat) (s : State) : Host.Outcome State Fault Refusal :=
  let d := getInst s n
  .next (if d.live && (d.owed || d.stalled) then
      (if seedServes s n then reseedOp s n
       else if decide (dueAt s n ≤ d.count) && !d.stalled then stretchOrStall (checkStrict s n) n else checkStrict s n)
    else s)

/-- DRBG_QUEUE_REFILL (R344): the engine generates one cell into the queue that is next in turn. -/
def execDrbgQueueRefill (n : Nat) (s : State) : Host.Outcome State Fault Refusal :=
  .next (if refillNext s n then
      let s1 := generateOp s n
      { s1 with entropy := { s1.entropy with lastRefill := n } }
    else s)

/-- The draws of a consumer: the device instance's or a partition's, and the bytes that each draw takes of its cell (R345). -/
def consumerDraws : DrawConsumer → Bool × List Nat
  | .createNonce => (true, [16])
  | .checkpointSalt => (true, [16])
  | .attestKeys => (true, [64])
  | .roundSecret => (false, [32])
  | .finishKeys => (false, [32, 16])

/-- A consumer's draws, one after the other, each of one whole cell; the first that gives none ends them (R345). -/
def drawCellsOf (n : Nat) : List Nat → State → (Status × Bytes) × State
  | [], s => ((.ok, []), s)
  | k :: ks, s =>
    match drawOp s n with
    | ((.ok, cell), s1) =>
      let r := drawCellsOf n ks s1
      ((r.1.1, cell.take k ++ r.1.2), r.2)
    | ((st, _), s1) => ((st, []), s1)

/-- DRBG_DRAW (R345): the draws of one consumer, with their outcome in the model's record lastDraw (assumption 12). A consumer draws from
no instance but its own. -/
def execDrbgDraw (n : Nat) (consumer : DrawConsumer) (s : State) : Host.Outcome State Fault Refusal :=
  .next (if decide (n = 64) = (consumerDraws consumer).1 ∧ n < 65 then
      let r := drawCellsOf n (consumerDraws consumer).2 s
      { r.2 with entropy := { r.2.entropy with lastDraw := some (n, consumer, r.1.1, r.1.2) } }
    else s)

end Sys2Proof.Machine
end

