-- ==== Sys2Proof/Machine/Firmware.lean ====
section
/-! DEFINITION. Images and configuration blocks in flash, their verification and choice, and FW.STAGE and DEBUG.SET (R306,
R411 to R413, R417, R418). -/

namespace Sys2Proof.Machine

/-- Bytes of a group's slot (R411). -/
def slotBytes : Nat → Nat
  | 0 => 0x400000 | 1 => 0x800000 | 2 => 0x800000 | 3 => 0x400000 | 4 => 0x400000 | 5 => 0x10000
  | _ => 0

/-- Where a slot of a group begins in flash (R411). -/
def slotOffset (g : Nat) (b : Bool) : Nat :=
  (match g with
    | 0 => 0 | 1 => 0x800000 | 2 => 0x1800000 | 3 => 0x2800000 | 4 => 0x3000000 | _ => 0x3800000) + (if b then slotBytes g else 0)

/-- The regions of the flash, as offset and size: the twelve slots, then the certificate, the training counters, the ageing record and
the ceiling (R411). -/
def flashRegions : List (Nat × Nat) :=
  ((List.range 6).map (fun g => [(slotOffset g false, slotBytes g), (slotOffset g true, slotBytes g)])).flatten
    ++ [(0x3820000, 0x10000), (0x3830000, 0x10000), (0x3840000, 0x100000), (0x3940000, 0x10000)]

/-- The header of an image (R412), with the image's digest. -/
structure Image where
  magic    : Bytes
  hversion : Nat
  group    : Nat
  version  : Nat
  sequence : Nat
  bodyLen  : Nat
  compat   : List (Nat × Nat)
  bundle   : Bytes
  reserved : Bool
  body     : Bytes
  signed   : Bytes
  sig      : Bytes
  deriving DecidableEq, Repr

/-- Read an image: header, body, signature (R412). -/
def parseImage (bs : Bytes) : Image :=
  let n := field bs 0x0C 4
  { magic := slice bs 0 4, hversion := field bs 4 1, group := field bs 5 1, version := field bs 6 2
    sequence := field bs 8 4, bodyLen := n
    compat := (List.range 5).map (fun i => (field bs (0x10 + 4 * i) 2, field bs (0x12 + 4 * i) 2))
    bundle := slice bs 0x40 32
    reserved := zeros bs 0x24 28 && zeros bs 0x60 32
    body := slice bs 128 n, signed := slice bs 0 (128 + n), sig := slice bs (128 + n) 16224 }

/-- The digest that the attestation report carries (R412). -/
def Image.digest (i : Image) : Bytes := Sys2Proof.Config.sha256 i.signed

/-- Does an image verify for a group: header, fit and signature (R412)? -/
def imageVerifies (g : Nat) (bs : Bytes) : Bool :=
  let i := parseImage bs
  decide (i.magic = ascii "CHFW") && decide (i.hversion = 1) && decide (i.group = g) && i.reserved
    && decide (128 + i.bodyLen + 16224 ≤ slotBytes g) && decide (bs.length ≥ 128 + i.bodyLen + 16224)
    && Sys2Proof.Config.slhdsaVerify Sys2Proof.Config.firmwareKey i.signed i.sig

/-- Does a configuration block verify (R413)? -/
def configVerifies (bs : Bytes) : Bool :=
  let b := (parseImage bs).body
  imageVerifies 5 bs && decide (b.length = 16) && decide (field b 0 1 ≤ 2) && decide (field b 1 1 ≤ 1) && zeros b 2 2
    && decide (slice b 12 4 = Sys2Proof.Config.fabricGroupCode)
    && (decide (field b 4 8 = Sys2Proof.Config.deviceSerial.toNat) || (decide (field b 4 8 = 0) && decide (field b 0 1 ≠ 2)))

/-- The bytes of a flash slot. -/
def flashSlot (s : State) (g : Nat) (b : Bool) : Bytes := Table.getD s.flash.slots (g, b) []

/-- Write a flash slot. -/
def setFlashSlot (s : State) (g : Nat) (b : Bool) (bs : Bytes) : State :=
  { s with flash := { s.flash with slots := Table.put s.flash.slots (g, b) bs } }

/-- The sequence of the image in a slot; a slot that does not begin an image counts as 0. -/
def slotSequence (s : State) (g : Nat) (b : Bool) : Nat :=
  let i := parseImage (flashSlot s g b)
  if i.magic = ascii "CHFW" then i.sequence else 0

/-- The slot with the higher sequence, which is tried first; slot A at a tie (R417). -/
def firstSlot (s : State) (g : Nat) : Bool := decide (slotSequence s g false < slotSequence s g true)

/-- Are an image of a group and another running image compatible: each version within the other's range (R412)? -/
def compatible (g : Nat) (i : Image) (g' : Nat) (x : FwGroup) : Bool :=
  let r := i.compat.getD g' (0, 0)
  let r' := x.compat.getD g (0, 0)
  decide (r.1 ≤ x.version ∧ x.version ≤ r.2) && decide (r'.1 ≤ i.version ∧ i.version ≤ r'.2)

/-- A group as it runs an image from a slot (R412, R433). -/
def runImage (i : Image) (slot failed : Bool) : FwGroup :=
  { version := i.version, slot := slot, stageFailed := failed, sequence := i.sequence, digest := i.digest,
    compat := i.compat, bundle := i.bundle }

/-- Can a slot be taken for groups 0 to 4: it verifies, is compatible with every group already taken, and under
reload-all carries the Keeper image's bundle_id (R417)? -/
def slotTakeable (s : State) (g : Nat) (b : Bool) (done : List Nat) : Bool :=
  let i := parseImage (flashSlot s g b)
  imageVerifies g (flashSlot s g b)
    && done.all (fun h => compatible g i h (getFw s h))
    && (s.hub.rolling || decide (g = 0) || decide (i.bundle = (getFw s 0).bundle))

/-- A group takes a verified image: the Keeper puts it into the device area, and the group runs it (R21, R417). -/
def takeImage (s : State) (g : Nat) (slot failed : Bool) : State :=
  setFw { s with hbm := { s.hbm with images := Table.put s.hbm.images g (flashSlot s g slot) } } g
    (runImage (parseImage (flashSlot s g slot)) slot failed)

/-- Load a group at a boot: the slot of the higher sequence, else the other one; none when neither can be taken. The
fallback sets stage_failed (R417, R418). -/
def loadGroup (s : State) (g : Nat) (done : List Nat) : Option State :=
  let a := firstSlot s g
  if slotTakeable s g a done then some (takeImage s g a false)
  else if slotTakeable s g (!a) done then some (takeImage s g (!a) true)
  else none

/-- Load the configuration block: config, update policy and digest in force (R304, R413, R417). -/
def loadConfig (s : State) : Option State :=
  let use := fun (b failed : Bool) =>
    let i := parseImage (flashSlot s 5 b)
    let s1 := setFw s 5 (runImage i b failed)
    some { s1 with hub := { s1.hub with config := field i.body 0 1, rolling := decide (field i.body 1 1 = 1),
                                        configDigest := i.digest } }
  let a := firstSlot s 5
  if configVerifies (flashSlot s 5 a) then use a false
  else if configVerifies (flashSlot s 5 (!a)) then use (!a) true
  else none

/-- Load groups 1 to 4 in order, each compatible with those taken; the group that fails (R417). -/
def loadGroups : List Nat → List Nat → State → State × Option Nat
  | [], _, s => (s, none)
  | g :: gs, done, s =>
    match loadGroup s g done with
    | none => (s, some g)
    | some s1 => loadGroups gs (done ++ [g]) s1

/-- FW.STAGE (R418): the buffer is written to the named slot after a length check. -/
def execFwStage (ref : CmdRef) (buf : Bytes) (s : State) : Host.Outcome State Fault Refusal :=
  .next (withKeeper s ref 0x1001 (fun s t =>
    let g := t.desc.param 0 1
    let sl := t.desc.param 1 1
    if 5 < g ∨ 1 < sl then complete s t .range
    else if g = 5 then complete s t .policyDenied
    else if (getFw s g).slot = decide (sl = 1) then complete s t .policyDenied
    else if slotBytes g < t.desc.length then complete s t .range
    else complete (setFlashSlot s g (decide (sl = 1)) (buf.take t.desc.length)) t .ok))

/-- DEBUG.SET (R306, R413): a signed configuration block is written to the slot with the lower sequence. -/
def execDebugSet (ref : CmdRef) (buf : Bytes) (s : State) : Host.Outcome State Fault Refusal :=
  .next (withKeeper s ref 0x1002 (fun s t =>
    let b := buf.take t.desc.length
    if configVerifies b = false then complete s t .authFail
    else complete (setFlashSlot s 5 (!firstSlot s 5) b) t .ok))

end Sys2Proof.Machine
end

