-- ==== Sys2Proof/Machine/Sessions.lean ====
section
/-! DEFINITION. Sessions and attestation: session records, SESSION.START, SESSION.RECORD, SESSION.END, ATTEST, the
certificates, and the outsider challenge (R312 to R327). -/

namespace Sys2Proof.Machine

-- ------------------------------------------------------------------ sessions

/-- The session of a function: its partition's, or the PF's own (R319). -/
def sessionOf (s : State) : Fn → Session
  | .vf _ p => (getPart s p).session
  | .pf .p0 => s.keeper.pf0
  | .pf .p1 => s.keeper.pf1

/-- Set the session of a function. -/
def setSession (s : State) (f : Fn) (x : Session) : State :=
  match f with
  | .vf _ p => setPart s p { getPart s p with session := x }
  | .pf .p0 => { s with keeper := { s.keeper with pf0 := x } }
  | .pf .p1 => { s with keeper := { s.keeper with pf1 := x } }

/-- The nonce of segment i of a session record: counter, direction, i (R320). -/
def recordNonce (counter direction i : Nat) : Bytes := toLe 8 counter ++ toLe 1 direction ++ toLe 3 i

/-- Bytes of a record's sealed segments for a content length: at least one segment (R320). -/
def recordBodyLen (content : Nat) : Nat := content + 16 * max 1 (ceilDiv content 1048576)

/-- The header of a device-to-owner or owner-to-device record (R320). -/
def recordHeader (type direction number counter content option : Nat) : Bytes :=
  toLe 2 1 ++ toLe 1 type ++ toLe 1 direction ++ toLe 4 number ++ toLe 8 counter ++ toLe 8 content ++ toLe 1 option
    ++ zeroBytes 7

/-- A device-to-owner record: header, then the content sealed under k_d2h (R320). -/
def sealRecord (x : Session) (type counter option : Nat) (content : Bytes) : Bytes :=
  let h := recordHeader type 1 x.number counter content.length option
  h ++ sealSegments 0 x.d2h (recordNonce counter 1) h (plainSegments content)

/-- Record types that R321 defines. -/
def recordTypes : List Nat := [1, 2, 3, 4, 5, 6, 7, 8, 9, 0x81, 0x85]

/-- Does a record type carry an owner-assigned number in place of the command's counter (R320)? -/
def ownNumber (type : Nat) : Bool := decide (type = 6 ∨ type = 7)

/-- An opened record: its content, option byte and counter. -/
structure Opened where
  content : Bytes
  option  : Nat
  counter : Nat
  deriving DecidableEq, Repr

/-- Open a record that the owner sent, in the order of R320: session, counter and tags (AUTH_FAIL); framing (MALFORMED);
the type that the carrying command takes (POLICY_DENIED). -/
def openRecord (x : Session) (counter : Nat) (type : Nat) (buf : Bytes) : Except Status Opened :=
  let h := slice buf 0 32
  let len := field h 0x10 8
  let body := slice buf 32 (recordBodyLen len)
  let num := field h 0x08 8
  if !x.live || decide (field h 0x04 4 ≠ x.number) || (!ownNumber (field h 2 1) && decide (num ≠ counter))
      || decide (buf.length < 32 + recordBodyLen len) then .error .authFail
  else match openSegments 0 x.h2d (recordNonce num 0) h 0 (sealedSegments body) with
    | none => .error .authFail
    | some m =>
      if field h 0 2 ≠ 1 ∨ field h 3 1 ≠ 0 ∨ zeros h 0x19 7 = false ∨ recordTypes.contains (field h 2 1) = false
          ∨ buf.length ≠ 32 + recordBodyLen len then .error .malformed
      else if field h 2 1 ≠ type then .error .policyDenied
      else .ok { content := m, option := field h 0x18 1, counter := num }

/-- The partition byte of the session labels: 0xFF on the PF (R319). -/
def sessionPart (f : Fn) : Nat :=
  match fnPart f with
  | none => 0xFF
  | some p => p

/-- HKDF-Expand of 32 bytes under a label, the partition and the session number (R319). -/
def sessionExpand (prk : Bytes) (label : String) (p number : Nat) : Bytes :=
  Sys2Proof.Config.hkdfExpand prk (ascii label ++ toLe 1 p ++ toLe 4 number) 32

/-- A pending or current command key of a partition moves to DRAINING when its session ends (R302); the number of keys
moved. The key serves the critical commands taken so far. -/
def drainCommandKey (s : State) (f : Fn) : State × Nat :=
  match fnPart f with
  | none => (s, 0)
  | some p =>
    let x := getPart s p
    match x.cmdKey with
    | none => (s, 0)
    | some k =>
      (setPart s p { x with
        cmdKey := none
        drains := x.drains ++ [{ handle := BitVec.ofNat 32 (0x81 * 2 ^ 24 + x.session.number % 2 ^ 24), value := k,
                                 bound := s.cmd.nextOrder }] }, 1)

/-- The function's pending key pair is consumed (R318). -/
def dropPending (s : State) (f : Fn) : State :=
  { s with keeper := { s.keeper with pendingEk := Table.erase s.keeper.pendingEk f } }

/-- A SESSION.START that names the pending key pair (R319): the proof decides. -/
def startSession (s : State) (t : Taken) (seed buf : Bytes) : State :=
  let f := t.ref.fn
  let old := sessionOf s f
  let digest := slice buf 0x008 32
  let ct := slice buf 0x048 1568
  let ikm := Sys2Proof.Config.mlkem1024Decaps seed ct ++ Sys2Proof.Config.sha256 ct
  let prk := Sys2Proof.Config.hkdfExtract digest ikm
  let p := sessionPart f
  let n := old.number + 1
  let kConf := sessionExpand prk "CHIELM-S-CONF" p n
  let proof := Sys2Proof.Config.hmacSha256 kConf
    (ascii "CHIELM-PROOF" ++ digest ++ Sys2Proof.Config.sha256 ct ++ old.binding.getD [])
  if proof ≠ slice buf 0x028 32 then complete s t .authFail
  else
    let d := drainCommandKey s f
    let exporter := sessionExpand prk "CHIELM-EXPORTER" p n
    let binding := match old.binding with
      | some b => some b
      | none => if fnIsPf f then none else some (sessionExpand prk "CHIELM-BIND" p n)
    let x : Session := { number := n, live := true, prk := prk, h2d := sessionExpand prk "CHIELM-S-H2D" p n,
                         d2h := sessionExpand prk "CHIELM-S-D2H" p n, exporter := exporter, binding := binding }
    let s1 := setSession d.1 f x
    let s2 := match fnPart f with
      | none => s1
      | some q => setPart s1 q { getPart s1 q with cmdKey := some (commandKey exporter q n) }
    let confirm := Sys2Proof.Config.hmacSha256 kConf
      (ascii "CHIELM-CONFIRM" ++ digest ++ Sys2Proof.Config.sha256 ct ++ toLe 4 n)
    complete (emit s2 (.data (fnPort f) (t.desc.address + 0x680) (toLe 4 n ++ zeroBytes 4 ++ confirm))) t .ok { r1 := d.2 }

/-- SESSION_START (R318, R319): a buffer below 0x6A8 bytes is RANGE, a wrong version or reserved byte MALFORMED, and a
report digest that names no pending key pair POLICY_DENIED (the first two DEDUCED, assumption 21). A pair that the
digest names is consumed whatever the outcome. -/
def execSessionStart (ref : CmdRef) (buf : Bytes) (s : State) : Host.Outcome State Fault Refusal :=
  .next (withKeeper s ref 0x0B01 (fun s t =>
    let b := buf.take t.desc.length
    match Table.get? s.keeper.pendingEk ref.fn with
    | none =>
      if t.desc.length < 0x6A8 then complete s t .range
      else if field b 0 2 ≠ 1 ∨ zeros b 2 6 = false ∨ zeros b 0x668 24 = false then complete s t .malformed
      else complete s t .policyDenied
    | some (seed, digest) =>
      let named := decide (slice b 0x008 32 = digest)
      let s1 := if named then dropPending s ref.fn else s
      if t.desc.length < 0x6A8 then complete s1 t .range
      else if field b 0 2 ≠ 1 ∨ zeros b 2 6 = false ∨ zeros b 0x668 24 = false then complete s1 t .malformed
      else if named then startSession s1 t seed b
      else complete s1 t .policyDenied))

/-- The function that an IDE_KEYS record's keys go to: the record's own function on the named port (R322). -/
def onPort (f : Fn) (port : Port) : Fn :=
  match f with
  | .pf _ => .pf port
  | .vf _ n => .vf port n

/-- The IDE stream of a function (R322; the host's configuration gives its number). -/
def ideStream (f : Fn) : Nat :=
  Sys2Proof.Config.ideStreamId (fnIsPf f) ((fnPart f).getD 0) (portNat (fnPort f))

/-- SESSION_RECORD (R321, R322): an IDE_KEYS record installs IDE keys for the function's stream on the named port. A port or a key set above
1 is RANGE; a content of another length, or with reserved bytes that are not 0, is MALFORMED (DESIGN CHOICE, assumption 160). -/
def execSessionRecord (ref : CmdRef) (buf : Bytes) (s : State) : Host.Outcome State Fault Refusal :=
  .next (withKeeper s ref 0x0B02 (fun s t =>
    match openRecord (sessionOf s ref.fn) t.desc.counter.toNat 8 (buf.take t.desc.length) with
    | .error st => complete s t st
    | .ok o =>
      let c := o.content
      if c.length ≠ 256 ∨ zeros c 3 5 = false ∨ zeros c 248 8 = false then complete s t .malformed
      else if 1 < field c 0 1 ∨ 1 < field c 2 1 then complete s t .range
      else
        let g := onPort ref.fn (portOf (field c 0 1))
        if field c 1 1 ≠ ideStream g then complete s t .policyDenied
        else
          let x := getFn s g
          complete (setFn s g { x with ideKeys := Table.put x.ideKeys (field c 2 1) (field c 1 1, slice c 8 240) }) t .ok))

/-- SESSION_END (R323): a valid END record ends the session; anything else is AUTH_FAIL. -/
def execSessionEnd (ref : CmdRef) (buf : Bytes) (s : State) : Host.Outcome State Fault Refusal :=
  .next (withKeeper s ref 0x0B03 (fun s t =>
    match openRecord (sessionOf s ref.fn) t.desc.counter.toNat 9 (buf.take t.desc.length) with
    | .error _ => complete s t .authFail
    | .ok o =>
      if o.content ≠ [] then complete s t .authFail
      else
        let d := drainCommandKey s ref.fn
        let x := sessionOf d.1 ref.fn
        complete (setSession d.1 ref.fn
          { x with live := false, prk := [], h2d := [], d2h := [], exporter := [] }) t .ok { r1 := d.2 }))

-- ------------------------------------------------------------------ attestation

/-- The attestation certificate's 128-byte body (R313): kind 2, algorithm 2, issued by the identity key. -/
def attestationCertBody (s : State) : Bytes :=
  toLe 2 1 ++ toLe 1 2 ++ toLe 1 2 ++ Sys2Proof.Config.fabricGroupCode ++ toLe 8 Sys2Proof.Config.deviceSerial.toNat
    ++ Sys2Proof.Config.slhdsaPublicKey 2 (identitySeeds s 2)
    ++ Sys2Proof.Config.sha256 (Sys2Proof.Config.slhdsaPublicKey 1 (identitySeeds s 1)) ++ zeroBytes 32

/-- The attestation certificate: the body and the identity key's signature (R312, R313). -/
def attestationCert (s : State) : Bytes :=
  attestationCertBody s ++ Sys2Proof.Config.slhdsaSign 1 (identitySeeds s 1) (attestationCertBody s)

/-- The weights digest of a report: zero when the partition holds no image or a torn one (R316). -/
def reportWeights (x : Partition) : Bytes :=
  match x.weights with
  | none => zeroBytes 32
  | some w => if w.torn then zeroBytes 32 else w.digest

/-- The digests of the itinerary sets in slots 0 to 3, zero for an empty slot (R316). -/
def reportItins (x : Partition) : Bytes :=
  ((List.range 4).map (fun i => match Table.get? x.itins i with
    | none => zeroBytes 32
    | some t => padTo 32 t.digest)).flatten

/-- owner_binding_id (R316). -/
def bindingId (x : Partition) : Bytes :=
  match x.session.binding with
  | none => zeroBytes 32
  | some b => Sys2Proof.Config.sha256 (ascii "CHIELM-BINDID" ++ b)

/-- The flags field of a report (R316). -/
def reportFlags (s : State) (x : Partition) : Nat :=
  bn (decide (x.phase ≠ .absent)) + 2 * bn x.session.binding.isSome + 4 * bn (decide (x.phase = .scrubbing))
    + 8 * bn s.keeper.locked + 16 * bn (x.weights.any (fun w => w.torn))

/-- Bytes 0x00C to 0x01F of a report on a partition (R316). -/
def reportStatus (s : State) (p : Nat) : Bytes :=
  let x := getPart s p
  toLe 2 (reportFlags s x) ++ toLe 1 (roundStateOf s p).code
    ++ toLe 1 (match x.round with
        | none => 0xFF
        | some r => r.desc.mode)
    ++ toLe 4 (roundIdOf s p).toNat ++ toLe 4 (if x.session.live then x.session.number else 0)
    ++ toLe 1 s.keeper.lastCause ++ toLe 1 s.keeper.lastPhase ++ zeroBytes 6

/-- Bytes 0x00C to 0x01F of a report under the tamper lock: flags bit 3 and the tamper fields alone (R330). -/
def lockedStatus (s : State) : Bytes :=
  toLe 2 8 ++ zeroBytes 10 ++ toLe 1 s.keeper.lastCause ++ toLe 1 s.keeper.lastPhase ++ zeroBytes 6

/-- The 2,080-byte signed body of a report (R316, R330). -/
def reportBody (s : State) (f : Fn) (nonce ek : Bytes) : Bytes :=
  let locked := s.keeper.locked
  toLe 2 1 ++ toLe 1 s.hub.config ++ toLe 1 (sessionPart f) ++ Sys2Proof.Config.fabricGroupCode
    ++ toLe 4 s.keeper.tamperCount
    ++ (if locked then lockedStatus s else match fnPart f with
        | none => zeroBytes 20
        | some p => reportStatus s p)
    ++ nonce ++ Sys2Proof.Config.slhdsaPublicKey 2 (identitySeeds s 2) ++ zeroBytes 16
    ++ ((List.range 5).map (fun g => padTo 32 (getFw s g).digest)).flatten ++ padTo 32 s.hub.configDigest
    ++ (if locked then zeroBytes 192 else match fnPart f with
        | none => zeroBytes 192
        | some p => reportItins (getPart s p) ++ padTo 32 (reportWeights (getPart s p)) ++ bindingId (getPart s p))
    ++ (if locked then zeroBytes 1568 else ek)

/-- The whole report: body, signature, attestation certificate, device identity certificate (R315). -/
def reportBytes (s : State) (body : Bytes) : Bytes :=
  body ++ Sys2Proof.Config.slhdsaSign 2 (identitySeeds s 2) body ++ attestationCert s ++ padTo 16352 s.flash.cert

/-- ATTEST (R315 to R318, R330): the report is written over the nonce. -/
def execAttest (ref : CmdRef) (nonce : Bytes) (s : State) : Host.Outcome State Fault Refusal :=
  .next (withKeeper s ref 0x0C01 (fun s t =>
    if t.desc.length < 70448 then complete s t .range
    else if s.keeper.locked then
      complete (emit s (.data (fnPort ref.fn) t.desc.address (reportBytes s (reportBody s ref.fn (padTo 32 nonce) []))))
        t .ok { r0 := 70448 }
    else if s.keeper.identity = false then complete s t .notReady
    else
      let d := drawOp s 64
      match d.1 with
      | (.ok, seed) =>
        let body := reportBody d.2 ref.fn (padTo 32 nonce) (Sys2Proof.Config.mlkem1024Ek seed)
        let s1 := { d.2 with keeper := { d.2.keeper with
          pendingEk := Table.put d.2.keeper.pendingEk ref.fn (seed, Sys2Proof.Config.sha256 body) } }
        complete (emit s1 (.data (fnPort ref.fn) t.desc.address (reportBytes s1 body))) t .ok { r0 := 70448 }
      | (st, _) => complete d.2 t st))

/-- ATTESTATION_CERTIFICATE_SIGNED (R312, R414 step 8): the identity keys and the certificate are cached; HUB signals
vector 48. -/
def execAttestationCertificateSigned (s : State) : Host.Outcome State Fault Refusal :=
  .next (if s.keeper.identity || decide (s.hub.bootState ≠ 3) || s.keeper.locked then s
    else
      let cache := areaSeal s (identitySeeds s 1 ++ identitySeeds s 2 ++ attestationCert s)
      signalPfs (bumpFree { s with keeper := { s.keeper with identity := true, cache := cache } }) 48)

-- ------------------------------------------------------------------ the outsider challenge

/-- The 16-byte state block (R327). -/
def outsiderState (s : State) : Bytes :=
  Sys2Proof.Config.fabricGroupCode ++ toLe 4 s.keeper.tamperCount
    ++ toLe 1 (bn s.keeper.tamperHold + 2 * bn s.keeper.locked + 4 * s.hub.config) ++ toLe 1 s.keeper.lastCause ++ zeroBytes 6

/-- The Keeper's answer to a challenge: the state block and its MAC under root 3 (R327). -/
def answerChallenge (s : State) (challenge : Bytes) : State :=
  { s with i3c := { s.i3c with
    challenge := some challenge
    response := some (outsiderState s ++
      Sys2Proof.Config.hmacSha256 (rootKey s 3) (ascii "CHIELM-OUTSIDER" ++ challenge ++ outsiderState s)) } }

/-- A value for an island whose clock stands still waits in the holding register of its VALUE crossing, where a later one overwrites it
(R358). -/
def holdValue (s : State) (island : Nat) (v : Bytes) : State :=
  { s with crossings := Table.put s.crossings island { getCrossing s island with holding := some v } }

/-- OUTSIDER_CHALLENGE (R327, R359): the challenge is answered with the state block and its MAC under root 3, and replaces an
earlier one. The Keeper answers in every state that has power; while its island is stalled the latest challenge waits, and no answer to an
earlier one stands. A target whose own clock has failed takes no write. -/
def execOutsiderChallenge (challenge : Bytes) (s : State) : Host.Outcome State Fault Refusal :=
  .next (if s.pins.pwrgood = false ∨ s.islands.stalled.getLsbD 35 then s
    else if s.islands.stalled.getLsbD 30 then
      holdValue { s with i3c := { s.i3c with challenge := some challenge, response := none } } 30 challenge
    else answerChallenge s challenge)

end Sys2Proof.Machine
end

