-- ==== Sys2Proof/Machine/Partitions.lean ====
section
/-! DEFINITION. Partitions: creation and release, the scrub, failover, FENCE, QUIESCE, key installation, rotation and
draining (R34 to R36, R275 to R279, R291 to R303, R307 to R310). -/

namespace Sys2Proof.Machine

-- ------------------------------------------------------------------ steps of a partition

/-- Does a step of the partition run on a caravan (R94)? -/
def stepRunsOn (p : Nat) (c : Caravan) : Bool := c.stepping && c.work.any (fun w => decide (w.part = p))

/-- Does any step of the partition run? -/
def stepRunning (s : State) (p : Nat) : Bool := s.caravans.any (fun e => stepRunsOn p e.2)

/-- May the Steward issue a new step for the partition: not quiesced, no P0 ABORT unproved, its Steward not retired, D0, not
tripped, no tamper lock and no key rotation that waits (R36, R273, R275, R330, R382, R423, R430)? -/
def canStep (s : State) (p : Nat) : Bool :=
  let x := getPart s p
  decide (x.phase = .live) && !x.quiesced && !x.held && !x.keeperHold && !s.rel.stewards.getLsbD x.steward && decide (s.power.state = .d0) && !s.power.entering
    && !s.keeper.locked && !s.pins.thermtrip

/-- Is a caravan retired (R374)? -/
def cvRetired (s : State) (cv : Nat) : Bool := s.rel.caravans.getLsbD cv

/-- A caravan that serves: one of the 48, not retired (R82, R374). -/
def cvServes (s : State) (cv : Nat) : Bool := decide (cv < 48) && !cvRetired s cv

/-- Class of a work's steps: a REFRESH routine that KSW or REFRESH runs is P3, every other step P2 (R162, R187, R201; DEDUCED,
assumption 40). -/
def stepClass (w : Work) : Cls := if w.library.isSome then .p3 else .p2

/-- The next message of a Steward's mailbox: a step of a partition waits (R26, R96, R381). -/
def nextMail (c : Caravan) (steward : Nat) (k : Cls) (p : Nat) : MailMsg :=
  ⟨steward, k, p, (Table.getD c.mailSent steward 0 + 1) % 2 ^ 32⟩

/-- Post a message on the mailbox of a Steward. -/
def askStep (c : Caravan) (steward : Nat) (k : Cls) (p : Nat) : Caravan :=
  let m := nextMail c steward k p
  { c with mailbox := c.mailbox ++ [m], mailSent := Table.put c.mailSent steward m.seq }

/-- The work of a partition that a caravan holds, loaded or saved (R98). -/
def workOn (s : State) (cv p : Nat) : Option Work :=
  match (getCv s cv).work.filter (fun w => decide (w.part = p)) with
  | some w => some w
  | none => Table.get? (getPart s p).saved cv

/-- Does a work wait for a step: it has neither stopped nor issued END with nothing left in its chain (R227)? -/
def wantsStep (w : Work) : Bool := !w.stopped && (w.ending.isNone || decide (w.flow ≠ []))

/-- The Steward posts the step of every work of the partition that waits for one and has no message out: after a QUIESCE, an unproved
ABORT, a move to another Steward (R26, R96). -/
def repost (s : State) (p : Nat) : State :=
  (List.range 48).foldl (fun a cv =>
    match workOn a cv p with
    | none => a
    | some w =>
      let c := getCv a cv
      if wantsStep w = false ∨ stepRunsOn p c = true ∨ (c.mailbox.any (fun m => decide (m.part = p))) = true then a
      else setCv a cv (askStep c (getPart a p).steward (stepClass w) p)) s

/-- Every Steward posts what waits: after Doze, and after its own rebuild (R26, R382, R423). -/
def repostAll (s : State) : State := (Table.keys s.parts).foldl repost s

-- ------------------------------------------------------------------ creation

/-- The lowest free granule of a stack (R293). -/
def lowestFree (s : State) (stack : Nat) : Option Nat :=
  (List.range 56).find? (fun g => decide (getGran s (stack, g) = .free))

/-- Take k granules on a die, rotating over its stacks from stack index i (R293). -/
def takeGranules (p die : Nat) : Nat → Nat → State → List (Nat × Nat) → List (Nat × Nat) × State
  | 0, _, s, acc => (acc, s)
  | k + 1, i, s, acc =>
    let order := (List.range 4).map (fun j => (i + j) % 4)
    match order.find? (fun j => (lowestFree s (4 * die + j)).isSome) with
    | none => (acc, s)
    | some j =>
      match lowestFree s (4 * die + j) with
      | none => (acc, s)
      | some g => takeGranules p die k ((j + 1) % 4) (setGran s (4 * die + j, g) (.owned p)) (acc ++ [(4 * die + j, g)])

/-- Count the granules of a die in a state. -/
def countGran (s : State) (die : Nat) (f : GranState → Bool) : Nat :=
  sumNat ((stacksOf die).map (fun k => ((List.range 56).filter (fun g => f (getGran s (k, g)))).length))

/-- Free granules of a die (PDIR.FREE). -/
def freeGran (s : State) (die : Nat) : Nat := countGran s die (fun x => decide (x = .free))

/-- Is a granule being scrubbed? -/
def isScrubbing : GranState → Bool
  | .scrubbing _ => true
  | _ => false

/-- Granules of a die being scrubbed (PDIR.FREE). -/
def scrubGran (s : State) (die : Nat) : Nat := countGran s die isScrubbing

/-- Is a die lost: every stack of it unavailable (R386)? -/
def dieLost (s : State) (die : Nat) : Bool := s.rel.diesDown.getLsbD die || (stacksOf die).all (fun k => s.rel.lostStacks.getLsbD k)

/-- The Steward of partition n: n modulo 8, or the next one that is not retired (R25, R382). -/
def stewardOf (s : State) (n : Nat) : Nat :=
  ((((List.range 8).map (fun i => (n + i) % 8)).find? (fun i => !s.rel.stewards.getLsbD i))).getD (n % 8)

/-- Time in microseconds that the Keeper counts for what a partition's scrub has still to fill: 3 s for each 64 GiB, rounded up
(R35, R308). -/
def scrubTime (s : State) (p : Nat) : Nat := ((getPart s p).scrubMiB * 3000000 + 65535) / 65536

/-- Granules of a die that wait for the zero-fill of a partition whose scrub lasts at most t microseconds. A granule that a tamper
alarm left unfilled counts as a scrub of its own, of one GiB (R310; DEDUCED, assumption 123). -/
def freeWithin (s : State) (die t : Nat) : Nat :=
  countGran s die (fun x => match x with
    | .scrubbing p => decide ((if (getPart s p).phase = .scrubbing then scrubTime s p else 46) ≤ t)
    | _ => false)

/-- Does every die have enough granules once the scrubs of at most t microseconds have ended? -/
def enoughWithin (s : State) (g0 g1 t : Nat) : Bool :=
  decide (g0 ≤ freeGran s 0 + freeWithin s 0 t) && decide (g1 ≤ freeGran s 1 + freeWithin s 1 t)

/-- The Keeper's floor estimate of the time until enough of the granules now scrubbing are free on each die; 0 when all of them
would not be enough (R35). -/
def roomHint (s : State) (g0 g1 : Nat) : Nat :=
  match ((46 :: (Table.keys s.parts).map (scrubTime s)).filter (enoughWithin s g0 g1)).min? with
  | none => 0
  | some t => max 50 t

/-- PART_CREATE (R35, R267, R293, R310, R342): own checks, granules, nonce, and the new partition, with its DRBG instance where the seed
buffer serves it at once. -/
def execPartCreate (ref : CmdRef) (s : State) : Host.Outcome State Fault Refusal :=
  .next (withKeeper s ref 0x0101 (fun s t =>
    let p := t.desc.param 0 1
    let g0 := t.desc.param 3 1
    let g1 := t.desc.param 4 1
    if 63 < p ∨ 1 < t.desc.param 1 1 ∨ 1 < t.desc.param 2 1 then complete s t .range
    else if (getPart s p).phase = .live then complete s t .policyDenied
    else if (getPart s p).phase = .scrubbing then complete s t .retryLater (retryHint (max 50 (scrubTime s p)))
    else if g0 = 0 ∨ g1 = 0 then complete s t .range
    else if dieLost s 0 || dieLost s 1 then complete s t .range
    else if freeGran s 0 < g0 ∨ freeGran s 1 < g1 then complete s t .retryLater (retryHint (roomHint s g0 g1))
    else
      let d := drawOp s 64
      match d.1 with
      | (.ok, cell) =>
        let a := takeGranules p 0 g0 0 d.2 []
        let b := takeGranules p 1 g1 0 a.2 []
        let st := stewardOf s p
        let home := portOf (t.desc.param 1 1)
        let x : Partition := {
          phase := .live, home := home, latency := decide (t.desc.param 2 1 = 1), steward := st, gran0 := a.1, gran1 := b.1
          nonce := cell.take 16, serving := some home, cellsUsed := (getPart s p).cellsUsed }
        complete (instantiateOp (placeXts (setPart b.2 p x) p 0) p) t .ok { r0 := p + 256 * st }
      | (st, _) => complete d.2 t st))

-- ------------------------------------------------------------------ release

/-- Caravans whose SRAM holds the partition's state, one that is half-switched to it among them (R101, R308, R310). -/
def holders (s : State) (p : Nat) : List Nat :=
  (s.caravans.filter (fun e => decide (e.2.owner = some p) || e.2.work.any (fun w => decide (w.part = p))
    || e.2.switching.any (fun m => decide (m.1 = p)))).map (fun e => e.1)

/-- A caravan zeroed whole where its SRAM holds the partition's state; its admission duty, its turn, and the mailboxes and key slots
of other partitions apart (R308 steps 3 and 4). -/
def wipeCaravan (p : Nat) (c : Caravan) : Caravan :=
  let c1 := { c with
    mailbox := c.mailbox.filter (fun m => decide (m.part ≠ p))
    slots := c.slots.filter (fun e => decide (e.1.2.1 ≠ p)) }
  let c2 := if c.switching.any (fun m => decide (m.1 = p)) then { c1 with switching := none, half := none } else c1
  if c.owner = some p ∨ c.work.any (fun w => decide (w.part = p)) then
    { c2 with
      work := none, stepping := false, entryLeft := 15000, issued := 0, pages := 0, owner := none, switching := none, half := none
      twiddle := none, openBuf := [], sealBuf := [] }
  else c2

/-- Zero the partition's state on every caravan (R308 step 4), and drop its staged segments. -/
def wipeCaravans (s : State) (p : Nat) : State :=
  { s with caravans := Table.mapVals s.caravans (fun _ c =>
      let c1 := wipeCaravan p c
      { c1 with staged := c1.staged.filter (fun e => decide (fnPart e.1.fn ≠ some p)) }) }

/-- Set the state of a list of granules. -/
def setGrans (s : State) (l : List (Nat × Nat)) (x : GranState) : State := l.foldl (fun a g => setGran a g x) s

/-- Give back the cells of a list of events. -/
def freeEventCells (s : State) (p : Option Nat) (l : List Event) : State := l.foldl (fun a e => freeCells a p e.cells) s

/-- Crypto-erase and zeroing of a partition, steps 3 to 5 of R308: a new epoch, no keys, no round, no state on any caravan,
no DRBG; the granules wait for their zero-fill. -/
def eraseOp (s : State) (p : Nat) : State :=
  let x := getPart s p
  let s1 := freeEventCells (uninstantiate (wipeCaravans s p) p) (some p) x.events
  let y := getPart s1 p
  let s2 := setPart s1 p {
    phase := .scrubbing, home := x.home, latency := x.latency, steward := x.steward, gran0 := x.gran0, gran1 := x.gran1
    nonce := x.nonce, epoch := x.epoch + 1, counter := x.counter, serving := x.serving, cellsUsed := y.cellsUsed
    scrubMiB := 1024 * (x.gran0.length + x.gran1.length), release := x.release }
  let s3 := placeXts (dropXts (dropXts s2 p x.epoch) p (x.epoch - 1)) p (x.epoch + 1)
  setGrans s3 ((x.gran0 ++ x.gran1).filter (fun g => decide (getGran s g ≠ .unavailable))) (.scrubbing p)

/-- Complete every waiting QUIESCE of a list whose partition has no running step (R275). -/
def settleQuiesceList : List Taken → State → State
  | [], s => s
  | t :: ts, s =>
    if decide (t.desc.opcode = 0x0F03) && t.waiting && (match t.part with
        | none => true
        | some p => !stepRunning s p)
    then settleQuiesceList ts (complete s t .ok)
    else settleQuiesceList ts s

/-- Steps 1 to 5 of a release begin once the partition's running steps have ended (R36, R246, R308 step 1). -/
def settleRelease (s : State) (p : Nat) : State :=
  if (getPart s p).erasing ∧ stepRunning s p = false then eraseOp s p else s

/-- A step has ended: the QUIESCE commands that waited for it complete, and the releases that waited for it go on. -/
def settleQuiesce (s : State) : State :=
  (Table.keys s.parts).foldl settleRelease (settleQuiesceList s.cmd.taken s)

/-- The Keeper accepts a release: the release record names the caravans whose SRAM holds the partition's state, the partition is
scrubbing, and nothing of it starts a step again; the erasure waits for the running steps (R36, R307, R310). -/
def beginRelease (s : State) (p : Nat) : State :=
  let x := getPart s p
  settleRelease (setPart s p { x with
    phase := .scrubbing, erasing := true, release := holders s p, scrubMiB := 1024 * (x.gran0.length + x.gran1.length) }) p

/-- PART_RELEASE (R307, R308, R310): commands taken for the partition end with SCRUBBING, but for a FENCE, which does not act on it, and a
PART.CREATE, which has its own status; the partition is crypto-erased once its running steps have ended, and the command waits for the
zero-fill. -/
def execPartRelease (ref : CmdRef) (s : State) : Host.Outcome State Fault Refusal :=
  .next (withKeeper s ref 0x0102 (fun s t =>
    let p := t.desc.param 0 1
    if (getPart s p).phase = .absent then complete s t .policyDenied
    else if (getPart s p).phase = .scrubbing then complete s t .scrubbing
    else
      let s1 := updTaken s { t with waiting := true }
      let ending := s1.cmd.taken.filter (fun x =>
        decide (x.part = some p ∧ x.order ≠ t.order ∧ x.desc.opcode ≠ 0x0F01 ∧ x.desc.opcode ≠ 0x0101))
      beginRelease (completeAll ending .scrubbing s1) p))

/-- Granules that still wait for a partition's zero-fill. -/
def unfilled (s : State) (p : Nat) : List (Nat × Nat) := (s.hbm.gran.filter (fun e => decide (e.2 = .scrubbing p))).map (fun e => e.1)

/-- SCRUB_FILL_DONE (R308 steps 6 and 7): the granules are free again, the partition is gone, PART.RELEASE completes. A tamper
lock stops the fill; what it left unfilled is filled after the next boot (R310). -/
def execScrubFillDone (p : Nat) (s : State) : Host.Outcome State Fault Refusal :=
  let x := getPart s p
  .next (if s.keeper.locked ∨ x.erasing then s
    else if x.phase ≠ .scrubbing then setGrans s (unfilled s p) .free
    else
      let s1 := setGrans s ((x.gran0 ++ x.gran1).filter (fun g => decide (getGran s g = .scrubbing p))) .free
      let s2 := dropXts (setPart s1 p { cellsUsed := x.cellsUsed }) p x.epoch
      match s2.cmd.taken.find? (fun t => decide (t.desc.opcode = 0x0102 ∧ t.part = some p) && t.waiting) with
      | none => s2
      | some t => complete s2 t .ok)

-- ------------------------------------------------------------------ failover and function resets

/-- The ADMITs of a partition submitted through a port whose envelope is not fully received (R277 step 3). -/
def cutAdmits (s : State) (p : Nat) (port : Port) : List Taken :=
  s.cmd.taken.filter (fun t =>
    decide (t.desc.opcode = 0x0301 ∧ t.ref.fn = .vf port p) && !envelopeReceived (getPart s p) t.ref)

/-- A command ends without a completion: its cells are free and nothing of it remains (R277 step 3). -/
def abandon (s : State) (p : Nat) (t : Taken) : State :=
  let s1 := freeCells { s with cmd := { s.cmd with taken := s.cmd.taken.filter (fun x => decide (x.order ≠ t.order)) } }
    (some p) t.cells
  dropFlight s1 p t.ref false

/-- Buffers registered through a lost port are void (R278). -/
def voidBuffers (r : Round) (port : Port) : Round :=
  { r with
    outbufs := r.outbufs.filter (fun e => decide (e.2.2.2 ≠ port))
    share := { r.share with outbuf := r.share.outbuf.filter (fun b => decide (b.2.2 ≠ port)) } }

/-- A partition leaves a port: envelopes in flight there are cut, buffers there are void, and the function's failover bit
is set (R277, R278, R282). -/
def leavePort (s : State) (p : Nat) (port : Port) : State :=
  let s1 := (cutAdmits s p port).foldl (fun a t => abandon a p t) s
  let x := getPart s1 p
  settleFences (setFnError (setPart s1 p { x with round := x.round.map (fun r => voidBuffers r port) }) (.vf port p) 4)

/-- Service moves to a port, with a PORT event that carries it and the cause (R263, R277). -/
def moveService (s : State) (p : Nat) (target : Port) (cause : Nat) : State :=
  let s1 := match (getPart s p).serving with
    | none => s
    | some old => leavePort s p old
  addEvent (setPart s1 p { getPart s1 p with serving := some target }) p
    { kind := .port, status := .ok, result1 := BitVec.ofNat 64 (portNat target + 256 * cause) }

/-- A port is lost to a partition that it serves: service moves while auto_failover is 1, and otherwise the partition has
no serving function (R277). Each PF has a CMD.FAILOVER_CFG of its own, and that of the lost port decides (DESIGN CHOICE, assumption 144). -/
def losePort (s : State) (p : Nat) (port : Port) (cause : Nat) : State :=
  if (getPart s p).phase = .absent ∨ (getPart s p).serving ≠ some port then s
  else if (getPort s port).autoFailover then moveService s p (otherPort port) cause
  else
    let s1 := leavePort s p port
    setPart s1 p { getPart s1 p with serving := none }

/-- PORT_FAILOVER (R277): service moves to the named port; naming the port that serves does nothing. -/
def execPortFailover (ref : CmdRef) (s : State) : Host.Outcome State Fault Refusal :=
  .next (withCmd s ref 0x0103 (fun t =>
    match t.part with
    | none => complete s t .policyDenied
    | some p =>
      if 1 < t.desc.param 1 1 then complete s t .range
      else if (getPart s p).serving = some (portOf (t.desc.param 1 1)) then complete s t .ok
      else complete (moveService s p (portOf (t.desc.param 1 1)) 4) t .ok))

/-- What a CQ still holds for a function that can no longer be written becomes ORPHAN events or is discarded (R279). -/
def orphanHeld (s : State) (f : Fn) : State :=
  let s1 := (getFn s f).cqs.foldl (fun a e =>
    let held := (getCq a f e.1).held
    held.foldl (fun b c => orphan b f c) (setCq a f e.1 { getCq a f e.1 with held := [] })) s
  match fnPart f with
  | none => s1
  | some p => drainReady p 32 s1

/-- A function's registers at their reset values, its enabled queues with error_cause 5; installed IDE keys stay (R279). -/
def resetFnRegs (x : FnState) : FnState :=
  { sqs := (x.sqs.filter (fun e => e.2.enable)).map (fun e => (e.1, { error := true, cause := 5 }))
    cqs := (x.cqs.filter (fun e => e.2.enable || !e.2.held.isEmpty)).map
      (fun e => (e.1, { error := e.2.enable, cause := if e.2.enable then 5 else 0, held := e.2.held }))
    ideKeys := x.ideKeys }

/-- An FLR of one function (R279): its queues are disabled, and the cells of the written entries are free again. -/
def flrFn (s : State) (f : Fn) : State :=
  let s1 := (getFn s f).cqs.foldl (fun a e => freePosted a f e.2.posted) s
  setFn s1 f (resetFnRegs (getFn s1 f))

/-- FLR_VF (R277 cause 3, R279). -/
def execFlrVf (port : Port) (n : Nat) (s : State) : Host.Outcome State Fault Refusal :=
  .next (orphanHeld (losePort (flrFn s (.vf port n)) n port 3) (.vf port n))

/-- An FLR of a PF: the PF, every VF of its port, and failover of the partitions that the port serves, with a cause
(R277, R279). -/
def flrPort (s : State) (port : Port) (cause : Nat) : State :=
  let s1 := (List.range 64).foldl (fun a n => flrFn a (.vf port n)) (flrFn s (.pf port))
  let s2 := (List.range 64).foldl (fun a n => losePort a n port cause) s1
  (List.range 64).foldl (fun a n => orphanHeld a (.vf port n)) (orphanHeld s2 (.pf port))

/-- FLR_PF (R279): CMD.LOCK and the fields it guards keep their values, since they belong to the port. -/
def execFlrPf (port : Port) (s : State) : Host.Outcome State Fault Refusal := .next (flrPort s port 2)

/-- The data link of a port is down: CMD.ERROR.link_down, failover, and what cannot be written (R277, R279, R283). -/
def linkDownOp (s : State) (port : Port) (cause : Nat) : State :=
  let x := getPort s port
  let s1 := setPort s port { x with linkUp := false, vc1 := false, speed := 0, width := 0 }
  let s2 := if x.linkUp then setFnError s1 (.pf port) 4 else s1
  let s3 := (List.range 64).foldl (fun a n => losePort a n port cause) s2
  (List.range 64).foldl (fun a n => orphanHeld a (.vf port n)) (orphanHeld s3 (.pf port))

/-- LINK_DOWN (R277 cause 1). -/
def execLinkDown (port : Port) (s : State) : Host.Outcome State Fault Refusal := .next (linkDownOp s port 1)

/-- PERST_ASSERT (R279): as an FLR of the port's PF, and the link goes down; ignored while PWRGOOD is low (R440). -/
def execPerstAssert (port : Port) (s : State) : Host.Outcome State Fault Refusal :=
  .next (if s.pins.pwrgood = false then s
    else
      let s1 := flrPort s port 2
      let s2 := linkDownOp s1 port 2
      setPort s2 port { getPort s2 port with perst := true, training := false })

-- ------------------------------------------------------------------ FENCE and QUIESCE

/-- FENCE (R276): completes at once when nothing it covers is left, and otherwise waits. -/
def execFence (ref : CmdRef) (s : State) : Host.Outcome State Fault Refusal :=
  .next (withCmd s ref 0x0F01 (fun t =>
    if s.cmd.taken.any (fenceCovers t) then updTaken s { t with waiting := true } else complete s t .ok))

/-- QUIESCE_ENTER (R275): no new step for the partition; the command completes when every running step has ended. -/
def execQuiesceEnter (ref : CmdRef) (s : State) : Host.Outcome State Fault Refusal :=
  .next (withCmd s ref 0x0F03 (fun t =>
    match t.part with
    | none => s
    | some p =>
      if t.desc.param 0 1 % 2 = 0 then s
      else settleQuiesce (updTaken (setPart s p { getPart s p with quiesced := true }) { t with waiting := true })))

/-- QUIESCE_LEAVE (R275): the state is lifted and the command completes at once. -/
def execQuiesceLeave (ref : CmdRef) (s : State) : Host.Outcome State Fault Refusal :=
  .next (withCmd s ref 0x0F03 (fun t =>
    match t.part with
    | none => s
    | some p =>
      if t.desc.param 0 1 % 2 = 1 then s
      else complete (repost (setPart s p { getPart s p with quiesced := false }) p) t .ok))

-- ------------------------------------------------------------------ keys

/-- A key handle: kind in [31:24], index in [23:0] (R291). -/
def keyHandle (kind index : Nat) : W32 := BitVec.ofNat 32 (kind % 256 * 2 ^ 24 + index % 2 ^ 24)

/-- The kind of a handle. -/
def handleKind (h : W32) : Nat := h.toNat / 2 ^ 24

/-- The index of a handle. -/
def handleIndex (h : W32) : Nat := h.toNat % 2 ^ 24

/-- The handle of the round's key: the round_id's low 24 bits (R291). -/
def roundKeyHandle (id : W32) : W32 := keyHandle 0x83 id.toNat

/-- The handle of K_img: round_id low 16 bits, image_kind in [23:16] (R291). -/
def imgKeyHandle (id : W32) (kind : Nat) : W32 := keyHandle 0x82 (id.toNat % 2 ^ 16 + 2 ^ 16 * kind)

/-- The image kinds whose K_img derives from a handle of the round's descriptor: kinds 0, 2 and 3 from the owner key, kind 1
from the distribution key (R215, R216). -/
def imgKindsOf (d : RoundDesc) (h : W32) : List Nat :=
  (if d.ownerKey = h then [0, 2, 3] else []) ++ (if d.distKey = h then [1] else [])

/-- Does a round's proof profile name a verify or peer handle, and has the round not left UNMASKING (R302)? -/
def profileUses (x : Partition) (names : W32 → Bool) (h : W32) : Bool :=
  match x.round with
  | none => false
  | some r => decide (r.desc.mode = 1) && decide (r.state = .opened ∨ r.state = .closing ∨ r.state = .unmasking) && names h

/-- Constants of the round's itinerary set (R247): the body of the constant of a kind and id. -/
def constBody (t : ItinSet) (kind id : Nat) : Option Bytes :=
  (t.consts.find? (fun c => decide (c.1 = kind ∧ c.2.1 = id))).map (fun c => c.2.2)

/-- The itinerary set that a descriptor's digest names, with its slot (R47). -/
def namedItin (x : Partition) (digest : Bytes) : Option (Nat × ItinSet) := x.itins.find? (fun e => decide (e.2.digest = digest))

/-- The proof profile of the round's itinerary set: constant kind 2, id 0 (R166, R247). -/
def proofProfile (x : Partition) (r : Round) : Option Bytes :=
  (namedItin x r.desc.itinDigest).bind (fun e => constBody e.2 2 0)

/-- Handle under which the proof profile names the key shared with peer b: peer_key_base + b (R166). -/
def peerHandle (profile : Bytes) (b : Nat) : W32 := BitVec.ofNat 32 (field profile 0x14 4 + b)

/-- Does the proof profile of the round's set name a handle: the verify key, or the key of a peer other than this device
(R166)? -/
def proofNames (x : Partition) (h : W32) : Bool :=
  match x.round with
  | none => false
  | some r =>
    match proofProfile x r with
    | none => false
    | some b => decide (field b 0x10 4 = h.toNat)
        || (List.range 8).any (fun i => decide (i < r.desc.aggCount ∧ i ≠ r.desc.aggIndex ∧ peerHandle b i = h))

/-- Is a DRAINING key still in use (R302)? -/
def drainInUse (s : State) (p : Nat) (k : DrainKey) : Bool :=
  let x := getPart s p
  match handleKind k.handle with
  | 0x81 => s.cmd.taken.any (fun t =>
      decide (t.part = some p ∧ t.order < k.bound) && !fnIsPf t.ref.fn && (commandRow t.desc.opcode).any isCritical)
  | 0x82 => decide (roundStateOf s p = .finishing) && decide ((roundIdOf s p).toNat % 2 ^ 16 = k.handle.toNat % 2 ^ 16)
  | 0x83 => stepRunning s p && decide (roundIdOf s p = k.round)
  | _ => profileUses x (proofNames x) k.handle && decide (roundIdOf s p = k.round)

/-- KEY_DRAIN_END (R301): a DRAINING key that nothing uses any longer is zeroed, and a KEY event carries its handle. -/
def execKeyDrainEnd (p : Nat) (handle : W32) (s : State) : Host.Outcome State Fault Refusal :=
  let x := getPart s p
  .next (match x.drains.find? (fun k => decide (k.handle = handle)) with
    | none => s
    | some k =>
      if drainInUse s p k then s
      else keyEvent (setPart s p { x with drains := x.drains.filter (fun d => decide (d ≠ k)) }) p handle)

/-- The mark of a written byte of a work space: its line carries the current epoch's bit, or that of the epoch before it (R20, R297). -/
def currentMark : Byte := 1
def oldMark : Byte := 2

/-- A tile copy whose written lines all carry the old epoch's bit, or all the current one's. -/
def markCopy (old : Bool) (c : TileCopy) : TileCopy := { c with old0 := old, old1 := old }

/-- The metadata words of a partition's written lines, as a rotation leaves them behind, or as the sweep has rewritten them (R297, R299): the
tiles' banks and the work spaces (DESIGN CHOICE, assumption 84). -/
def markLines (old : Bool) (x : Partition) : Partition :=
  { x with
    spaces := x.spaces.map (fun e =>
      if 16 ≤ e.1.1 then (e.1, e.2.map (fun c => (c.1, if old then oldMark else currentMark))) else e)
    round := x.round.map (fun r => { r with tiles := Table.mapVals r.tiles (fun _ t =>
      { t with prim := markCopy old t.prim, mirr := markCopy old t.mirr }) }) }

/-- The next epoch's key is placed in the controllers and becomes current, and steps of the partition may run again (R36, R298). -/
def rotateKey (s : State) (p : Nat) (t : Taken) : State :=
  let x := getPart s p
  let s1 := setPart s p { markLines true x with epoch := x.epoch + 1, oldLive := true, keeperHold := false }
  complete (repost (placeXts s1 p (x.epoch + 1)) p) t .ok
    { r0 := (x.epoch + 1) % 2 ^ 32 }

/-- KEY_ROTATE (R36, R298): KEY_DRAINING while the earlier epoch is live. Otherwise the Keeper waits until the running steps of the
partition have ended, and the next epoch becomes current at the row that finds none. -/
def execKeyRotate (ref : CmdRef) (s : State) : Host.Outcome State Fault Refusal :=
  .next (withKeeper s ref 0x0701 (fun s t =>
    match t.part with
    | none => s
    | some p =>
      let x := getPart s p
      if x.oldLive then complete s t .keyDraining
      else if stepRunning s p then updTaken (setPart s p { x with keeperHold := true }) { t with begun := true }
      else rotateKey s p t))

/-- REENCRYPTION_SWEEP_END (R297, R299, R300): the sweep has rewritten every line that still carried the old epoch's bit, every count is zero,
and the old epoch is destroyed, with a KEY event of handle 0x84 and the old epoch. -/
def execReencryptionSweepEnd (p : Nat) (s : State) : Host.Outcome State Fault Refusal :=
  let x := getPart s p
  .next (if x.oldLive = false ∨ x.phase ≠ .live then s
    else keyEvent (dropXts (setPart s p { markLines false x with oldLive := false }) p (x.epoch - 1)) p (keyHandle 0x84 (x.epoch - 1)))

/-- A replaced owner or distribution key's K_imgs of a round in FINISHING move to DRAINING (R292, R302). -/
def drainImgKeys (x : Partition) (h : W32) : List DrainKey :=
  match x.round with
  | none => []
  | some r =>
    if r.state ≠ .finishing then []
    else ((imgKindsOf r.desc h).filterMap (fun k => (Table.get? r.finish.imgKeys k).map (fun v =>
      { handle := imgKeyHandle r.desc.roundId k, value := v, bound := 0 }))).filter
        (fun d => !(x.drains.any (fun e => decide (e.handle = d.handle))))

/-- The round that a partition's replaced key still serves: the current one. -/
def currentId (x : Partition) : W32 :=
  match x.round with
  | none => 0
  | some r => r.desc.roundId

/-- The keys that a KEY.INSTALL over a present handle moves to DRAINING: a verify or peer key that the round uses, which one installed since
is not (R292). -/
def installDrains (x : Partition) (h : W32) : List DrainKey :=
  match Table.get? x.keys h with
  | none => []
  | some k =>
    if handleKind h ≤ 2 then drainImgKeys x h
    else if profileUses x (proofNames x) h && !(x.drains.any (fun d => decide (d.handle = h ∧ d.round = currentId x))) then
      [{ handle := h, value := k.value, bound := 0, round := currentId x }]
    else []

/-- KEY_INSTALL (R292): the session record's key is installed at its handle. -/
def execKeyInstall (ref : CmdRef) (buf : Bytes) (s : State) : Host.Outcome State Fault Refusal :=
  .next (withKeeper s ref 0x0702 (fun s t =>
    match t.part with
    | none => s
    | some p =>
      let x := getPart s p
      match openRecord x.session t.desc.counter.toNat 2 (buf.take t.desc.length) with
      | .error st => complete s t st
      | .ok o =>
        let c := o.content
        let h := BitVec.ofNat 32 (field c 4 4)
        let kind := field c 0 1
        if c.length ≠ 48 ∨ kind < 1 ∨ 4 < kind ∨ zeros c 1 3 = false ∨ field c 8 4 ≠ 32 ∨ zeros c 12 4 = false
            ∨ handleKind h ≠ kind ∨ field c 4 4 ≠ t.desc.param 0 4 then complete s t .malformed
        else if 255 < handleIndex h then complete s t .range
        else
          let ds := installDrains x h
          complete (setPart s p { x with keys := Table.put x.keys h { value := slice c 16 32 }, drains := x.drains ++ ds })
            t .ok { r1 := ds.length }))

end Sys2Proof.Machine
end

