-- ==== Sys2Proof/Machine/Layout.lean ====
section
/-! DEFINITION. Tiles, regions and digests of a round: the geometry of R37, R38, R50, R51, R89, the descriptor of R47 and
its checks (R48, R49, R141, R166, R167, R181, R190, R199, R200, R249, R401), and the digest of R221. -/

namespace Sys2Proof.Machine

-- ------------------------------------------------------------------ numbers

/-- b ^ e mod m by the low n bits of e. -/
def powModBits : Nat → Nat → Nat → Nat → Nat → Nat
  | 0, _, _, m, acc => acc % m
  | n + 1, b, e, m, acc => powModBits n (b * b % m) (e / 2) m (if e % 2 = 1 then acc * b % m else acc)

/-- b ^ e mod m, for exponents below 2^160. -/
def powMod (b e m : Nat) : Nat := powModBits 160 (b % m) e m 1

/-- The inverse modulo a prime. -/
def invMod (p a : Nat) : Nat := powMod a (p - 2) p

/-- Halve a number while it is even, at most n times: how often, and what is left. -/
def splitTwos : Nat → Nat → Nat → Nat × Nat
  | 0, d, r => (r, d)
  | n + 1, d, r => if d % 2 = 0 ∧ d ≠ 0 then splitTwos n (d / 2) (r + 1) else (r, d)

/-- Does one of x, x^2, x^4, … (k of them) equal m - 1 modulo m? -/
def hitsMinusOne : Nat → Nat → Nat → Bool
  | 0, _, _ => false
  | k + 1, x, m => decide (x = m - 1) || hitsMinusOne k (x * x % m) m

/-- One round of the Miller-Rabin test to a base. -/
def millerRabin (p a : Nat) : Bool :=
  let s := splitTwos 130 (p - 1) 0
  let x := powMod a s.2 p
  decide (a % p = 0) || decide (x = 1) || hitsMinusOne s.1 x p

/-- The bases of the primality test: the primes below 100 (PRESUMED, assumption 23). -/
def primeBases : List Nat :=
  [2, 3, 5, 7, 11, 13, 17, 19, 23, 29, 31, 37, 41, 43, 47, 53, 59, 61, 67, 71, 73, 79, 83, 89, 97]

/-- Is a number below 2^128 prime (R48 check 3, R179)? -/
def isPrime (p : Nat) : Bool := decide (2 ≤ p) && (decide (p = 2) || decide (p % 2 = 1)) && primeBases.all (millerRabin p)

/-- The F64 prime (R107). -/
def f64Prime : Nat := 2 ^ 64 - 2 ^ 32 + 1

/-- Bits a number takes: its bit length. -/
def bitLenAux : Nat → Nat → Nat
  | 0, _ => 0
  | n + 1, v => if v = 0 then 0 else 1 + bitLenAux n (v / 2)

/-- The bit length of a number below 2^512. -/
def bitLen (v : Nat) : Nat := bitLenAux 512 v

/-- ⌈log2 n⌉, 0 for n ≤ 1 (R182, R188). -/
def ceilLog2 (n : Nat) : Nat := if n ≤ 1 then 0 else bitLen (n - 1)

-- ------------------------------------------------------------------ fp32 encodings as the descriptor checks them

/-- A finite positive fp32 encoding. -/
def fpPositive (x : W32) : Bool := decide (0 < x.toNat ∧ x.toNat < 0x7F800000)

/-- Finite, from 0 (of either sign) to below 1 (R199). -/
def fpUnit (x : W32) : Bool := decide (x.toNat < 0x3F800000) || decide (x.toNat = 0x80000000)

/-- Zero of either sign, or a finite value from 2^-8 to 2^40 (R199). -/
def fpSigma (x : W32) : Bool :=
  decide (x.toNat = 0) || decide (x.toNat = 0x80000000) || decide (0x3B800000 ≤ x.toNat ∧ x.toNat ≤ 0x53800000)

-- ------------------------------------------------------------------ tiles

/-- Bytes of an element's lanes: 4, 8 or 16 (R47, R116). -/
def laneBytes (fmt : Nat) : Nat := 4 * 2 ^ fmt

/-- Elements of a full tile, shortened to 3,072 short rows (R89). -/
def tileElems (d : RoundDesc) : Nat :=
  let t := 524288 / 2 ^ d.laneFormat
  if d.rowLength < ceilDiv t 3072 then 3072 * d.rowLength else t

/-- Tiles of the round (R89). -/
def tileCount (d : RoundDesc) : Nat := ceilDiv d.vectorLength (tileElems d)

/-- First element of a tile. -/
def tileFirst (d : RoundDesc) (t : Nat) : Nat := t * tileElems d

/-- Elements of a tile: the last one is short (R89). -/
def tileLen (d : RoundDesc) (t : Nat) : Nat := min ((t + 1) * tileElems d) d.vectorLength - tileFirst d t

/-- Bytes of one bank of a tile, in whole 256-byte slots (R118). -/
def bankBytes (d : RoundDesc) (t : Nat) : Nat := ceilDiv (tileLen d t * laneBytes d.laneFormat) 256 * 256

/-- The tiles this package holds: all of them, or a circuit member's range (R400). -/
def ownTiles (r : Round) : List Nat :=
  let n := tileCount r.desc
  match r.circuit with
  | none => List.range n
  | some c =>
    let first := (c.members.getD c.self (0, 0, 0)).2.2
    let last := match c.members[c.self + 1]? with
      | none => n
      | some m => m.2.2
    (List.range n).filter (fun t => decide (first ≤ t ∧ t < last))

/-- A tile of a round. -/
def getTile (r : Round) (t : Nat) : Tile := Table.getD r.tiles t {}

/-- Set a tile of a round. -/
def setTile (r : Round) (t : Nat) (x : Tile) : Round := { r with tiles := Table.put r.tiles t x }

/-- The committed bank of a copy. -/
def TileCopy.committed (c : TileCopy) : List Nat := if c.bank then c.bank1 else c.bank0

/-- A copy with its other bank written and made the committed one (R120); its lines carry the bit of the current epoch (R297). -/
def TileCopy.commit (c : TileCopy) (data : List Nat) : TileCopy :=
  if c.bank then { c with bank0 := data, old0 := false, bank := false } else { c with bank1 := data, old1 := false, bank := true }

/-- Bank b of a copy. -/
def TileCopy.bankOf (c : TileCopy) (b : Bool) : List Nat := if b then c.bank1 else c.bank0

/-- An element of a bank: a bank that was never written reads as zeros (R295). -/
def bankElem (b : List Nat) (i : Nat) : Nat := b.getD i 0

/-- A bank as a list of its tile's elements. -/
def bankFull (d : RoundDesc) (t : Nat) (b : List Nat) : List Nat := (List.range (tileLen d t)).map (bankElem b)

/-- The directory entry of a copy (R119). -/
def dirEntry (c : TileCopy) : Bytes :=
  toLe 16 (c.watermark % 2 ^ 48 + 2 ^ 48 * bn c.bank + 2 ^ 49 * c.phase.code + 2 ^ 64 * (c.batch % 2 ^ 32))

-- ------------------------------------------------------------------ lines of an old epoch (R20, R297)

/-- Lines of a tile whose metadata words carry the old epoch bit, in the two banks of its two copies. -/
def tileOldLines (d : RoundDesc) (t : Nat) (x : Tile) : Nat :=
  let n := bankBytes d t / 64
  sumNat ([(x.prim.bank0, x.prim.old0), (x.prim.bank1, x.prim.old1), (x.mirr.bank0, x.mirr.old0), (x.mirr.bank1, x.mirr.old1)].map (fun e =>
    if e.2 && !e.1.isEmpty then n else 0))

/-- Lines of a work space that carry the old epoch bit: every byte written there was written before the rotation. -/
def spaceOldLines (m : Memory) : Nat :=
  ((sortNat (m.map (fun c => c.1 / 64))).filter (fun l => m.all (fun c => decide (c.1 / 64 ≠ l ∨ c.2 = oldMark)))).length

/-- Lines of a partition that carry the old epoch bit, over its eight controllers: where its structures lie is not stated, so neither is
each controller's own share (R297; DESIGN CHOICE, assumption 84). -/
def oldLineCount (x : Partition) : Nat :=
  sumNat ((x.spaces.filter (fun e => decide (16 ≤ e.1.1))).map (fun e => spaceOldLines e.2))
    + (match x.round with
      | none => 0
      | some r => sumNat (r.tiles.map (fun e => tileOldLines r.desc e.1 e.2)))

-- ------------------------------------------------------------------ what a round produces (R198)

/-- owner_sees_total (R47). -/
def seesTotal (d : RoundDesc) : Bool := d.flags.getLsbD 0

/-- Does the finish apply the optimiser to weights (R198, R199)? -/
def needsWeights (d : RoundDesc) : Bool :=
  decide (d.mode = 0) || (decide (d.mode = 1) && seesTotal d && decide (d.aggIndex = 0))

/-- Does the finish use dp_sigma (R199)? -/
def usesSigma (d : RoundDesc) : Bool := decide (d.mode = 0) || (decide (d.mode = 1) && decide (d.aggIndex = 0))

/-- Image kinds in writing order (R198). -/
def imagesOf (d : RoundDesc) : List Nat :=
  if d.mode = 0 then [1, 0]
  else if d.mode = 1 then (if seesTotal d then (if d.aggIndex = 0 then [1, 0] else []) else [2])
  else [3]

/-- Words of a weight record per element: 1, 2 or 3 (R211). -/
def weightParts (optimiser : Nat) : Nat := optimiser + 1

/-- The prime of a share-sum round (R47). -/
def roundPrime (d : RoundDesc) : Nat := if d.fieldPrime = 0 then f64Prime else d.fieldPrime

/-- The modulus of the round's ledger domain: 2^k or the field prime (R107). In cipher-sum each limb has its own. -/
def ledgerModulus (d : RoundDesc) : Nat := if d.mode = 0 then 2 ^ d.ringK else roundPrime d

-- ------------------------------------------------------------------ envelopes (R51, R38)

/-- Bits one element takes in the payload: 128 for two-word field elements (R108). -/
def elemBits (d : RoundDesc) : Nat := if d.mode = 1 ∧ 2 ^ 64 < roundPrime d then 128 else d.packedBits

/-- Bytes of the update (R51, R109, R165). -/
def updateBytes (d : RoundDesc) : Nat := ceilDiv (d.vectorLength * elemBits d) 8

/-- The proof profile's fields (R166). -/
structure Proof where
  kind  : Nat
  log2m : Nat
  chunk : Nat
  root  : Nat
  verify : W32
  peers : W32
  deriving DecidableEq, Repr

/-- Read a proof profile. -/
def parseProof (b : Bytes) : Proof :=
  { kind := field b 2 1, log2m := field b 3 1, chunk := field b 4 4, root := field b 8 8,
    verify := BitVec.ofNat 32 (field b 0x10 4), peers := BitVec.ofNat 32 (field b 0x14 4) }

/-- Number of coefficients of the proof polynomial: D(M - 1) + 1 (R168). -/
def proofCoeffs (d : RoundDesc) (q : Proof) : Nat := (2 * d.boundB + 1) * (2 ^ q.log2m - 1) + 1

/-- Bytes of the proof share: none with proof_kind 0 (R168). -/
def proofBytes (d : RoundDesc) (q : Option Proof) : Nat :=
  match q with
  | none => 0
  | some q => if q.kind = 1 then 16 + 16 * d.aggCount + 8 * (q.chunk + proofCoeffs d q) else 0

/-- The proof of a share-sum round of a partition. -/
def proofOf (x : Partition) (r : Round) : Option Proof :=
  if r.desc.mode = 1 then (proofProfile x r).map parseProof else none

/-- payload_length (R51, R165). -/
def payloadLen (d : RoundDesc) (q : Option Proof) : Nat := updateBytes d + proofBytes d q

/-- segment_count (R51). -/
def segCount (payload : Nat) : Nat := ceilDiv payload 1048576

/-- The tile that holds a segment's first element; bytes past the update count with the last tile (R38). -/
def segTile (d : RoundDesc) (i : Nat) : Nat := min (i * 8388608 / elemBits d / tileElems d) (tileCount d - 1)

/-- Home die of a segment (R38). -/
def segDie (d : RoundDesc) (i : Nat) : Nat := segTile d i % 2

/-- The last tile that a segment's elements reach. -/
def segLastTile (d : RoundDesc) (i : Nat) : Nat :=
  min (((i + 1) * 8388608 - 1) / elemBits d / tileElems d) (tileCount d - 1)

/-- Segments that this package receives: all, or those that hold an element of a member's range (R403). -/
def ownSegs (r : Round) (q : Option Proof) : List Nat :=
  let all := List.range (segCount (payloadLen r.desc q))
  match r.circuit with
  | none => all
  | some _ => all.filter (fun i => (ownTiles r).any (fun t => decide (segTile r.desc i ≤ t ∧ t ≤ segLastTile r.desc i)))

/-- Payload bytes of segment i. -/
def segBytes (payload i : Nat) : Nat := min 1048576 (payload - i * 1048576)

/-- Bytes of an envelope's journal part on a die; no part where no segment falls (R232). -/
def partBytes (r : Round) (q : Option Proof) (die : Nat) : Nat :=
  let l := (ownSegs r q).filter (fun i => decide (segDie r.desc i = die))
  if l = [] then 0 else 128 + sumNat (l.map (fun i => segBytes (payloadLen r.desc q) i + 16))

/-- Length of the envelope that an ADMIT carries: header, encapsulated key, payload and tags (R51, R53 check 2). -/
def envelopeLen (r : Round) (q : Option Proof) (kem : Nat) : Nat :=
  let p := payloadLen r.desc q
  32 + (if kem = 0 then 32 else 1088) + sumNat ((ownSegs r q).map (fun i => segBytes p i + 16))

-- ------------------------------------------------------------------ regions (R50)

/-- Bytes of a partition's granules on a die that a stack failure has not taken (R50, R384). -/
def granuleBytes (s : State) (p die : Nat) : Nat :=
  let x := getPart s p
  ((if die = 0 then x.gran0 else x.gran1).filter (fun g => decide (getGran s g = .owned p))).length * 2 ^ 30

/-- Bytes that a round's regions other than the journal take on a die: the context area (R98), the primary tile records
and the other die's mirrors, the client index and guestbook, and the weight records homed there (R37, R50, R211, R375;
DEDUCED, assumption 24: index and guestbook stand on both dies). Room for weight records is counted in every round, as R50 has it. -/
def fixedBytes (r : Round) (die : Nat) : Nat :=
  let d := r.desc
  let home := (ownTiles r).filter (fun t => decide (t % 2 = die))
  24 * 4768 * 1024 + sumNat ((ownTiles r).map (fun t => 2 * bankBytes d t)) + 8 * d.nMax + ceilDiv d.nMax 8
    + sumNat (home.map (fun t => tileLen d t * 4 * weightParts d.optimiser))

/-- Journal space on a die: all that is left over (R50). -/
def journalCap (s : State) (p : Nat) (r : Round) (die : Nat) : Nat := granuleBytes s p die - fixedBytes r die

/-- The port whose Porters write what the partition exports: the serving function's, which is the home port until a failover (R24,
R220, R277). -/
def outPort (x : Partition) : Port := x.serving.getD x.home

/-- The staging slot of a tile: its elements at the weight bytes of an element (R201). -/
def stagingBytes (d : RoundDesc) (t : Nat) : Nat := if needsWeights d then tileLen d t * 4 * weightParts d.optimiser else 0

/-- The largest staging slot that a die's tiles need. -/
def stagingMax (r : Round) (die : Nat) : Nat :=
  maxNat (((ownTiles r).filter (fun t => decide (t % 2 = die))).map (stagingBytes r.desc))

/-- Check 7 of R48: each die holds its regions, four envelope parts and two staging slots (R50, R201). -/
def regionsFit (s : State) (p : Nat) (r : Round) (q : Option Proof) : Bool :=
  [0, 1].all (fun die =>
    decide (fixedBytes r die ≤ granuleBytes s p die) && decide (4 * partBytes r q die ≤ journalCap s p r die)
      && decide (2 * stagingMax r die ≤ journalCap s p r die))

-- ------------------------------------------------------------------ digests (R221)

/-- Stripe j of a piece: its 256-byte blocks whose index is j modulo 16, in order. -/
def stripe (blocks : List Bytes) (j : Nat) : Bytes :=
  (((List.range blocks.length).filter (fun i => decide (i % 16 = j))).map (fun i => blocks.getD i [])).flatten

/-- The leaf of a piece (R221). -/
def leafDigest (piece : Bytes) : Bytes :=
  let blocks := pieces 256 piece
  Sys2Proof.Config.sha256 (((List.range 16).map (fun j => Sys2Proof.Config.sha256 (stripe blocks j))).flatten)

/-- The digest of leaves under a label, with what is appended after the last leaf (R221). -/
def digestLeaves (label : String) (vectorLength : Nat) (leaves : List Bytes) (after : Bytes) : Bytes :=
  Sys2Proof.Config.sha256 (ascii label ++ toLe 8 vectorLength ++ leaves.flatten ++ after)

/-- Words as little-endian bytes. -/
def wordsLe (ws : List W32) : Bytes := (ws.map (fun w => toLe 4 w.toNat)).flatten

/-- The record of tile t of an image: W_t, then M_t and V_t as the optimiser keeps them (R211). -/
def weightRecord (d : RoundDesc) (parts : Nat) (flat : List W32) (t : Nat) : List W32 :=
  (flat.drop (parts * tileFirst d t)).take (parts * tileLen d t)

/-- An image with the record of tile t replaced (R212). -/
def putRecord (d : RoundDesc) (parts : Nat) (flat : List W32) (t : Nat) (rec : List W32) : List W32 :=
  flat.take (parts * tileFirst d t) ++ rec ++ flat.drop (parts * tileFirst d t + rec.length)

/-- The weights digest over a list of tiles (R221, R406). -/
def weightsDigest (d : RoundDesc) (parts : Nat) (flat : List W32) (tiles : List Nat) : Bytes :=
  digestLeaves "CHIELM-WEIGHTS" d.vectorLength (tiles.map (fun t => leafDigest (wordsLe (weightRecord d parts flat t)))) []

-- ------------------------------------------------------------------ the descriptor (R47)

/-- Read the 256 bytes. -/
def parseRound (b : Bytes) : RoundDesc :=
  { raw := padTo 256 b
    version := field b 0x000 2, mode := field b 0x002 1, packedBits := field b 0x003 1
    roundId := BitVec.ofNat 32 (field b 0x004 4), vectorLength := field b 0x008 8, rowLength := field b 0x010 8
    nMax := field b 0x018 4, ringK := field b 0x01C 1, laneFormat := field b 0x01D 1, prg := field b 0x01E 1
    seedFormat := field b 0x01F 1, boundB := field b 0x020 8, graphDegree := field b 0x028 2
    threshold := field b 0x02A 2, aggCount := field b 0x02C 1, aggIndex := field b 0x02D 1, log2n := field b 0x02E 1
    limbCount := field b 0x02F 1, fieldPrime := field b 0x030 16, ptModulus := field b 0x040 8
    ksFingerprint := field b 0x048 8, leveled := BitVec.ofNat 64 (field b 0x050 8)
    refreshThreshold := field b 0x058 2, ckptEvery := field b 0x05A 2, ckptIntervalMs := field b 0x05C 4
    ckptAdmissions := field b 0x060 4, flags := BitVec.ofNat 32 (field b 0x064 4)
    dpSigma := BitVec.ofNat 32 (field b 0x068 4), clipBound := BitVec.ofNat 32 (field b 0x06C 4)
    optimiser := field b 0x070 1, learningRate := BitVec.ofNat 32 (field b 0x074 4)
    beta1 := BitVec.ofNat 32 (field b 0x078 4), beta2 := BitVec.ofNat 32 (field b 0x07C 4)
    epsilon := BitVec.ofNat 32 (field b 0x080 4), ownerKey := BitVec.ofNat 32 (field b 0x084 4)
    distKey := BitVec.ofNat 32 (field b 0x088 4), itinDigest := padTo 32 (slice b 0x090 32)
    reservedOk := zeros b 0x071 3 && zeros b 0x08C 4 && zeros b 0x0B0 80 }

/-- Are the fields that belong to other modes 0 (R47, R48 check 2)? -/
def otherModesZero (d : RoundDesc) : Bool :=
  (decide (d.mode = 0) || (decide (d.ringK = 0) && decide (d.prg = 0) && decide (d.seedFormat = 0)
    && decide (d.graphDegree = 0) && decide (d.threshold = 0)))
  && (decide (d.mode = 1) || (decide (d.aggCount = 0) && decide (d.aggIndex = 0) && decide (d.fieldPrime = 0)
    && decide (d.flags = 0)))
  && (decide (d.mode = 2) || (decide (d.log2n = 0) && decide (d.limbCount = 0) && decide (d.ptModulus = 0)
    && decide (d.ksFingerprint = 0) && decide (d.leveled = 0) && decide (d.refreshThreshold = 0)))

/-- Check 2 of R48 with the address of R325 and the KEM option of R321. -/
def descCheck2 (d : RoundDesc) (content : Bytes) (option paramId : Nat) : Bool :=
  decide (content.length = 256) && decide (d.version = 1) && d.reservedOk && decide (d.flags.toNat / 2 = 0)
    && otherModesZero d && decide (d.roundId.toNat = paramId) && decide (option ≤ 1)

/-- The address of the round key record must be nonzero and 64-byte aligned (R325). -/
def keyRecordAddressOk (a : Nat) : Bool := decide (a ≠ 0) && decide (a % 64 = 0)

/-- The fields of every mode in their ranges (R47, R48 check 3). -/
def rangesCommon (d : RoundDesc) : Bool :=
  decide (d.mode ≤ 2) && decide (8 ≤ d.packedBits ∧ d.packedBits ≤ 64)
    && decide (1 ≤ d.vectorLength ∧ d.vectorLength ≤ 2 ^ 34)
    && decide (1 ≤ d.rowLength ∧ d.rowLength ≤ d.vectorLength ∧ d.vectorLength % d.rowLength = 0)
    && decide (1 ≤ d.nMax ∧ d.nMax ≤ 2 ^ 24) && decide (d.laneFormat ≤ 2)

/-- Masked-sum ranges (R47, R107, R108, R141). -/
def rangesMasked (d : RoundDesc) : Bool :=
  decide (16 ≤ d.ringK ∧ d.ringK ≤ 64) && decide (d.ringK ≤ d.packedBits) && decide (d.laneFormat ≤ 1)
    && (decide (d.ringK ≤ 32) || decide (d.laneFormat = 1)) && decide (d.prg ≤ 2) && decide (d.seedFormat = 0)
    && decide (2 ≤ d.graphDegree ∧ d.graphDegree ≤ 256 ∧ d.graphDegree % 2 = 0 ∧ d.graphDegree < d.nMax)
    && decide (2 ≤ d.threshold ∧ d.threshold ≤ d.graphDegree)

/-- Share-sum ranges (R47, R107, R108). -/
def rangesShare (d : RoundDesc) : Bool :=
  let p := roundPrime d
  decide (2 ≤ d.aggCount ∧ d.aggCount ≤ 8 ∧ d.aggIndex < d.aggCount)
    && (decide (d.fieldPrime = 0) || (decide (2 ^ 31 < p ∧ p < 2 ^ 128) && isPrime p))
    && decide ((if d.fieldPrime = 0 then 1 else if p < 2 ^ 32 then 0 else if p < 2 ^ 64 then 1 else 2) ≤ d.laneFormat)
    && (decide (d.packedBits = 64) || (decide (d.fieldPrime ≠ 0 ∧ p < 2 ^ 32) && decide (d.packedBits = 32)))

/-- Cipher-sum ranges (R47, R181, R190). -/
def rangesCipher (d : RoundDesc) : Bool :=
  decide (14 ≤ d.log2n ∧ d.log2n ≤ 17 ∧ 1 ≤ d.limbCount ∧ d.limbCount ≤ 48)
    && decide (((List.range 64).filter (fun i => d.leveled.getLsbD i)).length ≤ 8) && !d.leveled.getLsbD 0
    && decide (d.rowLength = 2 * d.limbCount * 2 ^ d.log2n) && decide (d.packedBits = 64) && decide (d.laneFormat = 1)

/-- The finish fields (R199). -/
def rangesFinish (d : RoundDesc) : Bool :=
  (if usesSigma d then fpSigma d.dpSigma else decide (d.dpSigma = 0)) &&
  (if needsWeights d then
    (decide (d.clipBound = 0) || fpPositive d.clipBound) && decide (d.optimiser ≤ 2) && fpPositive d.learningRate
      && (if 1 ≤ d.optimiser then fpUnit d.beta1 else decide (d.beta1 = 0))
      && (if d.optimiser = 2 then fpUnit d.beta2 && fpPositive d.epsilon else decide (d.beta2 = 0 ∧ d.epsilon = 0))
  else decide (d.clipBound = 0 ∧ d.optimiser = 0 ∧ d.learningRate = 0 ∧ d.beta1 = 0 ∧ d.beta2 = 0 ∧ d.epsilon = 0))

/-- The finish profile's values (R200). -/
def finishProfileOk (b : Bytes) : Bool :=
  decide (b.length = 32) && decide (field b 0 2 = 1) && decide (field b 2 1 ≤ 1) && zeros b 3 1 && zeros b 8 24
    && decide (0x00800000 ≤ field b 4 4 ∧ field b 4 4 < 0x7F800000)

/-- The element of order 2^20 of a proof profile (R166). -/
def proofRoot (d : RoundDesc) (q : Proof) : Nat :=
  if q.root = 0 ∧ d.fieldPrime = 0 then powMod 7 ((f64Prime - 1) / 2 ^ 20) f64Prime else q.root

/-- The proof profile's values and the conditions of R167. A root at or above p stands for its residue: R166 gives it no range (DESIGN
CHOICE, assumption 132). -/
def proofProfileOk (d : RoundDesc) (b : Bytes) : Bool :=
  let q := parseProof b
  let p := roundPrime d
  let m := ceilDiv d.vectorLength q.chunk
  decide (b.length = 64) && decide (field b 0 2 = 1) && decide (q.kind ≤ 1) && zeros b 0x18 40
    && (decide (q.kind = 0) ||
      (decide (1 ≤ q.log2m ∧ q.log2m ≤ 20) && decide (1 ≤ q.chunk ∧ q.chunk ≤ 2 ^ 20)
        && decide (p < 2 ^ 64) && decide (p % 2 ^ 20 = 1)
        && decide (powMod (proofRoot d q) (2 ^ 19) p = p - 1) && decide (1 ≤ d.boundB ∧ d.boundB ≤ 32767)
        && decide (m + 1 ≤ 2 ^ q.log2m)))

/-- Check 3 of R48; the profiles count only where the named set is loaded and holds them. -/
def descCheck3 (d : RoundDesc) (t : Option ItinSet) : Bool :=
  rangesCommon d
    && (if d.mode = 0 then rangesMasked d else if d.mode = 1 then rangesShare d else rangesCipher d)
    && rangesFinish d
    && (match t.bind (fun x => constBody x 4 0) with
        | none => true
        | some b => finishProfileOk b)
    && (match (if d.mode = 1 then t.bind (fun x => constBody x 2 0) else none) with
        | none => true
        | some b => proofProfileOk d b)

/-- The roles that a round needs (R249). -/
def rolesNeeded (d : RoundDesc) (q : Option Proof) : List Nat :=
  [0] ++ (if d.mode = 0 then [1] else []) ++ (if needsWeights d then [2, 3] else [])
    ++ (if imagesOf d = [] then [] else [4]) ++ (if q.any (fun x => decide (x.kind = 1)) then [5] else [])
    ++ (if d.mode = 2 then [6] else [])

/-- A scalar constant of a set. -/
def scalarConst (t : ItinSet) (id : Nat) : Option Bytes := constBody t 6 id

/-- The circuit map of a set, when it has one: members, and the primary and alternate links of a package toward each other
one (R400). -/
def circuitMembers (t : ItinSet) : Option (List (Nat × Nat × Nat)) :=
  (scalarConst t 0xC000).map (fun h =>
    (List.range (field h 0 1)).map (fun i =>
      match scalarConst t (0xC100 + i) with
      | none => (0, 0, 0)
      | some b => (field b 0 8, field b 8 1, field b 12 4)))

/-- Routes at package a of a circuit of n members. -/
def circuitRoutes (t : ItinSet) (a n : Nat) : List (Nat × Nat) :=
  (List.range n).map (fun i =>
    match scalarConst t (0xC200 + 16 * a + i) with
    | none => (0xFF, 0xFF)
    | some b => (field b 0 1, field b 1 1))

/-- Strictly ascending? -/
def ascending : List Nat → Bool
  | a :: b :: l => decide (a < b) && ascending (b :: l)
  | _ => true

/-- The circuit that a round runs as: none without a map, an error where R401 refuses the map. -/
def circuitOf (d : RoundDesc) (t : ItinSet) : Except Unit (Option Circuit) :=
  match circuitMembers t with
  | none => .ok none
  | some ms =>
    let serial := Sys2Proof.Config.deviceSerial.toNat
    let firsts := ms.map (fun m => m.2.2)
    let selfs := (List.range ms.length).filter (fun i => decide ((ms.getD i (0, 0, 0)).1 = serial))
    if ms.length < 2 ∨ 16 < ms.length ∨ d.mode ≠ 0 ∨ selfs.length ≠ 1 ∨ firsts.getD 0 1 ≠ 0 ∨ ascending firsts = false
        ∨ (firsts.any (fun f => decide (tileCount d ≤ f))) = true then .error ()
    else .ok (some { members := ms, self := selfs.getD 0 0,
                     routes := circuitRoutes t (selfs.getD 0 0) ms.length })

/-- Check 4 of R48: the round_id is new, the set is loaded with its roles and profiles, the map stands, the weights are
there (R42, R48, R200, R211, R213, R249, R401). -/
def descCheck4 (x : Partition) (d : RoundDesc) (resume : Bool) : Option (ItinSet × Option Proof × Option Circuit) :=
  match namedItin x d.itinDigest with
  | none => none
  | some (_, t) =>
    let q := if d.mode = 1 then (constBody t 2 0).map parseProof else none
    let weightsOk := match x.weights with
      | none => false
      | some w => !w.torn && decide (w.vectorLength = d.vectorLength ∧ w.optimiser = d.optimiser)
    if d.roundId = 0 ∨ (x.opened.contains d.roundId ∧ resume = false) ∨ (constBody t 4 0).isNone
        ∨ (d.mode = 1 ∧ q.isNone) ∨ ((rolesNeeded d q).all (fun r => t.itins.any (fun i => decide (i.1 = r)))) = false
        ∨ (needsWeights d ∧ weightsOk = false) then none
    else match circuitOf d t with
      | .error _ => none
      | .ok c => some (t, q, c)

/-- Check 5 of R48: the handles name installed keys, a proof profile's as well, and the key set (R167, R180). -/
def descCheck5 (x : Partition) (d : RoundDesc) (q : Option Proof) : Bool :=
  Table.has x.keys d.ownerKey && Table.has x.keys d.distKey
    && (match q with
        | none => true
        | some q => Table.has x.keys q.verify
            && (List.range d.aggCount).all (fun b => decide (b = d.aggIndex)
                || Table.has x.keys (BitVec.ofNat 32 (q.peers.toNat + b))))
    && (decide (d.mode ≠ 2) || x.keySets.any (fun e =>
        decide (e.2.fingerprint = d.ksFingerprint ∧ e.2.log2n = d.log2n ∧ e.2.limbs = d.limbCount)))

/-- The headroom condition (R49). -/
def headroomOk (d : RoundDesc) : Bool :=
  if d.mode = 0 then decide (d.nMax * d.boundB < 2 ^ (d.ringK - 1))
  else if d.mode = 1 then decide (2 * (d.nMax * d.boundB) < roundPrime d - 1)
  else decide (2 * (d.nMax * d.boundB) < d.ptModulus)

end Sys2Proof.Machine
end

