-- ==== Sys2Proof/Machine/Mailboxes.lean ====
section
/-! DEFINITION. The Steward mailboxes of a Sequencer: which message it serves next, and when a caravan has room for a step (R26, R27, R92,
R96, R97). -/

namespace Sys2Proof.Machine

/-- The works of a partition, with their caravans: loaded or saved, not stopped (R225). -/
def liveWorks (s : State) (p : Nat) : List (Nat × Work) :=
  (s.caravans.filterMap (fun e => (e.2.work.filter (fun w => decide (w.part = p) && !w.stopped)).map (fun w => (e.1, w))))
    ++ (getPart s p).saved.filter (fun e => !e.2.stopped)

/-- The first message of each Steward's mailbox (R26). -/
def heads (seen : List Nat) : List (MailMsg) → List (MailMsg)
  | [] => []
  | m :: l => if seen.contains m.steward then heads seen l else m :: heads (m.steward :: seen) l

/-- Can the step of a message be taken: its partition may step and its work is there and waits (R36, R96)? -/
def canTake (s : State) (cv : Nat) (m : MailMsg) : Bool :=
  canStep s m.part && (workOn s cv m.part).any wantsStep

/-- The mailboxes after the Sequencer has given back the messages at their heads that it cannot take: a dropped work's message is
void, that of a partition that may not step goes back to its Steward, which posts it again (R26, R96). -/
def prune (s : State) (cv : Nat) (seen : List Nat) : List (MailMsg) → List (MailMsg)
  | [] => []
  | m :: l =>
    if seen.contains m.steward then m :: prune s cv seen l
    else if canTake s cv m then m :: prune s cv (m.steward :: seen) l
    else prune s cv seen l

/-- The Steward after the one served last, in the order of service (R96). -/
def stewardRank (last st : Nat) : Nat := (st + 7 - last) % 8

/-- The next message of a class: of the mailboxes' heads, round-robin over the Stewards (R26, R27, R96). -/
def nextOfClass (s : State) (cv : Nat) (k : Cls) : Option (MailMsg) :=
  let c := getCv s cv
  let l := (heads [] (prune s cv [] c.mailbox)).filter (fun m => decide (m.cls = k))
  let last := Table.getD c.lastServed k.prio 7
  l.foldl (fun acc m =>
    match acc with
    | none => some m
    | some b => if stewardRank last m.steward < stewardRank last b.steward then some m else some b) none

/-- The next step: P1, then P2, then P3, and P3 at least once in 20 steps while it waits (R96). -/
def nextStep (s : State) (cv : Nat) : Option (MailMsg) :=
  let p3 := nextOfClass s cv .p3
  if 19 ≤ (getCv s cv).sinceP3 ∧ p3.isSome then p3
  else match nextOfClass s cv .p1 with
    | some m => some m
    | none => match nextOfClass s cv .p2 with
      | some m => some m
      | none => p3

/-- Does the caravan's next step belong to the partition (R99)? -/
def nextIs (s : State) (cv p : Nat) : Bool := (nextStep s cv).any (fun m => decide (m.part = p))

/-- Can a caravan begin a step now: it serves, none runs, no switch is under way and no staged segment waits for its pass (R96, R97)? -/
def freeForStep (s : State) (cv : Nat) : Bool :=
  let c := getCv s cv
  cvServes s cv && !c.stepping && c.switching.isNone && decide (c.staged = [])

/-- Is there a caravan for a step of the class: free, with no step of a higher class waiting there, unless it is P3's turn; for P1 one on
admission duty (R96, R187, R270)? Steps that no work asks for, those of a CT command, a mirror copy or a reconstruction, are one row each,
which waits for such a caravan (DESIGN CHOICE, assumption 147). -/
def stepRoom (s : State) (k : Cls) : Bool :=
  (List.range 48).any (fun cv => freeForStep s cv && ((getCv s cv).duty || decide (k ≠ .p1))
    && ((nextStep s cv).all (fun m => decide (k.prio ≤ m.cls.prio)) || (decide (k = .p3) && decide (19 ≤ (getCv s cv).sinceP3))))

end Sys2Proof.Machine
end

