-- ==== Sys2Proof/Machine/Routes.lean ====
section
/-! DEFINITION. Messages of a circuit on their way to another package: the header, the route and the copy that the source
keeps (R398 to R400, R409). The bodies' layout is not stated: an opaque encoding of Config stands for it (assumption 22). -/

namespace Sys2Proof.Machine

/-- The circuit of a partition: that of the round that is opening, else of its round. -/
def circuitAt (x : Partition) : Option Circuit :=
  match x.opening with
  | some r => r.circuit
  | none => x.round.bind (fun r => r.circuit)

/-- The traffic class of a message (R398). -/
def msgClass : CircuitMsg → Nat
  | .change (.close _) => 2
  | .change (.checkpoint _ _) => 1
  | .change (.rowResult _ _ _ _) => 1
  | .report _ .seedsDone => 0
  | .report _ .tilesDone => 0
  | .report _ _ => 1
  | .rowPartial _ _ => 1
  | _ => 0

/-- The 16-byte header of a message; length counts the whole message (R399; DEDUCED, assumption 48). -/
def msgHeader (src dst cls num len : Nat) : Bytes :=
  toLe 1 src ++ toLe 1 dst ++ toLe 1 cls ++ [0] ++ toLe 4 num ++ toLe 4 len ++ zeroBytes 4

/-- Is a link open? 0xFF names none (R400). -/
def linkOpen (s : State) (l : Nat) : Bool := decide (l < 4) && (getLink s l).up

/-- The link toward a package: the primary while it is open, else the alternate while it is open (R400, R409). -/
def routeLink (s : State) (c : Circuit) (dst : Nat) : Option Nat :=
  let r := c.routes.getD dst (0xFF, 0xFF)
  if linkOpen s r.1 then some r.1 else if linkOpen s r.2 then some r.2 else none

/-- Hand bytes to a link's queue of one class. -/
def putOut (s : State) (l cls : Nat) (b : Bytes) : State :=
  let k := getLink s l
  setLink s l { k with txq := Table.put k.txq cls (Table.getD k.txq cls [] ++ b) }

/-- Send or forward a message of a circuit of partition p: by its route, kept by its source until it is acknowledged; without
a route it waits (R399, R409). -/
def sendVia (s : State) (p : Nat) (msg : Bytes) : State :=
  match circuitAt (getPart s p) with
  | none => s
  | some c =>
    match routeLink s c (field msg 1 1) with
    | none => { s with porush := { s.porush with waiting := s.porush.waiting ++ [(p, msg)] } }
    | some l =>
      let s1 := putOut s l (field msg 2 1) msg
      if field msg 0 1 = c.self then { s1 with porush := { s1.porush with unacked := s1.porush.unacked ++ [(l, p, msg)] } } else s1

/-- Numbers and byte strings of what the lead sends, with a number of its kind. -/
def changeParts : LeadChange → List Nat × List Bytes
  | .opened secret => ([0], [secret])
  | .refused => ([1], [])
  | .close survivors => (2 :: survivors, [])
  | .unmasking => ([3], [])
  | .finishing k n => ([4, bn k.isSome, n], [k.getD []])
  | .exported => ([5], [])
  | .retire => ([6], [])
  | .abort => ([7], [])
  | .asked member opcode => ([8, member, opcode], [])
  | .answer opcode code => ([9, opcode, code.toNat], [])
  | .checkpoint w final => ([10, w, bn final], [])
  | .rowResult row norm factor maxAbs => ([11, row, norm.toNat, factor.toNat, maxAbs.toNat], [])

/-- The same of what a member reports. -/
def reportParts : MemberMsg → List Nat
  | .verdict code => [0, code.toNat]
  | .number seq => [1, seq]
  | .committed => [2]
  | .admitted => [3]
  | .refused code => [4, code.toNat]
  | .lodged w n => [5, w, n]
  | .seedsDone => [6]
  | .tilesDone => [7]

/-- The same of any message of a circuit. -/
def msgParts : CircuitMsg → List Nat × List Bytes
  | .join proof descDigest w => ([0, w], [proof, descDigest])
  | .change c => (1 :: (changeParts c).1, (changeParts c).2)
  | .forward opcode => ([2, opcode], [])
  | .report client m => (3 :: client :: reportParts m, [])
  | .rowPartial row word => ([4, row], [word])

/-- The body of a message: an encoding of its content that the spec does not lay out (assumption 22), at most what R399 allows. -/
def msgBody (m : CircuitMsg) : Bytes := (Sys2Proof.Config.circuitBody (msgParts m).1 (msgParts m).2).take 65520

/-- Send a circuit message to a member: its header and body are queued for the links, whose flits carry them under the link key (R393,
R397, R399). -/
def sendCircuit (s : State) (p member : Nat) (m : CircuitMsg) : State :=
  let s1 := { s with porush := { s.porush with messages := s.porush.messages ++ [(p, member, m)] } }
  match circuitAt (getPart s p) with
  | none => s1
  | some c =>
    let cls := msgClass m
    let n := Table.getD s1.porush.sent (c.self, member, cls) 0
    let s2 := { s1 with porush := { s1.porush with sent := Table.put s1.porush.sent (c.self, member, cls) ((n + 1) % 2 ^ 32) } }
    sendVia s2 p (msgHeader c.self member cls n (16 + (msgBody m).length) ++ msgBody m)

end Sys2Proof.Machine
end

