-- ==== Sys2Proof/Machine/Checkpoint.lean ====
section
/-! DEFINITION. Checkpoints: when one is taken, the mirror copies, the body and its sealed form outside the package, and its reading back
(R59, R60, R121, R375, R376). -/

namespace Sys2Proof.Machine

-- ------------------------------------------------------------------ the body (R375)

/-- An element's lanes, little-endian (R116). -/
def laneElem (d : RoundDesc) (v : Nat) : Bytes := toLe (laneBytes d.laneFormat) v

/-- A bank as R118 lays it out, in whole 256-byte slots. -/
def bankImage (d : RoundDesc) (t : Nat) (b : List Nat) : Bytes :=
  padTo (bankBytes d t) (((bankFull d t b).map (laneElem d)).flatten)

/-- The elements of a bank image. -/
def bankParse (d : RoundDesc) (t : Nat) (bs : Bytes) : List Nat :=
  (List.range (tileLen d t)).map (fun i => field bs (i * laneBytes d.laneFormat) (laneBytes d.laneFormat))

/-- A bitmap of n bits, padded to 64 bytes. -/
def bitmap (n : Nat) (f : Nat → Bool) : Bytes :=
  padTo (ceilDiv (ceilDiv n 8) 64 * 64)
    ((List.range (ceilDiv n 8)).map (fun i => BitVec.ofNat 8 (sumNat ((List.range 8).map (fun b =>
      if 8 * i + b < n ∧ f (8 * i + b) = true then 2 ^ b else 0)))))

/-- Bit i of a bitmap. -/
def bitmapAt (bs : Bytes) (i : Nat) : Bool := bitAt (field bs (i / 8) 1) (i % 8)

/-- The client that was admitted under a sequence number (R55, R56). -/
def clientOfSeq (r : Round) (n : Nat) : Option Nat := (r.index.find? (fun e => decide (e.2 = n))).map (fun e => e.1)

/-- The verdict of a client of a share-sum round (R174, R175). -/
def verdictOf (r : Round) (c : Nat) : Verdict := Table.getD r.share.verdicts c .undecided

/-- The verdict of a sequence number. -/
def verdictOfSeq (r : Round) (n : Nat) : Verdict :=
  match clientOfSeq r n with
  | none => .undecided
  | some c => verdictOf r c

/-- The round block (R375). The state that it records is the round's when the checkpoint is exported, also when ROUND.CLOSE came after
the checkpoint began (DESIGN CHOICE, assumption 121); tile_count is that of the directory that follows, a circuit member's own tiles. -/
def roundBlock (r : Round) (w batch number : Nat) : Bytes :=
  padTo 256 r.desc.raw ++ padTo 32 r.secret ++ toLe 8 w ++ toLe 4 batch ++ toLe 4 number
    ++ toLe 1 (if r.state = .opened then 1 else 2) ++ toLe 1 r.kem ++ zeroBytes 2 ++ padTo 32 r.wDigest
    ++ toLe 4 (ownTiles r).length ++ zeroBytes 168

/-- Bytes of the mode section (R375). -/
def modeBytes (d : RoundDesc) (w : Nat) : Nat := if d.mode = 1 then ceilDiv (ceilDiv w 8) 64 * 64 else 0

/-- The body of the checkpoint in progress. The tile data is the mirrors', which R121 makes byte-identical to the banks that
the entries named. -/
def checkpointBody (r : Round) (c : Ckpt) : Bytes :=
  roundBlock r c.w c.batch c.number
    ++ bitmap r.desc.nMax (fun i => match Table.get? r.index i with
        | none => false
        | some n => decide (n ≤ c.w))
    ++ ((List.range r.desc.nMax).map (fun i => toLe 8 (match Table.get? r.index i with
        | none => 0
        | some n => if n ≤ c.w then n else 0))).flatten
    ++ (if r.desc.mode = 1 then bitmap c.w (fun i => decide (verdictOfSeq r (i + 1) = .accept)) else [])
    ++ ((ownTiles r).map (fun t =>
        dirEntry { (getTile r t).mirr with bank := Table.getD c.entries t false })).flatten
    ++ ((ownTiles r).map (fun t => bankImage r.desc t (getTile r t).mirr.committed)).flatten

/-- The header of an exported checkpoint (R376). -/
def checkpointHeader (r : Round) (c : Ckpt) (salt : Bytes) (bodyLen : Nat) : Bytes :=
  toLe 2 1 ++ toLe 1 r.desc.mode ++ toLe 1 (bn c.final) ++ toLe 4 r.desc.roundId.toNat ++ toLe 8 c.w ++ padTo 16 salt
    ++ toLe 8 Sys2Proof.Config.deviceSerial.toNat ++ toLe 4 c.number ++ toLe 4 (ceilDiv bodyLen 1048576) ++ toLe 8 bodyLen
    ++ zeroBytes 72

/-- The nonce of segment i (R376, R217). -/
def segmentNonce (i : Nat) : Bytes := toLe 4 i ++ zeroBytes 8

/-- The whole exported checkpoint (R376). -/
def checkpointExport (s : State) (r : Round) (c : Ckpt) (salt : Bytes) : Bytes :=
  let body := checkpointBody r c
  let h := checkpointHeader r c salt body.length
  h ++ sealSegments 0 (checkpointKey s salt) segmentNonce h (pieces 1048576 body)

/-- Unseal an exported checkpoint: version, own serial, framing, and every tag (R75 check 3, R376). -/
def checkpointUnseal (s : State) (buf : Bytes) : Option Bytes :=
  let h := slice buf 0 128
  let len := field h 0x30 8
  if field h 0x20 8 ≠ Sys2Proof.Config.deviceSerial.toNat ∨ field h 0 2 ≠ 1 ∨ zeros h 0x38 72 = false
      ∨ field h 0x2C 4 ≠ ceilDiv len 1048576 ∨ buf.length < 128 + len + 16 * ceilDiv len 1048576 then none
  else openSegments 0 (checkpointKey s (slice h 0x10 16)) segmentNonce h 0
    (sealedSegments (slice buf 128 (len + 16 * ceilDiv len 1048576)))

/-- What a checkpoint's body restores (R76), for the tiles of a circuit member or of the whole round. -/
structure Restored where
  desc    : RoundDesc
  secret  : Bytes
  w       : Nat
  batch   : Nat
  number  : Nat
  state   : Nat
  kem     : Nat
  wDigest : Bytes
  index   : Table Nat Nat
  accepts : List Bool
  rest    : Bytes
  deriving DecidableEq, Repr

/-- Read a body up to its directory. -/
def parseBody (b : Bytes) : Restored :=
  let d := parseRound (slice b 0 256)
  let w := field b 288 8
  let gb := ceilDiv (ceilDiv d.nMax 8) 64 * 64
  let idx := slice b (512 + gb) (8 * d.nMax)
  let ms := slice b (512 + gb + 8 * d.nMax) (modeBytes d w)
  { desc := d, secret := slice b 256 32, w := w, batch := field b 296 4, number := field b 300 4
    state := field b 304 1, kem := field b 305 1, wDigest := slice b 308 32
    index := (List.range d.nMax).filterMap (fun i =>
      if bitmapAt (slice b 512 gb) i then some (i, field idx (8 * i) 6) else none)
    accepts := (List.range w).map (bitmapAt ms)
    rest := b.drop (512 + gb + 8 * d.nMax + modeBytes d w) }

/-- The copies of the tiles that a body holds: directory entry and bank, restored to primary and mirror alike. -/
def restoreTiles (d : RoundDesc) (tiles : List Nat) (rest : Bytes) : Table Nat Tile :=
  let dir := rest.take (16 * tiles.length)
  let data := rest.drop (16 * tiles.length)
  ((List.range tiles.length).map (fun i =>
    let t := tiles.getD i 0
    let off := sumNat ((tiles.take i).map (bankBytes d))
    let e := field dir (16 * i) 16
    let bank := bankParse d t (slice data off (bankBytes d t))
    let c : TileCopy := {
      bank0 := if bitAt e 48 then [] else bank, bank1 := if bitAt e 48 then bank else []
      watermark := bits e 0 48, bank := bitAt e 48
      phase := if bits e 49 2 = 1 then .unmasked else if bits e 49 2 = 2 then .finished else .accumulating
      batch := bits e 64 32 }
    (t, ({ prim := c, mirr := c } : Tile))))

-- ------------------------------------------------------------------ taking one (R59)

/-- Is the journal half full on a die that receives segments? -/
def journalHalfFull (r : Round) : Bool :=
  (decide (0 < r.jCap0) && decide (r.jCap0 ≤ 2 * r.jUse0)) || (decide (0 < r.jCap1) && decide (r.jCap1 ≤ 2 * r.jUse1))

/-- The last sequence number that a batch may close at: the last admitted, or in share-sum the end of the decided prefix
(R176). -/
def decidedPrefix : Nat → Nat → Round → Nat
  | 0, n, _ => n
  | k + 1, n, r => if verdictOfSeq r (n + 1) = .undecided then n else decidedPrefix k (n + 1) r

/-- The watermark at which a batch closes now. -/
def closableW (r : Round) : Nat :=
  if r.desc.mode = 1 then decidedPrefix (r.nextSeq - 1 - r.batchW) r.batchW r else r.nextSeq - 1

/-- Close the batch at W (R59, R89): a batch without contributions is no batch. -/
def closeBatch (r : Round) (w : Nat) : Round :=
  if w ≤ r.batchW then r else { r with batchFrom := r.batchW + 1, batchW := w, batchNo := r.batchNo + 1 }

/-- Has every batch that was closed been swept on every tile (R43)? -/
def allSwept (r : Round) : Bool := (ownTiles r).all (fun t => decide ((getTile r t).prim.watermark = r.batchW))

/-- The checkpoints under way: the one in progress, and the one whose batch has closed behind it. -/
def ckptsOf (r : Round) : List Ckpt := r.ckpt.toList ++ r.ckptNext.toList

/-- Is a checkpoint due for a cause (R59)? -/
def checkpointDue (r : Round) (cause : CkptCause) : Bool :=
  match cause with
  | .interval => decide (0 < r.sinceCkpt)
  | .admissions => decide ((if r.desc.ckptAdmissions = 0 then 4096 else r.desc.ckptAdmissions) ≤ r.sinceCkpt)
  | .journal => decide (0 < r.sinceCkpt) && journalHalfFull r
  | .final => decide (r.state = .closing) && !r.finalDone && !(ckptsOf r).any (fun c => c.final)

/-- May the next batch close: no checkpoint is in progress, or one alone, whose batch every tile has taken; the next batch is loaded and
accumulated while its mirror copies run (R92). -/
def canClose (r : Round) : Bool := r.ckpt.isNone || (r.ckptNext.isNone && allSwept r)

/-- Is the checkpoint of a number exported (R60)? -/
def isExported (d : RoundDesc) (number : Nat) (final : Bool) : Bool :=
  decide (d.ckptEvery ≠ 0) && (decide (number % d.ckptEvery = 0) || final)

/-- A checkpoint begins: the batch closes at W, and the copies follow once W is swept and the checkpoint before it is complete (R59,
R60, R92). -/
def beginCheckpoint (r : Round) (w : Nat) (final : Bool) : Round :=
  let r1 := closeBatch r w
  let n := r.ckptNo + 1 + (r.ckpt.filter (fun c => !c.mirrorDone)).toList.length
  let c : Ckpt := { w := w, number := n, batch := r1.batchNo, final := final, exported := isExported r.desc n final }
  { r1 with
    ckpt := if r.ckpt.isNone then some c else r.ckpt
    ckptNext := if r.ckpt.isNone then r.ckptNext else some c
    sinceCkpt := 0 }

/-- Does this package lead the round: no circuit, or member 0 (R400)? -/
def isLead (r : Round) : Bool :=
  match r.circuit with
  | none => true
  | some c => decide (c.self = 0)

/-- Send a circuit message as data to every other member (R402). -/
def tellMembers (s : State) (p : Nat) (r : Round) (m : CircuitMsg) : State :=
  match r.circuit with
  | none => s
  | some c => ((List.range c.members.length).filter (fun i => decide (i ≠ c.self))).foldl (fun a i => sendCircuit a p i m) s

/-- Send a circuit message to the lead. -/
def tellLead (s : State) (p : Nat) (m : CircuitMsg) : State := sendCircuit s p 0 m

/-- CHECKPOINT_TAKE (R59, R92): the Steward takes a checkpoint when its cause holds, the batch may close and the partition is not
quiesced (R275); the lead of a circuit tells the members W (R405). -/
def execCheckpointTake (p : Nat) (cause : CkptCause) (s : State) : Host.Outcome State Fault Refusal :=
  .next (match getRound s p with
    | none => s
    | some r =>
      if (r.state = .opened ∨ r.state = .closing) ∧ canClose r = true ∧ r.lost = false ∧ (getPart s p).quiesced = false
          ∧ s.keeper.locked = false ∧ isLead r = true ∧ checkpointDue r cause = true then
        let final := decide (cause = .final)
        let w := closableW r
        tellMembers (setRound s p (beginCheckpoint r w final)) p r (.change (.checkpoint w final))
      else s)

-- ------------------------------------------------------------------ mirror copies (R121)

/-- The mirror of a tile after a copy: the named bank goes to the bank that the mirror's entry does not name (R121). -/
def mirrorTile (x : Tile) : Tile :=
  { x with mirr := { x.mirr.commit x.prim.committed with
      watermark := x.prim.watermark, batch := x.prim.batch, phase := x.prim.phase } }

/-- Journal records up to W are freed on both dies (R60). -/
def freeJournal (x : Partition) (r : Round) (w : Nat) : Round :=
  let n := (r.journal.filter (fun j => decide (j.seq ≤ w))).length
  let q := proofOf x r
  { r with journal := r.journal.filter (fun j => decide (w < j.seq))
           jUse0 := r.jUse0 - n * partBytes r q 0, jUse1 := r.jUse1 - n * partBytes r q 1 }

/-- A checkpoint is complete, and the one behind it is now in progress (R59, R60). -/
def finishCheckpoint (r : Round) (c : Ckpt) : Round :=
  { r with ckpt := r.ckptNext, ckptNext := none, finalDone := r.finalDone || c.final }

/-- Does a drain of the tile wait for the mirror copy of the checkpoint in progress (R92)? -/
def drainWaits (s : State) (p tile : Nat) : Bool :=
  (liveWorks s p).any (fun e => decide (e.2.role = 0) && e.2.draining.any (fun d => decide (d.1 = tile)))

/-- Class of the step that copies a tile to its mirror: P3, raised to P2 while a drain waits for it (R92, R270). -/
def mirrorClass (s : State) (p tile : Nat) : Cls := if drainWaits s p tile then .p2 else .p3

/-- MIRROR_COPY_DONE (R121, R60, R92, R275, R386): one tile of the checkpoint in progress has been mirrored as it stands after the batch that
ends at W, by a step of its class, over the AD0-AD1 bridge; after the last one the journal up to W is free. -/
def execMirrorCopyDone (p : Nat) (tile : Nat) (s : State) : Host.Outcome State Fault Refusal :=
  .next (match getRound s p with
    | none => s
    | some r =>
      match r.ckpt with
      | none => s
      | some c =>
        let x := getTile r tile
        if c.mirrorDone ∨ c.mirrored.contains tile ∨ (ownTiles r).contains tile = false ∨ x.prim.watermark ≠ c.w
            ∨ r.lost ∨ s.rel.crossDown ∨ canStep s p = false ∨ stepRoom s (mirrorClass s p tile) = false then s
        else
          let r1 := setTile r tile (mirrorTile x)
          let c1 := { c with mirrored := insertNat tile c.mirrored, entries := Table.put c.entries tile x.prim.bank }
          if c1.mirrored.length < (ownTiles r).length then setRound s p { r1 with ckpt := some c1 }
          else
            let c2 := { c1 with mirrorDone := true }
            let r2 := { freeJournal (getPart s p) r1 c.w with lastW := c.w, ckptNo := c.number, ckpt := some c2 }
            setRound s p (if c.exported then r2 else finishCheckpoint r2 c2))

-- ------------------------------------------------------------------ the exported checkpoint (R60)

/-- A LODGED event (R60, R263). -/
def lodgedEvent (s : State) (p w : Nat) : State :=
  addEvent s p { kind := .lodged, status := .ok, roundId := roundIdOf s p, result1 := BitVec.ofNat 64 w }

/-- The round with the checkpoint of a number lodged at W: the final one, where it has ended under that number (R43, R59, R60). -/
def roundLodged (r : Round) (w number : Nat) : Round :=
  { r with lodgedW := some w, finalLodged := r.finalLodged || (r.finalDone && decide (number = r.ckptNo)) }

/-- The lead notes that a member, itself included, has lodged the checkpoint of a number at W; when every member has, the lead posts
LODGED (R405). -/
def memberLodged (s : State) (p : Nat) (r : Round) (c : Circuit) (member w number : Nat) : State :=
  let c1 := { c with lodged := Table.put c.lodged member number }
  let r1 := { r with circuit := some c1 }
  if (List.range c.members.length).all (fun i => decide (number ≤ Table.getD c1.lodged i 0)) then
    lodgedEvent (setRound s p (roundLodged r1 w number)) p w
  else setRound s p r1

/-- W is lodged here; in a circuit LODGED waits for every member (R405). -/
def lodge (s : State) (p w number : Nat) : State :=
  match getRound s p with
  | none => s
  | some r =>
    match r.circuit with
    | none => lodgedEvent (setRound s p (roundLodged r w number)) p w
    | some c =>
      if c.self ≠ 0 then tellLead (setRound s p (roundLodged r w number)) p (.report 0 (.lodged w number))
      else memberLodged s p r c 0 w number

/-- CHECKPOINT_EXPORT_DONE (R60, R376): the sealed checkpoint has been written at addr and confirmed, and LODGED is posted.
The writing waits while the device DRBG gives no salt (R345), and while an ADMITTED up to W is not posted. -/
def execCheckpointExportDone (p : Nat) (addr : W64) (s : State) : Host.Outcome State Fault Refusal :=
  .next (match getRound s p with
    | none => s
    | some r =>
      match r.ckpt with
      | none => s
      | some c =>
        if c.mirrorDone = false ∨ c.exported = false ∨ r.lost ∨ admittedHeld s p c.w then s
        else
          let d := drawOp s 64
          match d.1 with
          | (.ok, cell) =>
            let s1 := emit d.2 (.data (outPort (getPart s p)) addr (checkpointExport d.2 r c (cell.take 16)))
            lodge (setRound s1 p (finishCheckpoint r c)) p c.w c.number
          | _ => d.2)

end Sys2Proof.Machine
end

