-- ==== Sys2Proof/Machine/Rounds.lean ====
section
/-! DEFINITION. The life of a round: opening, resuming, closing, aborting, retiring, and the internal changes of state (R42
to R46, R48, R75, R76, R213, R220, R325). -/

namespace Sys2Proof.Machine

-- ------------------------------------------------------------------ opening

/-- The round's public key (R48, R325). -/
def roundPublicKey (r : Round) : Bytes :=
  kemPublicKey r.kem (roundKey r.secret r.desc.roundId r.kem)

/-- The 16-byte header and public key of a round key record (R325). -/
def keyRecordHead (r : Round) : Bytes :=
  toLe 2 1 ++ toLe 1 r.kem ++ [0] ++ toLe 4 r.desc.roundId.toNat ++ toLe 4 (roundPublicKey r).length ++ zeroBytes 4
    ++ roundPublicKey r

/-- The round key record: header, public key, and a ROUND_KEY record with their digest (R321, R325). -/
def keyRecord (x : Session) (counter : Nat) (r : Round) : Bytes :=
  keyRecordHead r ++ sealRecord x 0x81 counter 0 (Sys2Proof.Config.sha256 (keyRecordHead r))

/-- Is a granule lost to a stack failure (R384)? -/
def granLost (s : State) (g : Nat × Nat) : Bool := decide (getGran s g = .unavailable)

/-- A partition's lost granules on one die replaced by free ones of that die, as far as they go (R384). -/
def replaceDie (s : State) (p die : Nat) : State :=
  let x := getPart s p
  let l := if die = 0 then x.gran0 else x.gran1
  let lost := l.filter (granLost s)
  let a := takeGranules p die (min lost.length (freeGran s die)) 0 s []
  let l1 := l.filter (fun g => !granLost s g) ++ a.1 ++ lost.drop a.1.length
  let y := getPart a.2 p
  setPart a.2 p (if die = 0 then { y with gran0 := l1 } else { y with gran1 := l1 })

/-- The Keeper replaces a partition's lost granules (R384). -/
def replaceLost (s : State) (p : Nat) : State := replaceDie (replaceDie s p 0) p 1

/-- The weights digest of an image under a round: over the round's tiles when the round works on it, else as it stands; zero for a torn
image (R211, R213, R221). -/
def digestIn (r : Round) (w : Weights) : Bytes :=
  if w.torn then zeroBytes 32
  else if needsWeights r.desc then weightsDigest r.desc (weightParts w.optimiser) w.flat (ownTiles r) else w.digest

/-- The digest of the loaded image, as ROUND.OPEN records it (R43, R221); zero where no image is loaded (DESIGN CHOICE, assumption
122). -/
def loadedDigest (x : Partition) (r : Round) : Bytes :=
  match x.weights with
  | none => zeroBytes 32
  | some w => digestIn r w

/-- A fresh round of a descriptor: nothing admitted (R43). -/
def freshRound (d : RoundDesc) (kem : Nat) (c : Option Circuit) : Round :=
  { state := .opened, desc := d, kem := kem, secret := [], wDigest := [], circuit := c }

/-- A round with its journal sized (R50). -/
def sizedRound (s : State) (p : Nat) (r : Round) : Round :=
  { r with jCap0 := journalCap s p r 0, jCap1 := journalCap s p r 1 }

/-- Checks 4 to 8 of R48 in order, check 7 with the granules that replace lost ones (R384): the status of the first that fails, or the
round with its sizes. Nothing changes until the round opens. -/
def lateRoundChecks (s : State) (p : Nat) (d : RoundDesc) (kem : Nat) (resume : Bool) : Except Status Round :=
  let x := getPart s p
  match descCheck4 x d resume with
  | none => .error .policyDenied
  | some (_, q, c) =>
    if descCheck5 x d q = false then .error .authFail
    else if headroomOk d = false then .error .headroom
    else
      let s1 := replaceLost s p
      let r := freshRound d kem c
      if regionsFit s1 p r q = false then .error .range
      else if (getInst s1 p).live = false then .error .notReady
      else .ok (sizedRound s1 p r)

/-- Check 1 of R48 and checks 1 and 2 of R75: no round that may not be replaced. -/
def roundFree (s : State) (p : Nat) : Option Status :=
  match getRound s p with
  | none => none
  | some r =>
    match r.state with
    | .retired => none
    | .idle => none
    | .aborted => if r.destroying then some .retryLater else none
    | _ => some .policyDenied

/-- Complete with a status whose RETRY_LATER hint is an estimate (R43, R75, R262). -/
def completeStatus (s : State) (t : Taken) (st : Status) : State :=
  if st = .retryLater then completeRetryFree s t else complete s t st

/-- The keys that the Keeper places in the key registers of the X25519 engines that serve a round (R29). -/
def engineKeysOf (r : Round) : Bytes × Bytes × Bytes :=
  (roundKey r.secret r.desc.roundId r.kem, journalKey r.secret r.desc.roundId, seedWrapKey r.secret r.desc.roundId)

/-- The round becomes the partition's current one, on granules that are all there, with its keys in the engines; the weight image is
divided into its tiles; its key record is written and the command completes (R29, R43, R211, R221, R325, R384). -/
def installRound (a : State) (t : Taken) (p : Nat) (r : Round) : State :=
  let s := replaceLost a p
  let x := getPart s p
  let s1 := setPart s p { x with
    round := some { r with engineKeys := some (engineKeysOf r) }
    opening := none
    weights := x.weights.map (fun w => if w.torn then w else { w with digest := digestIn r w })
    opened := if x.opened.contains r.desc.roundId then x.opened else x.opened ++ [r.desc.roundId] }
  complete (emit s1 (.data (fnPort t.ref.fn) (BitVec.ofNat 64 (t.desc.param 8 8))
    (keyRecord x.session t.desc.counter.toNat r))) t .ok

/-- The join proof of a member: bytes 0 to 15 of the HMAC under the owner key (R401). -/
def joinProof (ownerKey : Bytes) (roundId : W32) (serial partition : Nat) : Bytes :=
  (Sys2Proof.Config.hmacSha256 ownerKey
    (ascii "CHIELM-JOIN" ++ toLe 4 roundId.toNat ++ toLe 8 serial ++ toLe 1 partition)).take 16

/-- The key under a handle, empty where none is installed. -/
def keyAt (x : Partition) (h : W32) : Bytes :=
  match Table.get? x.keys h with
  | none => []
  | some k => k.value

/-- A circuit's round waits until its members have joined: the lead holds the secret, a member has sent its join (R401). -/
def beginCircuit (s : State) (t : Taken) (p : Nat) (r : Round) (c : Circuit) (w : Nat) : State :=
  let x := getPart s p
  let s1 := updTaken (setPart s p { x with opening := some r }) { t with waiting := true }
  if c.self = 0 then s1
  else tellLead s1 p (.join (joinProof (keyAt x r.desc.ownerKey) r.desc.roundId Sys2Proof.Config.deviceSerial.toNat p)
    (Sys2Proof.Config.sha256 r.desc.raw) w)

/-- A round that has passed its checks gets its secret where this package draws it (R289, R401), and opens. -/
def openRound (s : State) (t : Taken) (p : Nat) (r : Round) : State :=
  let draws := match r.circuit with
    | none => true
    | some c => decide (c.self = 0)
  if draws then
    let d := drawOp s p
    match d.1 with
    | (.ok, cell) =>
      let r1 := { r with secret := cell.take 32 }
      match r1.circuit with
      | none => installRound d.2 t p r1
      | some c => beginCircuit d.2 t p r1 c 0
    | (st, _) => complete d.2 t st
  else match r.circuit with
    | none => s
    | some c => beginCircuit s t p r c 0

/-- The verify or peer key that serves a round: one replaced while the round used it goes on to serve it (R292, R302). -/
def servingKey (x : Partition) (d : RoundDesc) (h : W32) : Bytes :=
  match x.drains.find? (fun k => decide (k.handle = h ∧ k.round = d.roundId)) with
  | some k => k.value
  | none => keyAt x h

/-- ROUND_OPEN (R42 to R50, R325): the descriptor's checks in order, the secret, the key record. -/
def execRoundOpen (ref : CmdRef) (buf : Bytes) (s : State) : Host.Outcome State Fault Refusal :=
  .next (withCmd s ref 0x0201 (fun t =>
    match t.part with
    | none => s
    | some p =>
      match roundFree s p with
      | some st => completeStatus s t st
      | none =>
        match openRecord (getPart s p).session t.desc.counter.toNat 1 (buf.take t.desc.length) with
        | .error st => complete s t st
        | .ok o =>
          let d := parseRound o.content
          if descCheck2 d o.content o.option (t.desc.param 0 4) = false
              ∨ keyRecordAddressOk (t.desc.param 8 8) = false then complete s t .malformed
          else if descCheck3 d ((namedItin (getPart s p) d.itinDigest).map (fun e => e.2)) = false then complete s t .range
          else match lateRoundChecks s p d o.option false with
            | .error st => complete s t st
            | .ok r => openRound s t p { r with wDigest := loadedDigest (getPart s p) r }))

/-- The client graph (R140): a and c from the digest of round_id, n_max and the published key. -/
def graphDigest (r : Round) : Bytes :=
  Sys2Proof.Config.sha256 (ascii "CHIELM-GRAPH" ++ toLe 4 r.desc.roundId.toNat ++ toLe 4 r.desc.nMax ++ roundPublicKey r)

/-- Increment a modulo n until it is nonzero and prime to n (R140), within n tries. -/
def graphFix : Nat → Nat → Nat → Nat
  | 0, a, _ => a
  | k + 1, a, n => if a ≠ 0 ∧ Nat.gcd a n = 1 then a else graphFix k ((a + 1) % n) n

/-- The multiplier a of the graph (R140). -/
def graphA (r : Round) : Nat :=
  graphFix r.desc.nMax (field (graphDigest r) 0 8 % r.desc.nMax) r.desc.nMax

/-- The offset c of the graph (R140). -/
def graphC (r : Round) : Nat := field (graphDigest r) 8 8 % r.desc.nMax

/-- Position of client i (R140). -/
def graphPos (a c n i : Nat) : Nat := (a * i + c) % n

/-- Are two clients neighbours (R140)? -/
def areNeighbours (d : RoundDesc) (a c i j : Nat) : Bool :=
  let n := d.nMax
  let diff := (graphPos a c n j + n - graphPos a c n i) % n
  decide (i ≠ j) && (decide (1 ≤ diff ∧ diff ≤ d.graphDegree / 2) || decide (n - d.graphDegree / 2 ≤ diff ∧ diff < n))

/-- The neighbours of client i, ascending (R140). -/
def neighbours (r : Round) (i : Nat) : List Nat :=
  let a := graphA r
  let c := graphC r
  (List.range r.desc.nMax).filter (areNeighbours r.desc a c i)

/-- Is a client in the survivor set (R63)? -/
def isSurvivor (r : Round) (i : Nat) : Bool := r.survivors.contains i

/-- Dropped clients that have a surviving neighbour, ascending (R142). -/
def droppedNeeded (r : Round) : List Nat :=
  (List.range r.desc.nMax).filter (fun j => !isSurvivor r j && (neighbours r j).any (isSurvivor r))

/-- The masks to be removed: survivor and, for a pair mask, its dropped neighbour (R142). -/
def masksOf (r : Round) : List (Nat × Option Nat) :=
  (r.survivors.map (fun i => (i, none)))
    ++ ((droppedNeeded r).map (fun j => ((neighbours r j).filter (isSurvivor r)).map (fun i => (i, some j)))).flatten

/-- Halves of a client's required secret: one for a self key under AES-128-CTR, two otherwise (R143). -/
def halvesOf (r : Round) (client : Nat) : Nat := if isSurvivor r client ∧ r.desc.prg = 0 then 1 else 2

/-- The clients whose secret is required (R142). -/
def secretsNeeded (r : Round) : List Nat := sortNat (r.survivors ++ droppedNeeded r)

/-- The unmask area A (R157). -/
def unmaskArea (r : Round) : Nat :=
  let h := sumNat ((secretsNeeded r).map (halvesOf r))
  48 * r.desc.nMax + 64 * ((masksOf r).length + (droppedNeeded r).length) + 24 * (r.desc.threshold + 7) * h

/-- The unmask area of a round in CLOSING against its whole journal space: where it does not fit, a ROUND_STATUS event carries
the bytes required, and the round can only be aborted (R157). -/
def areaCheck (s : State) (p : Nat) : State :=
  match getRound s p with
  | none => s
  | some r =>
    if r.state = .closing ∧ r.desc.mode = 0 ∧ r.jCap0 + r.jCap1 < unmaskArea r then
      roundStatusEvent (setRound s p { r with unmask := { r.unmask with tooBig := true } }) p .range (unmaskArea r) 0
    else s

/-- A restored round: descriptor, KEM, secret, ledger, guestbook and index at W, its state and the next number (R76). -/
def resumedRound (r : Round) (b : Restored) : Round :=
  let r1 := { r with
    state := if b.state = 2 then .closing else .opened
    secret := b.secret, wDigest := b.wDigest, index := b.index, nextSeq := b.w + 1, batchW := b.w, batchNo := b.batch
    batchFrom := b.w + 1, lastW := b.w, ckptNo := b.number, lodgedW := some b.w
    survivors := if b.state = 2 then sortNat (Table.keys b.index) else []
    tiles := restoreTiles r.desc (ownTiles r) b.rest }
  let vs : Table Nat Verdict := b.index.map (fun e =>
    (e.1, if b.accepts.getD (e.2 - 1) false then Verdict.accept else Verdict.reject))
  if r.desc.mode = 1 then { r1 with share := { r1.share with verdicts := vs } } else r1

/-- Was the checkpoint the final one (R376 flags bit 0)? -/
def ckptFinal (buf : Bytes) : Bool := bitAt (field buf 3 1) 0

/-- ROUND_RESUME (R75, R76): the checkpoint's checks in order. The address of the key record is checked with the state, a
header that does not fit its body counts as one that does not unseal (DEDUCED, assumption 25). -/
def execRoundResume (ref : CmdRef) (buf : Bytes) (s : State) : Host.Outcome State Fault Refusal :=
  .next (withCmd s ref 0x0203 (fun t =>
    match t.part with
    | none => s
    | some p =>
      let b := buf.take t.desc.length
      match roundFree s p with
      | some st => completeStatus s t st
      | none =>
        if keyRecordAddressOk (t.desc.param 8 8) = false then complete s t .malformed
        else match checkpointUnseal s b with
          | none => complete s t .policyDenied
          | some body =>
            let k := parseBody body
            let d := k.desc
            if field b 4 4 ≠ t.desc.param 0 4 ∨ d.roundId.toNat ≠ t.desc.param 0 4 then complete s t .policyDenied
            else
              let r0 := freshRound d k.kem ((namedItin (getPart s p) d.itinDigest).bind (fun e =>
                match circuitOf d e.2 with
                | .ok c => c
                | .error _ => none))
              if loadedDigest (getPart s p) r0 ≠ k.wDigest then complete s t .policyDenied
              else match lateRoundChecks s p d k.kem true with
                | .error st => complete s t st
                | .ok r =>
                  let r1 := { resumedRound r k with finalDone := ckptFinal b, finalLodged := ckptFinal b }
                  match r1.circuit with
                  | none => areaCheck (installRound s t p r1) p
                  | some c => beginCircuit s t p r1 c k.w))

-- ------------------------------------------------------------------ leaving OPEN

/-- Does a command end a round: ABORT, or the ROUND.RETIRE of an aborted one? A lost round takes no other (R245, R380). -/
def endsRound (t : Taken) : Bool := decide (t.desc.opcode = 0x0F02 ∨ t.desc.opcode = 0x0204)

/-- Does a round command name the partition's current round in one of these states (R44)? A round that can only be aborted takes no other
command of a round (R245, R380; the statuses: DEDUCED, assumption 64). -/
def namedRound (s : State) (p : Nat) (t : Taken) (states : List RoundState) : Option Round :=
  match getRound s p with
  | none => none
  | some r =>
    if r.desc.roundId.toNat = t.desc.param 0 4 ∧ states.contains r.state = true ∧ (r.lost = false ∨ endsRound t = true) then some r
    else none

/-- Entering CLOSING fixes the survivor set (R63), and in masked-sum the unmask area is compared with the journal (R157). -/
def enterClosing (s : State) (p : Nat) (r : Round) : State :=
  areaCheck (setRound s p { r with state := .closing, survivors := sortNat (Table.keys r.index) }) p

/-- Forward a round command to the lead of the circuit; it completes with the lead's outcome (R402). -/
def forwardToLead (s : State) (p : Nat) (t : Taken) : State :=
  tellLead (updTaken s { t with waiting := true }) p (.forward t.desc.opcode)

/-- ROUND_CLOSE (R43, R44): OPEN becomes CLOSING. -/
def execRoundClose (ref : CmdRef) (s : State) : Host.Outcome State Fault Refusal :=
  .next (withCmd s ref 0x0202 (fun t =>
    match t.part with
    | none => s
    | some p =>
      match namedRound s p t [.opened] with
      | none => complete s t .policyDenied
      | some r =>
        if isLead r = false then forwardToLead s p t
        else
          let r1 := { r with survivors := sortNat (Table.keys r.index) }
          complete (tellMembers (enterClosing s p r) p r (.change (.close r1.survivors))) t .ok))

-- ------------------------------------------------------------------ ABORT, RETIRE

/-- The round, journal and seed-wrapping keys move to DRAINING under handle 0x83 (R291, R302). -/
def drainRoundKey (x : Partition) (r : Round) : Partition :=
  if r.secret = [] then x
  else { x with drains := x.drains ++ [{ handle := roundKeyHandle r.desc.roundId, value := r.secret, bound := 0, round := r.desc.roundId }] }

/-- The commands that name a round: ADMIT, UNMASK.SEEDS, and the round commands of R44, the SHARE commands among them; one that opens
a round is no command of a round. -/
def roundOps : List Nat := [0x0202, 0x0204, 0x0205, 0x0301, 0x0401, 0x0501, 0x0502, 0x0503, 0x0504, 0x0F02]

/-- Commands that end with ROUND_CLOSED when the round is aborted: ADMIT, UNMASK.SEEDS and round commands pending for it (R46). A
ROUND.RETIRE that was submitted after the ABORT finds the round ABORTED (R43). -/
def endsWithRound (p order : Nat) (r : Round) (t : Taken) : Bool :=
  decide (t.part = some p ∧ t.order ≠ order ∧ t.desc.param 0 4 = r.desc.roundId.toNat)
    && roundOps.contains t.desc.opcode && decide (t.desc.opcode ≠ 0x0204 ∨ t.order < order)

/-- What is left on a caravan of a partition whose round is aborted: a running step ends first; otherwise the work is dropped without END,
and the keys in the partition's slots with it (R46, R246, R302). -/
def dropWork (p : Nat) (c : Caravan) : Caravan :=
  let c1 := { c with mailbox := c.mailbox.filter (fun m => decide (m.part ≠ p)) }
  if stepRunsOn p c then c1
  else
    let c2 := { c1 with slots := c.slots.filter (fun e => decide (e.1.2.1 ≠ p)) }
    if c.work.any (fun w => decide (w.part = p)) then { c2 with work := none, twiddle := none, openBuf := [], sealBuf := [] } else c2

/-- Works of the partition are dropped (R46, R246). -/
def dropWorks (s : State) (p : Nat) : State :=
  let s1 := { s with caravans := Table.mapVals s.caravans (fun _ c => dropWork p c) }
  setPart s1 p { getPart s1 p with saved := [] }

/-- STAGED tiles of an aborted FINISHING round get their copy, and nothing more (R213). -/
def copyStaged (d : RoundDesc) (w : Weights) (tiles : Table Nat Tile) : Weights × Table Nat Tile :=
  tiles.foldl (fun a e =>
    match e.2.applyRec, e.2.staging with
    | .staged, some rec =>
      ({ a.1 with flat := putRecord d (weightParts w.optimiser) a.1.flat e.1 rec },
        Table.put a.2 e.1 { e.2 with applyRec := .applied, staging := none })
    | _, _ => a) (w, tiles)

/-- Tiles that are APPLIED. -/
def appliedCount (r : Round) : Nat := (r.tiles.filter (fun e => decide (e.2.applyRec = .applied))).length

/-- An aborted FINISHING round's image: STAGED copies completed, torn when some tiles are APPLIED and others not (R213). -/
def abortWeights (x : Partition) (r : Round) : Partition × Round :=
  match x.weights with
  | none => (x, r)
  | some w =>
    if r.state ≠ .finishing ∨ needsWeights r.desc = false then (x, r)
    else
      let c := copyStaged r.desc w r.tiles
      let r1 := { r with tiles := c.2 }
      let n := appliedCount r1
      let whole := decide (n = (ownTiles r).length)
      ({ x with weights := some { c.1 with
          torn := w.torn || (decide (0 < n) && !whole)
          digest := if whole then weightsDigest r.desc (weightParts w.optimiser) c.1.flat (ownTiles r) else w.digest } }, r1)

/-- Every REFRESH of the partition under way is discarded: none commits (R46, R73, R197); private copies go (R190). -/
def discardRefreshes (x : Partition) : Partition :=
  { x with store := (x.store.filter (fun e => decide (e.1 < 2 ^ 32))).map (fun e => (e.1, { e.2 with refreshing := none })) }

/-- The round is ABORTED: no new step, keys draining, no output buffer, no REFRESH that commits, pending commands ended, the destruction
begun (R46, R197, R213). -/
def abortRound (s : State) (p order : Nat) (r : Round) : State :=
  let w := abortWeights (getPart s p) r
  let r1 := { w.2 with
    state := .aborted, destroying := true, secret := [], engineKeys := none, ckpt := none, ckptNext := none, outbufs := []
    share := { w.2.share with outbuf := none } }
  let s1 := setPart s p { discardRefreshes (drainRoundKey w.1 r) with round := some r1, flights := [] }
  let s2 := completeAll (s1.cmd.taken.filter (endsWithRound p order r)) .roundClosed s1
  let s3 := { s2 with caravans := Table.mapVals s2.caravans (fun _ c =>
    { c with staged := c.staged.filter (fun e => decide (fnPart e.1.fn ≠ some p)) }) }
  dropWorks (setHeld s3 (some p) (unprovedFor s3 p)) p

/-- The results of an ABORT: after FINISHING the count of tiles applied, and one key moved to DRAINING (R213, R301). -/
def abortResults (s : State) (p : Nat) (before : Round) : Results :=
  { r0 := (match getRound s p with
      | none => 0
      | some r => if before.state = .finishing then appliedCount r else 0)
    r1 := 1 }

/-- The results of a ROUND.RETIRE: the keys moved to DRAINING (R301). -/
def retireResults (r : Round) : Results := { r1 := if r.secret = [] then 0 else 1 }

/-- ABORT's own effect once its tag has passed (R43, R44, R46, R262). -/
def abortOp (s : State) (t : Taken) : State :=
  match t.part with
  | none => s
  | some p =>
    match namedRound s p t [.opened, .closing, .unmasking, .finishing] with
    | none => complete s t .policyDenied
    | some r =>
      if isLead r = false then forwardToLead s p t
      else
        let s1 := tellMembers (abortRound s p t.order r) p r (.change .abort)
        complete s1 t .ok (abortResults s1 p r)

/-- ABORT (R46). -/
def execAbort (ref : CmdRef) (s : State) : Host.Outcome State Fault Refusal :=
  .next (withCmd s ref 0x0F02 (fun t => abortOp s t))

/-- Does another ABORT of the partition still wait for its verdict (R273)? -/
def stillHeld (s : State) (t : Taken) : Bool :=
  s.cmd.taken.any (fun x => x.unproved && decide (x.part = t.part ∧ x.order ≠ t.order))

/-- P0_TAG_VERDICT (R269, R273): the Keeper checks the tag and the counter of a critical command in a P0 slot, in the Steward's order;
when they pass the abort proceeds, otherwise the partition resumes, unless another ABORT of it waits, and the completion reports the
failure. -/
def execP0TagVerdict (fn : Fn) (slot : Nat) (s : State) : Host.Outcome State Fault Refusal :=
  .next (match unprovedOf s fn slot with
    | none => s
    | some t =>
      if verdictBefore s fn t.order ∨ islandWaits s t = true then s
      else match lateChecks s fn t.desc with
      | (some (st, r), s1) =>
        let s2 := setHeld s1 t.part (stillHeld s1 t)
        complete (match t.part with
          | none => s2
          | some p => repost s2 p) t st r
      | (none, s1) =>
        let t1 := { t with unproved := false }
        let s2 := abortOp (setHeld (updTaken s1 t1) t.part (stillHeld s1 t)) t1
        match t.part with
        | none => s2
        | some p => repost s2 p)

/-- What RETIRED and a finished destruction keep of a round: its descriptor and its state (R43, R46). -/
def emptiedRound (r : Round) (st : RoundState) : Round :=
  { state := st, desc := r.desc, kem := r.kem, secret := [], wDigest := r.wDigest, circuit := r.circuit
    nextSeq := r.nextSeq, lodgedW := r.lodgedW }

/-- The work spaces that lie in the journal go with it: row partials, staging slots, the row table, temporary areas (R43, R46, R201). -/
def clearScratch (x : Partition) : Partition := { x with spaces := x.spaces.filter (fun e => decide (e.1.1 % 16 ≠ 2)) }

/-- A caravan without a partition's work, whose step that still runs ends here (R46, R246). -/
def endWorkOn (p : Nat) (c : Caravan) : Caravan :=
  dropWork p { c with stepping := c.stepping && !(c.work.any (fun w => decide (w.part = p))) }

/-- ROUND.RETIRE's effect (R43, R301): no work of the round outlives it, and the number of keys moved to DRAINING goes to result1. -/
def retireRound (s : State) (p : Nat) (r : Round) : State :=
  let x := clearScratch (drainRoundKey (getPart s p) r)
  let s1 := setPart s p { x with round := some (emptiedRound r .retired), retiredCnt := x.retiredCnt + 1, saved := [] }
  zeroSlots { s1 with caravans := Table.mapVals s1.caravans (fun _ c => endWorkOn p c) } p (fun _ _ => true)

/-- ROUND_RETIRE (R43). -/
def execRoundRetire (ref : CmdRef) (s : State) : Host.Outcome State Fault Refusal :=
  .next (withCmd s ref 0x0204 (fun t =>
    match t.part with
    | none => s
    | some p =>
      match namedRound s p t [.exported, .aborted] with
      | none => complete s t .policyDenied
      | some r =>
        if isLead r = false then forwardToLead s p t
        else complete (tellMembers (retireRound s p r) p r (.change .retire)) t .ok
          (retireResults r)))

/-- ROUND_STATE_DESTROYED (R46): the zeroing of an aborted round has ended, and the Keeper replaces lost granules (R384). -/
def execRoundStateDestroyed (p : Nat) (s : State) : Host.Outcome State Fault Refusal :=
  .next (match getRound s p with
    | none => s
    | some r =>
      if r.destroying = false ∨ stepRunning s p then s
      else replaceLost (setPart s p { clearScratch (getPart s p) with round := some (emptiedRound r r.state) }) p)

/-- ROUND_OUTBUF (R220): buffer 0 or 1 of the round, replacing an earlier one. -/
def execRoundOutbuf (ref : CmdRef) (s : State) : Host.Outcome State Fault Refusal :=
  .next (withCmd s ref 0x0205 (fun t =>
    match t.part with
    | none => s
    | some p =>
      if 1 < t.desc.param 4 1 then complete s t .range
      else match namedRound s p t [.opened, .closing, .unmasking, .finishing] with
      | none => complete s t .policyDenied
      | some r =>
        complete (setRound s p { r with
          outbufs := Table.put r.outbufs (t.desc.param 4 1) (t.desc.address, t.desc.length, fnPort t.ref.fn) }) t .ok))

end Sys2Proof.Machine
end

