-- ==== Sys2Proof/Machine/Sets.lean ====
section
/-! DEFINITION. The two ledger sets of a work and the swap that exchanges them (R93, R95, R240). -/

namespace Sys2Proof.Machine

/-- The active set. -/
def activeSet (w : Work) : LedgerSet := if w.activeA then w.setA else w.setB
/-- The shadow set. -/
def shadowSet (w : Work) : LedgerSet := if w.activeA then w.setB else w.setA
/-- Set the active set. -/
def putActive (w : Work) (l : LedgerSet) : Work := if w.activeA then { w with setA := l } else { w with setB := l }
/-- Set the shadow set. -/
def putShadow (w : Work) (l : LedgerSet) : Work := if w.activeA then { w with setB := l } else { w with setA := l }

/-- A load in progress completes (R240). When within the step it does, the table has no row for: at the latest before the next event of
the shadow port that waits for it (DESIGN CHOICE, assumption 79). -/
def settleLoad (w : Work) : Work :=
  if (shadowSet w).state = .loading then putShadow w { shadowSet w with state := .held } else w

/-- May the swap at the head of the chain take place: no operation of the shadow port that was issued before it is outstanding, and the
shadow set is HELD, or for a final swap EMPTY (R93, R240)? -/
def swapReady (w : Work) (final : Bool) : Bool :=
  !(w.shadowQ.any (fun o => decide (o.swaps ≤ w.swapsDone))) && w.draining.isNone
    && decide ((shadowSet w).state = (if final then SetState.empty else SetState.held))

/-- Has the chain of a caravan emptied as far as it can between two steps: no swap marker stands at LEDGER that could take effect (R93, R95,
R99)? -/
def chainEmptied (s : State) (cv : Nat) : Bool :=
  (getCv s cv).work.all (fun w => match (settleLoad w).flow with
    | .swap final :: _ => w.stopped || !swapReady (settleLoad w) final
    | _ => true)

end Sys2Proof.Machine
end

