-- ==== Sys2Proof/Machine/Admission.lean ====
section
/-! DEFINITION. Admission: the gates and the retry hint, staging, the admission pass, and the commit (R44, R51 to R58, R68 to
R72, R97, R403). -/

namespace Sys2Proof.Machine

-- ------------------------------------------------------------------ gates and hints

/-- The payload length that a fixed header states (R51). -/
def headerPayload (h : Bytes) : Nat := field h 0x10 8

/-- The client_id that a fixed header states (R51). -/
def headerClient (h : Bytes) : Nat := field h 0x08 4

/-- Payload lengths of the ADMITs queued device-wide (R71). -/
def queuedPayloads (s : State) : List Nat :=
  (s.parts.map (fun e => e.2.flights.map (fun f => headerPayload f.2.header))).flatten

/-- The hint of R71 in microseconds. -/
def admitHint (reopen free rIn total count client : Nat) : Nat :=
  let base := ceilDiv (1000000 * (reopen - free) * total) (4 * rIn * count)
  min (max (ceilDiv (base * (16 + client % 16)) 16) 50) 0xFFFFFFFF

/-- The hint for a refused ADMIT: the mean runs over the queued ADMITs, or this one when none is queued (R71). -/
def refusedHint (s : State) (reopen : Nat) (h : Bytes) : Nat :=
  let l := queuedPayloads s
  let rIn := if s.cmd.port0.linkUp && s.cmd.port1.linkUp then 230000000000 else 115000000000
  admitHint reopen s.cmd.sharedFree rIn (if l = [] then headerPayload h else sumNat l) (max 1 l.length) (headerClient h)

/-- The reopen count by which the gates refuse an ADMIT that needs shared cells, none when they let it pass (R69, R71). -/
def gateRefusal (s : State) (p : Nat) (t : Taken) : Option Nat :=
  let needs := decide (0 < t.cells.shared) || decide (reservedFree s (some p) < 2)
  if needs = false then none
  else if (getPart s p).latency then
    (if reservedFree s (some p) + s.cmd.sharedFree < 2 then some 4 else none)
  else if s.cmd.bulkClosed then some 313959
  else if s.cmd.allClosed then some 156980
  else if reservedFree s (some p) + s.cmd.sharedFree < 2 then some 313959 else none

-- ------------------------------------------------------------------ the checks of R53

/-- Status of a failing check of R53, by its number. -/
def checkStatus : Nat → Status
  | 1 => .roundClosed | 2 => .malformed | 3 => .range | 4 => .authFail | 5 => .malformed | 6 => .range | 7 => .duplicate
  | _ => .ok

/-- Checks 1 to 3 of R53 on the fixed header and the buffer's length: the first that fails, 0 when all pass. -/
def headerChecks (r : Round) (q : Option Proof) (h : Bytes) (bufLen : Nat) : Nat :=
  let p := payloadLen r.desc q
  if field h 0x04 4 ≠ r.desc.roundId.toNat then 1
  else if field h 0x00 2 ≠ 1 ∨ field h 0x02 1 ≠ r.kem ∨ 1 < field h 0x03 1 ∨ zeros h 0x18 8 = false
      ∨ headerPayload h ≠ p ∨ field h 0x0C 4 ≠ segCount p ∨ bufLen ≠ envelopeLen r q r.kem then 2
  else if r.desc.nMax ≤ headerClient h then 3
  else 0

/-- An X25519 engine decapsulates under the round key in its register (R29, R324): AEAD key and base nonce; none when decapsulation
fails, or when no engine serves the round. -/
def engineContext (r : Round) (enc info : Bytes) (aead : Nat) : Option (Bytes × Bytes) :=
  r.engineKeys.bind (fun k => hpkeContext r.kem k.1 enc info aead)

/-- The context of a client envelope: AEAD key and base nonce (R324). -/
def envelopeContext (r : Round) (h enc : Bytes) : Option (Bytes × Bytes) :=
  engineContext r enc (ascii "CHIELM-ENV" ++ toLe 4 r.desc.roundId.toNat) (field h 0x03 1)

-- ------------------------------------------------------------------ key blocks (R29, R232)

/-- The additional data and the nonce of the key block of number n (R232). -/
def keyBlockAad (roundId : W32) (n : Nat) : Bytes := toLe 6 n ++ zeroBytes 2 ++ toLe 4 roundId.toNat
def keyBlockNonce (n : Nat) : Bytes := toLe 6 n ++ zeroBytes 6

/-- The 96-byte key block of number n: AEAD key and base nonce wrapped by the engine under the journal key (R29, R232). -/
def keyBlock (r : Round) (n : Nat) (key base : Bytes) : Bytes :=
  let k := (r.engineKeys.map (fun k => k.2.1)).getD []
  toLe 6 n ++ zeroBytes 2
    ++ padTo 60 (Sys2Proof.Config.aeadSeal 0 k (keyBlockNonce n) (keyBlockAad r.desc.roundId n) (padTo 32 key ++ padTo 12 base))
    ++ zeroBytes 28

/-- OPEN unwraps a key block under the journal key of its slot: AEAD key and base nonce, or none when the tag fails (R231, R232). -/
def unwrapKeyBlock (journal : Bytes) (roundId : W32) (block : Bytes) : Option (Bytes × Bytes) :=
  (Sys2Proof.Config.aeadOpen 0 journal (slice block 0 6 ++ zeroBytes 6) (slice block 0 8 ++ toLe 4 roundId.toNat)
    (slice block 8 60)).map (fun m => (m.take 32, slice m 32 12))

/-- The AEAD key and base nonce of a journal record, unwrapped in OPEN under the round's journal key (R231, R232). -/
def recordKeys (r : Round) (j : JournalRec) : Option (Bytes × Bytes) :=
  r.engineKeys.bind (fun k => unwrapKeyBlock k.2.1 r.desc.roundId j.block)

/-- The bytes of a record's part on a die: the key block, the fixed header at offset 96, the part's segments in ascending index from
offset 128 (R232). -/
def journalPart (r : Round) (q : Option Proof) (j : JournalRec) (die : Nat) : Bytes :=
  let l := ownSegs r q
  let mine := (List.range l.length).filter (fun k => decide (segDie r.desc (l.getD k 0) = die))
  if mine = [] then [] else padTo 96 j.block ++ padTo 32 j.header ++ (mine.map (fun k => j.segs.getD k [])).flatten

/-- The nonce of segment i: base_nonce XOR i, as 12 bytes big-endian (R324). -/
def envelopeNonce (base : Bytes) (i : Nat) : Bytes := xorBytes base (toBe 12 i)

/-- Open one segment of an envelope (R52, R324). -/
def openEnvelopeSeg (key base h : Bytes) (i : Nat) (seg : Bytes) : Option Bytes :=
  Sys2Proof.Config.aeadOpen (field h 0x03 1) key (envelopeNonce base i) h seg

/-- Plaintext of an envelope's segments in order, as far as they open. -/
def openEnvelope (key base h : Bytes) (segs : Table Nat Bytes) : Bytes :=
  (segs.map (fun e => (openEnvelopeSeg key base h e.1 e.2).getD [])).flatten

/-- Element i of a packed payload, unsigned: bits i × b to i × b + b - 1, counted from the least significant (R109). -/
def packedElem (b : Nat) (payload : Bytes) (i : Nat) : Nat :=
  bits (field payload (i * b / 8) (b / 8 + 2)) (i * b % 8) b

/-- The pad bits after the last element are 0 (R109). -/
def padBitsZero (d : RoundDesc) (payload : Bytes) : Bool :=
  let n := d.vectorLength * elemBits d
  if n % 8 = 0 then true else decide (field payload (n / 8) 1 / 2 ^ (n % 8) = 0)

/-- The key set that a round's descriptor names (R180). -/
def roundKeySet (x : Partition) (d : RoundDesc) : Option KeySet :=
  (x.keySets.find? (fun e => decide (e.2.fingerprint = d.ksFingerprint))).map (fun e => e.2)

/-- The modulus below which element i of a payload must lie: the field prime, or the prime of the limb that a cipher-sum
word belongs to; 2^64 sets no bound (R53 check 6, R108, R181). -/
def elemBound (x : Partition) (d : RoundDesc) (i : Nat) : Nat :=
  if d.mode = 1 then roundPrime d
  else if d.mode = 2 then
    match roundKeySet x d with
    | none => 2 ^ 64
    | some k => k.primes.getD (i / 2 ^ d.log2n % d.limbCount) (2 ^ 64)
  else 2 ^ 64

/-- Check 6 of R53: every field element is canonical, those of the proof share too. -/
def canonicalOk (x : Partition) (d : RoundDesc) (q : Option Proof) (payload : Bytes) : Bool :=
  (List.range d.vectorLength).all (fun i => decide (d.mode = 0) || decide (packedElem (elemBits d) payload i < elemBound x d i))
    && (match q with
        | none => true
        | some q => decide (q.kind = 0) ||
          (List.range (q.chunk + proofCoeffs d q)).all (fun i =>
            decide (field payload (updateBytes d + 16 + 16 * d.aggCount + 8 * i) 8 < roundPrime d)))

/-- The pad bits of an envelope of which a member sees a part: they lie in the last byte of the update, and the member that holds
its segment looks at them (R109, R403). -/
def partPadZero (r : Round) (q : Option Proof) (f : Flight) (key base : Bytes) : Bool :=
  let n := r.desc.vectorLength * elemBits r.desc
  let i := n / 8 / 1048576
  if n % 8 = 0 ∨ (ownSegs r q).contains i = false then true
  else decide (field ((openEnvelopeSeg key base f.header i (Table.getD f.segs i [])).getD []) (n / 8 % 1048576) 1 / 2 ^ (n % 8) = 0)

/-- Checks 4 to 6 of R53 on an envelope whose segments have all had their pass: the first that fails, 0 when all pass. A
circuit member sees its part alone (R403); a circuit's round is masked-sum, in which check 6 refuses nothing. -/
def bodyChecks (x : Partition) (r : Round) (q : Option Proof) (f : Flight) : Nat :=
  let d := r.desc
  match envelopeContext r f.header f.enc with
  | none => 4
  | some (key, base) =>
    if f.passed.any (fun e => !e.2) then 4
    else
      let payload := openEnvelope key base f.header ((ownSegs r q).map (fun i => (i, Table.getD f.segs i [])))
      if r.circuit.isSome then (if partPadZero r q f key base then 0 else 5)
      else if padBitsZero d payload = false then 5
      else if canonicalOk x d q payload = false then 6 else 0

-- ------------------------------------------------------------------ accepting

/-- Journal bytes of one envelope added to the round's use (R232). -/
def useJournal (r : Round) (q : Option Proof) : Round :=
  { r with jUse0 := r.jUse0 + partBytes r q 0, jUse1 := r.jUse1 + partBytes r q 1 }

/-- Does the journal lack room for one more envelope (R72)? -/
def journalLacks (r : Round) (q : Option Proof) : Bool :=
  decide (r.jCap0 < r.jUse0 + partBytes r q 0) || decide (r.jCap1 < r.jUse1 + partBytes r q 1)

/-- Report a circuit verdict: a member tells the lead, the lead notes its own (R403). -/
def reportVerdict (s : State) (p client check : Nat) : State :=
  match getRound s p with
  | none => s
  | some r =>
    match r.circuit with
    | none => s
    | some c =>
      if c.self = 0 then setRound s p { r with circuit := some { c with verdicts := Table.put c.verdicts (client, 0) check } }
      else tellLead s p (.report client (.verdict (BitVec.ofNat 8 check)))

/-- Is the ADMIT's verdict one that the circuit's lead has to see first (R403)? -/
def inCircuit (r : Round) : Bool := r.circuit.isSome

/-- Is another envelope of the client in flight in a circuit, whose messages name an envelope by its client_id alone? Then the second waits
until the first is decided, so that no verdict can be taken for the other's (R403; DESIGN CHOICE, assumption 154). -/
def clientWaits (x : Partition) (r : Round) (h : Bytes) : Bool :=
  inCircuit r && x.flights.any (fun e => decide (e.2.client = headerClient h))

/-- ADMIT (R24, R44, R53, R68 to R72, R275): the Steward takes the descriptor, whose header a Porter of the function's port reads.
The quiesced state, the round and the gates are looked at in this order; an ADMIT that they let pass is accepted and holds its four
cells; then the journal's room and checks 1 to 3 of R53 on the fixed header (DEDUCED, assumption 26). -/
def execAdmit (ref : CmdRef) (header : Bytes) (enc : Bytes) (s : State) : Host.Outcome State Fault Refusal :=
  .next (withCmd s ref 0x0301 (fun t =>
    match t.part with
    | none => s
    | some p =>
      let x := getPart s p
      if (getPort s (fnPort ref.fn)).linkUp = false then s
      else if x.quiesced then complete s t .retryLater (retryHint 1000)
      else match namedRound s p t [.opened] with
        | none => complete s t .roundClosed
        | some r =>
          let q := proofOf x r
          if clientWaits x r header then updTaken s { t with begun := true }
          else match gateRefusal s p t with
          | some reopen => complete s t .retryLater (retryHint (refusedHint s reopen header))
          | none =>
            match drawCells s (some p) 2 with
            | none => complete s t .retryLater (retryHint (refusedHint s 4 header))
            | some (c, s1) =>
              let t1 := { t with cells := addCells t.cells c }
              let bad := headerChecks r q header t.desc.length
              if journalLacks r q then completeRetryFree s1 t1
              else if bad ≠ 0 ∧ inCircuit r = false then complete s1 t1 (checkStatus bad)
              else
                let s2 := updTaken s1 { t1 with waiting := true }
                let y := getPart s2 p
                let f : Flight := { header := header, enc := enc, client := headerClient header
                                    jour0 := partBytes r q 0, jour1 := partBytes r q 1 }
                let s3 := setPart s2 p { y with round := some (useJournal r q), flights := Table.put y.flights ref f }
                if bad = 0 then s3 else reportVerdict s3 p f.client bad))

-- ------------------------------------------------------------------ staging and passes

/-- The admission-duty caravans of a die (R57). -/
def dutyCaravans (s : State) (die : Nat) : List Nat :=
  (List.range 48).filter (fun cv => decide (dieOf cv = die) && (getCv s cv).duty)

/-- The duty caravan of a die that takes the next segment: fewer than four staged, the one with fewer first (R57). -/
def stageAt (s : State) (die : Nat) : Option Nat :=
  let room := (dutyCaravans s die).filter (fun cv => decide ((getCv s cv).staged.length < 4))
  room.find? (fun cv => room.all (fun o => decide ((getCv s cv).staged.length ≤ (getCv s o).staged.length)))

/-- The flight of an ADMIT, with its partition. -/
def flightOf (s : State) (ref : CmdRef) : Option (Nat × Flight) :=
  match fnPart ref.fn with
  | none => none
  | some p => (Table.get? (getPart s p).flights ref).map (fun f => (p, f))

/-- Change a flight. -/
def setFlight (s : State) (p : Nat) (ref : CmdRef) (f : Flight) : State :=
  setPart s p { getPart s p with flights := Table.put (getPart s p).flights ref f }

/-- The lowest of OPEN slots 1 to 15 that no envelope of the partition holds (R87; DESIGN CHOICE, assumption 111: slot 0 is the
journal key's, R232). -/
def freeOpenSlot (x : Partition) : Option Nat :=
  ((List.range 15).map (· + 1)).find? (fun n => !(x.flights.any (fun e => decide (e.2.slot = some n))))

/-- The dies on which an envelope has segments (R38). -/
def envelopeDies (r : Round) (q : Option Proof) : List Nat :=
  [0, 1].filter (fun die => (ownSegs r q).any (fun i => decide (segDie r.desc i = die)))

/-- An X25519 engine decapsulates the envelope's key and loads it into a slot of both admission-duty caravans of each die that
receives a segment (R29, R57); a decapsulation that fails leaves the slots empty. -/
def loadEnvelopeKey (s : State) (p : Nat) (r : Round) (q : Option Proof) (f : Flight) (n : Nat) : State :=
  match envelopeContext r f.header f.enc with
  | none => s
  | some (key, base) =>
    ((envelopeDies r q).flatMap (dutyCaravans s)).foldl (fun a cv => loadSlot a cv (.opens, p, n) (padTo 32 key ++ base)) s

/-- PORTER_SEGMENT_STAGE (R24, R38, R57): a Porter of a port that is up writes the segment to the journal and stages it for a duty
caravan of its home die; it fetches none while both have four. The envelope's first segment brings its key to OPEN's slots. -/
def execPorterSegmentStage (ref : CmdRef) (idx : Nat) (seg : Bytes) (s : State) : Host.Outcome State Fault Refusal :=
  .next (match flightOf s ref with
    | none => s
    | some (p, f) =>
      match getRound s p with
      | none => s
      | some r =>
        let q := proofOf (getPart s p) r
        if (getPort s (fnPort ref.fn)).linkUp = false ∨ (ownSegs r q).contains idx = false ∨ Table.has f.segs idx then s
        else match stageAt s (segDie r.desc idx), (if f.slot.isSome then f.slot else freeOpenSlot (getPart s p)) with
          | some cv, some n =>
            let bytes := padTo (segBytes (payloadLen r.desc q) idx + 16) seg
            let s0 := if f.slot.isSome then s else loadEnvelopeKey s p r q f n
            let s1 := setFlight s0 p ref { f with segs := Table.put f.segs idx bytes, slot := some n }
            setCv s1 cv { getCv s1 cv with staged := (getCv s1 cv).staged ++ [(ref, idx)] }
          | _, _ => s)

/-- Remove one staged segment from every caravan. -/
def unstage (s : State) (ref : CmdRef) (idx : Nat) : State :=
  { s with caravans := Table.mapVals s.caravans (fun _ c =>
      { c with staged := c.staged.filter (fun e => !decide (e = (ref, idx))) }) }

/-- Is a segment staged on a duty caravan of the die of cv (R57)? -/
def stagedOnDie (s : State) (cv : Nat) (ref : CmdRef) (idx : Nat) : Bool :=
  (dutyCaravans s (dieOf cv)).any (fun c => (getCv s c).staged.contains (ref, idx))

/-- The tag verdict of a pass over a segment under a slot of a caravan: an empty slot verifies nothing (R29, R53). -/
def passVerdict (s : State) (cv p : Nat) (f : Flight) (idx : Nat) : Bool :=
  match f.slot.bind (slotKey s cv .opens p) with
  | none => false
  | some k => (openEnvelopeSeg (k.take 32) (k.drop 32) f.header idx (Table.getD f.segs idx [])).isSome

/-- ADMISSION_PASS (R53, R57, R97): an OPEN and UNPACK pass over a staged segment between two steps or two pieces of a context
switch, on an admission-duty caravan of the segment's die, whichever partition holds the ledger sets; its verdict is whether the tag
verified. The chain has emptied before it (R95), and the segment buffer is zero after it. A pass is no step, so nothing that keeps a partition from its steps keeps it back. -/
def execAdmissionPass (cv : Nat) (ref : CmdRef) (idx : Nat) (s : State) : Host.Outcome State Fault Refusal :=
  .next (match flightOf s ref with
    | none => s
    | some (p, f) =>
      match getRound s p with
      | none => s
      | some r =>
        if (getCv s cv).duty = false ∨ cvServes s cv = false ∨ (getCv s cv).stepping ∨ stagedOnDie s cv ref idx = false
            ∨ s.keeper.locked ∨ chainEmptied s cv = false then s
        else
          let s1 := unstage s ref idx
          setFlight (setCv s1 cv { getCv s1 cv with openBuf := [] }) p ref
            { f with passed := Table.put f.passed idx (passVerdict s cv p f idx) })

-- ------------------------------------------------------------------ the commit


/-- A rejected envelope completes with its status; a DUPLICATE carries the original number (R53, R56, R262). -/
def rejectAdmit (s : State) (p : Nat) (t : Taken) (f : Flight) (st : Status) : State :=
  let orig := match getRound s p with
    | none => 0
    | some r => Table.getD r.index f.client 0
  let res : Results := if st = .duplicate then { r0 := orig, r1 := (roundIdOf s p).toNat + 2 ^ 32 * f.client } else {}
  complete (dropFlight s p t.ref false) { t with replayed := f.replayed } st res

/-- The guestbook bit, the index entry and the journal record of sequence number n, in one action (R54, R55). With proof_kind 0 the share
is ACCEPT the moment it is admitted (R167), also where SHARE.DROP had marked its client REJECT before (R175; DESIGN CHOICE, assumption
127). -/
def recordAdmission (x : Partition) (r : Round) (f : Flight) (n : Nat) : Round :=
  let q := proofOf x r
  let ctx := (envelopeContext r f.header f.enc).getD ([], [])
  let j : JournalRec := { seq := n, client := f.client, header := f.header, segs := (ownSegs r q).map (fun i => Table.getD f.segs i []),
                          block := keyBlock r n ctx.1 ctx.2 }
  let r1 := { r with index := Table.put r.index f.client n, nextSeq := n + 1, journal := r.journal ++ [j], sinceCkpt := r.sinceCkpt + 1 }
  if r.desc.mode = 1 ∧ (q.all (fun q => decide (q.kind = 0))) = true then
    { r1 with share := { r1.share with verdicts := Table.put r1.share.verdicts f.client .accept } }
  else r1

/-- ADMITTED under number n: posted with round_id, client_id and n, and counted in the telemetry (R58, R262, R431). -/
def postAdmitted (s : State) (p : Nat) (t : Taken) (f : Flight) (n : Nat) : State :=
  let x := getPart s p
  let s1 := setPart s p { x with admissions := x.admissions + 1, envBytes := x.envBytes + t.desc.length }
  let t1 := { t with replayed := f.replayed }
  complete (dropFlight s1 p t.ref true) t1 .ok { r0 := n, r1 := (roundIdOf s p).toNat + 2 ^ 32 * f.client }

/-- When the admitted count has reached n_max, the round closes, with a ROUND_STATUS event (R43). -/
def closeWhenFull (s : State) (p : Nat) : State :=
  match getRound s p with
  | none => s
  | some r =>
    if r.state = .opened ∧ r.desc.nMax ≤ r.nextSeq - 1 then
      let s1 := enterClosing s p r
      tellMembers (roundStatusEvent s1 p .roundClosed 0 0) p r (.change (.close (sortNat (Table.keys r.index))))
    else s

/-- The action of R54 on one package: DUPLICATE, or the next number. -/
def admitNow (s : State) (p : Nat) (t : Taken) (r : Round) (f : Flight) : State :=
  if Table.has r.index f.client then rejectAdmit s p t f .duplicate
  else
    let n := r.nextSeq
    closeWhenFull (postAdmitted (setRound s p (recordAdmission (getPart s p) r f n)) p t f n) p

-- ------------------------------------------------------------------ admission in a circuit (R403)

/-- The flight and its ADMIT for a client: there is one at most in a circuit, whose messages name an envelope by its client_id (R403; DESIGN
CHOICE, assumption 154). -/
def clientFlight (s : State) (p client : Nat) : Option (Taken × Flight) :=
  match (getPart s p).flights.find? (fun e => decide (e.2.client = client)) with
  | none => none
  | some e => (findTaken s e.1).map (fun t => (t, e.2))

/-- The lead decides once every member has given its verdict: the lowest failing check refuses the envelope everywhere;
otherwise the guestbook decides, and the next number goes to every member (R403). -/
def leadDecide (s : State) (p client : Nat) : State :=
  match getRound s p, clientFlight s p client with
  | some r, some (t, f) =>
    match r.circuit with
    | none => s
    | some c =>
      let members := List.range c.members.length
      if (members.all (fun i => Table.has c.verdicts (client, i))) = false then s
      else
        let bad := (members.map (fun i => Table.getD c.verdicts (client, i) 0)).filter (fun v => decide (v ≠ 0))
        let low := bad.foldl min 7
        let c1 := { c with verdicts := c.verdicts.filter (fun e => decide (e.1.1 ≠ client)) }
        let fails := if r.state ≠ .opened ∨ r.lost then 1 else if bad ≠ [] then low else if Table.has r.index client then 7 else 0
        if fails ≠ 0 then
          tellMembers (rejectAdmit (setRound s p { r with circuit := some c1 }) p t f (checkStatus fails)) p r
            (.report client (.refused (BitVec.ofNat 8 fails)))
        else
          let n := r.nextSeq
          let r1 := recordAdmission (getPart s p) { r with circuit := some { c1 with
            assigned := Table.put c1.assigned client n, commits := Table.put c1.commits (client, 0) () } } f n
          tellMembers (setRound s p r1) p r (.report client (.number n))
  | _, _ => s

/-- ADMISSION_COMMIT (R45, R53, R54, R58): once every segment has had its pass, the Steward takes the result. A round that
has left OPEN, or can only be aborted, gives ROUND_CLOSED and consumes no number. -/
def execAdmissionCommit (ref : CmdRef) (s : State) : Host.Outcome State Fault Refusal :=
  .next (match findTaken s ref, flightOf s ref with
    | some t, some (p, f) =>
      (match getRound s p with
      | none => s
      | some r =>
        let q := proofOf (getPart s p) r
        if t.desc.opcode ≠ 0x0301 ∨ ((ownSegs r q).all (fun i => Table.has f.passed i)) = false then s
        else if r.state ≠ .opened ∨ r.lost ∨ field f.header 0x04 4 ≠ r.desc.roundId.toNat then rejectAdmit s p t f .roundClosed
        else
          let bad := bodyChecks (getPart s p) r q f
          if inCircuit r then
            (if (r.circuit.map (fun c => c.self)) = some 0 then leadDecide (reportVerdict s p f.client bad) p f.client
             else reportVerdict s p f.client bad)
          else if bad ≠ 0 then rejectAdmit s p t f (checkStatus bad)
          else admitNow s p t r f)
    | _, _ => s)

/-- Does every member hold the record of an assigned number? Then the lead posts ADMITTED and tells the members (R403). -/
def leadConfirm (s : State) (p client : Nat) : State :=
  match getRound s p, clientFlight s p client with
  | some r, some (t, f) =>
    match r.circuit with
    | none => s
    | some c =>
      match Table.get? c.assigned client with
      | none => s
      | some n =>
        if (List.range c.members.length).all (fun i => Table.has c.commits (client, i)) then
          let c1 := { c with assigned := Table.erase c.assigned client, commits := c.commits.filter (fun e => decide (e.1.1 ≠ client)) }
          let s1 := postAdmitted (setRound s p { r with circuit := some c1 }) p t f n
          closeWhenFull (tellMembers s1 p r (.report client .admitted)) p
        else s
  | _, _ => s

/-- The lead hears a member: a verdict, a commit, a lodged watermark, or that seeds or tiles are complete (R403, R405,
R406). -/
def leadHears (s : State) (p member client : Nat) (r : Round) (c : Circuit) (m : MemberMsg) : State :=
  let put := fun (c1 : Circuit) => setRound s p { r with circuit := some c1 }
  match m with
  | .verdict code => leadDecide (put { c with verdicts := Table.put c.verdicts (client, member) code.toNat }) p client
  | .committed => leadConfirm (put { c with commits := Table.put c.commits (client, member) () }) p client
  | .lodged w number => memberLodged s p r c member w number
  | .seedsDone => put { c with seedsDone := insertNat member c.seedsDone }
  | .tilesDone => put { c with tilesDone := insertNat member c.tilesDone }
  | _ => s

/-- A member hears the lead: its number, the posting, or the refusal of an envelope (R403). -/
def memberHears (s : State) (p client : Nat) (r : Round) (m : MemberMsg) : State :=
  match clientFlight s p client with
  | none => s
  | some (t, f) =>
    match m with
    | .number n => tellLead (setRound s p (recordAdmission (getPart s p) r f n)) p (.report client .committed)
    | .admitted => postAdmitted s p t f (Table.getD r.index client 0)
    | .refused code => rejectAdmit s p t f (checkStatus code.toNat)
    | _ => s

/-- CIRCUIT_VERDICT (R403): one message of the circuit's admission exchange. -/
def execCircuitVerdict (p : Nat) (member : Nat) (client : Nat) (msg : MemberMsg) (s : State) :
    Host.Outcome State Fault Refusal :=
  .next (match getRound s p with
    | none => s
    | some r =>
      match r.circuit with
      | none => s
      | some c =>
        if c.self = 0 then (if member = 0 ∨ c.members.length ≤ member then s else leadHears s p member client r c msg)
        else if member = 0 then memberHears s p client r msg else s)

end Sys2Proof.Machine
end

