-- ==== Sys2Proof/Machine/Faults.lean ====
section
/-! DEFINITION. What a fault leaves behind: the fault log and counters of the REL block, the loss of a round, retirement of a
unit (R245, R374, R380, R390). -/

namespace Sys2Proof.Machine

/-- The unit_kind code of REL.LOG (R390); 0 for a part that the table gives no code. -/
def unitCode : UnitKind → Nat
  | .caravan => 1 | .steward => 2 | .porter => 3 | .hbm => 4 | .stack => 4 | .bridge => 5 | .crossBridge => 5
  | .porush => 6 | .port => 7 | .x25519 => 8 | .island => 9 | .die => 0 | .keeper => 0

/-- The Keeper's clock at a later write of the log: at least one period has passed, and how many more is a free value (R351;
assumption 3). -/
def laterNow (s : State) : Nat := s.rel.now + 1 + (Sys2Proof.Config.freeWord s.freeCount).toNat

/-- Write a fault-log entry. The time is the Keeper's clock, which orders the entries (R351). Overwriting an entry that the host has not
read sets log_wrapped; no row of the table reads the log (assumption 39). -/
def logFault (s : State) (kind index mechanism partByte outcome : Nat) (values : BitVec 128) : State :=
  let h := s.rel.logHead
  let e : LogEntry := ⟨laterNow s, kind, index, mechanism, partByte, outcome, if s.hub.config = 2 then values else 0, true⟩
  let wrapped := (Table.get? s.rel.log h).any (fun o => o.unread)
  let s1 := bumpFree { s with rel := { s.rel with log := Table.put s.rel.log h e, logHead := (h + 1) % 256, now := laterNow s } }
  if wrapped then setRelError s1 16 else s1

/-- A 32-bit count that saturates. -/
def satInc (w : W32) : W32 := if w = 0xFFFFFFFF then w else w + 1

/-- Count a fault: corrected in place, or detected and contained (R371, R390). -/
def countFault (s : State) (corrected : Bool) : State :=
  if corrected then { s with rel := { s.rel with corrected := satInc s.rel.corrected } }
  else setRelError { s with rel := { s.rel with detected := satInc s.rel.detected } } 1

/-- A round that a fault outside the model destroys: a ROUND_STATUS event with AUTH_FAIL; it can only be aborted (R380). -/
def loseRound (s : State) (p : Nat) : State :=
  match getRound s p with
  | none => s
  | some r =>
    if r.state = .opened ∨ r.state = .closing ∨ r.state = .unmasking ∨ r.state = .finishing then
      roundStatusEvent (setRound s p { r with lost := true }) p .authFail 0 0
    else s

/-- A list of rounds lost to a fault outside the model, with the device's own reports (R380, R390). -/
def outsideModel (s : State) (ps : List Nat) : State :=
  setRelError { (ps.foldl loseRound s) with rel := { (ps.foldl loseRound s).rel with degraded := true } } 4

/-- The partition byte of a log entry (R390). -/
def logPart : Option Nat → Nat
  | none => 0xFF
  | some p => p

/-- The admission duty of a retired caravan passes to another caravan of its die, the lowest without it, with the envelope keys that
the engines load there (R57, R385). -/
def passDuty (s : State) (cv : Nat) : State :=
  if (getCv s cv).duty = false then s
  else
    let s1 := setCv s cv { getCv s cv with duty := false, staged := [] }
    match ((List.range 24).map (fun i => 24 * dieOf cv + i)).find? (fun c => cvServes s1 c && !(getCv s1 c).duty) with
    | none => s1
    | some c =>
      let opens := (getCv s cv).slots.filter (fun e => decide (e.1.1 = .opens ∧ e.1.2.2 ≠ 0))
      setCv s1 c { getCv s1 c with duty := true, staged := (getCv s cv).staged
                                   slots := (getCv s1 c).slots.filter (fun e => !(Table.has opens e.1)) ++ opens }

/-- Retire a caravan: fenced until the next cold boot (R374, R390). -/
def retireCaravan (s : State) (cv : Nat) : State :=
  let s1 := setRelError { s with rel := { s.rel with caravans := s.rel.caravans ||| (1 <<< cv) } } 2
  passDuty (setCv s1 cv { getCv s1 cv with work := none, stepping := false, mailbox := [] }) cv

end Sys2Proof.Machine
end

