-- ==== Sys2Proof/Machine/Arith.lean ====
section
/-! DEFINITION. The arithmetic of the stages: the domains of R107, residues, IEEE binary32 and bfloat16 with one rounding,
the long ledger, and the noise sampler (R107 to R114, R122 to R125, R131 to R136, R202 to R210, R214). -/

namespace Sys2Proof.Machine

-- ------------------------------------------------------------------ domains

/-- The computing domains of R107, with their parameters. -/
inductive Domain where
  | ring (k : Nat)
  | field (p : Nat)
  | gf128
  deriving DecidableEq, Repr

/-- The modulus of a domain of integers; 2^128 bounds GF128's elements. -/
def Domain.modulus : Domain → Nat
  | .ring k => 2 ^ k
  | .field p => p
  | .gf128 => 2 ^ 128

/-- Sum in a domain: modulo 2^k or p, or XOR (R107, R111). -/
def domAdd : Domain → Nat → Nat → Nat
  | .gf128, a, b => (BitVec.ofNat 128 a ^^^ BitVec.ofNat 128 b).toNat
  | d, a, b => (a + b) % d.modulus

/-- Difference in a domain (R107). -/
def domSub : Domain → Nat → Nat → Nat
  | .gf128, a, b => (BitVec.ofNat 128 a ^^^ BitVec.ofNat 128 b).toNat
  | d, a, b => (a % d.modulus + d.modulus - b % d.modulus) % d.modulus

/-- Product in a domain (R107, R111, R112); GF128 multiplies in OPEN, not here. -/
def domMul : Domain → Nat → Nat → Nat
  | .gf128, _, _ => 0
  | d, a, b => a * b % d.modulus

/-- The inverse of 2^W modulo an odd prime m: 2^W to the power m - 2. -/
def montInverse (m w : Nat) : Nat := powMod (2 ^ w % m) (m - 2) m

/-- Product under COMBINE's Montgomery modifier: a times b times 2^(-W) modulo m (R112). In a ring the modifier changes
nothing, since there is no Montgomery form modulo 2^k (DEDUCED, assumption 36). -/
def domMont : Domain → Nat → Nat → Nat → Nat
  | .field m, w, a, b => a * b % m * montInverse m w % m
  | d, _, a, b => domMul d a b

/-- The centred reading of an element (R110). -/
def centred : Domain → Nat → Int
  | .ring k, v => if v < 2 ^ (k - 1) then (v : Int) else (v : Int) - (2 ^ k : Nat)
  | .field p, v => if v ≤ (p - 1) / 2 then (v : Int) else (v : Int) - (p : Int)
  | .gf128, v => (v : Int)

/-- The F64 reduction of COMBINE, line by line (R111). -/
def f64Reduce (x : Nat) : Nat :=
  let hi := x / 2 ^ 64 / 2 ^ 32
  let lo := x / 2 ^ 64 % 2 ^ 32
  let t := if x % 2 ^ 64 < hi then x % 2 ^ 64 + f64Prime - hi else x % 2 ^ 64 - hi
  let r := t + lo * (2 ^ 32 - 1)
  if 2 * f64Prime ≤ r then r - 2 * f64Prime else if f64Prime ≤ r then r - f64Prime else r

/-- The Barrett reduction of a product below m squared (R112). -/
def barrettReduce (m x : Nat) : Nat :=
  let n := bitLen m
  let mu := 2 ^ (2 * n) / m
  let r := x - x / 2 ^ (n - 1) * mu / 2 ^ (n + 1) * m
  if 2 * m ≤ r then r - 2 * m else if m ≤ r then r - m else r

/-- The residue of an integer: modulo 65,535 (R122). -/
def residue (x : Nat) : Nat := x % 65535

/-- The check word of a 128-bit group: the sum of its elements' residues; the byte parities of a GF128 element (R117,
R122, R123). -/
def checkWord (d : Domain) (elems : List Nat) : Nat :=
  match d with
  | .gf128 => sumNat ((List.range 16).map (fun b =>
      2 ^ b * (sumNat ((List.range 8).map (fun i => bn (bitAt (elems.headD 0) (8 * b + i)))) % 2)))
  | _ => residue (sumNat (elems.map residue))

/-- Elements of a 128-bit group of lanes, for elements of w bytes (R117, R122). -/
def groupElems (w : Nat) : Nat := max 1 (16 / w)

/-- The check words of lane data whose elements take w bytes: one for each 128-bit group, the last one padded with zero lanes
(R116, R117, R122). -/
def checkWords (d : Domain) (w : Nat) (l : List Nat) : List Nat :=
  (List.range ((l.length + groupElems w - 1) / groupElems w)).map (fun g =>
    checkWord d ((l.drop (g * groupElems w)).take (groupElems w)))

/-- An integer modulo 65,535, as a residue. -/
def residueInt (x : Int) : Nat := (x % 65535).toNat

/-- The residue that a stage predicts for one element of a sum, a difference, a product or a Montgomery product of W bits, from
its operands' residues and the correction terms of R122: w wraps, the Barrett quotient with its final subtractions, the
Montgomery factor, the high part of a ring product. The terms of the F64 reduction add up to those of its quotient. -/
def predictElem (d : Domain) (op : Nat) (mont : Bool) (wbits a b : Nat) : Nat :=
  let m := d.modulus
  let ra := (residue a : Int)
  let rb := (residue b : Int)
  let rm := (residue m : Int)
  if op = 0x40 then residueInt (ra + rb - (if m ≤ a + b then rm else 0))
  else if op = 0x41 then residueInt (ra - rb + (if a < b then rm else 0))
  else match d, mont with
    | .field p, true =>
      let out := domMont d wbits a b
      let t := ((out * 2 ^ wbits : Nat) : Int) - ((a * b : Nat) : Int)
      residueInt (ra * rb + residueInt (t / (p : Int)) * rm)
    | _, _ => residueInt (ra * rb - (residue (a * b / m) : Int) * rm)

/-- The byte parities that a GF128 sum predicts: the XOR of its operands' (R123). -/
def predictParity (a b : Nat) : Nat := a ^^^ b

/-- The overall parity of a GF128 element: its value at x = 1 (R123). -/
def gfParity (a : Nat) : Nat := sumNat ((List.range 128).map (fun i => bn (bitAt a i))) % 2

/-- The product of two polynomials over GF(2), over the low n bits of b. -/
def clMul : Nat → BitVec 256 → BitVec 128 → BitVec 256 → BitVec 256
  | 0, _, _, acc => acc
  | n + 1, a, b, acc => clMul n (a <<< 1) (b >>> 1) (if b.getLsbD 0 then acc ^^^ a else acc)

/-- The parity of the quotient when a polynomial below x^(128 + n) is reduced by x^128 + x^7 + x^2 + x + 1 (R123). -/
def quotParity : Nat → BitVec 256 → Nat
  | 0, _ => 0
  | n + 1, x =>
    if x.getLsbD (128 + n) then (1 + quotParity n (x ^^^ ((BitVec.ofNat 256 (2 ^ 128 + 0x87)) <<< n))) % 2 else quotParity n x

/-- The overall parity that OPEN predicts for a product: parity(a) times parity(b), plus that of the reduction quotient (R123). -/
def predictGf (a b : BitVec 128) : Nat :=
  (gfParity a.toNat * gfParity b.toNat + quotParity 128 (clMul 128 (a.setWidth 256) b 0)) % 2

-- ------------------------------------------------------------------ rounding

/-- a ÷ b rounded to an integer, ties to even. -/
def roundEven (a b : Nat) : Nat :=
  let q := a / b
  let r := a % b
  if b < 2 * r ∨ (2 * r = b ∧ q % 2 = 1) then q + 1 else q

/-- The encoding of magnitude num ÷ den with f fraction bits and a least exponent of -ulp, rounded once, ties to even; an
8-bit exponent, the infinity above the range. -/
def encodeRatio (f ulp num den : Nat) : Nat :=
  let v := num * 2 ^ ulp
  if v < 2 ^ f * den then roundEven v den
  else
    let s := Nat.log2 (v / den) - f
    let q := roundEven v (den * 2 ^ s)
    let e := s * 2 ^ f + q
    if 255 * 2 ^ f ≤ e then 255 * 2 ^ f else e

/-- num ÷ den rounded once to fp32; exact zero is +0 (R202). -/
def fpRatio (neg : Bool) (num den : Nat) : W32 :=
  if num = 0 then 0 else BitVec.ofNat 32 (encodeRatio 23 149 num den + bn neg * 2 ^ 31)

/-- num ÷ den rounded once to bf16 (R214). A zero is +0; the sign of the quotient of a negative zero is not stated, and free (DESIGN CHOICE,
assumption 158). -/
def bfRatio (neg : Bool) (num den : Nat) : Nat :=
  if num = 0 then (if neg && Sys2Proof.Config.zeroSign then 2 ^ 15 else 0) else encodeRatio 7 133 num den + bn neg * 2 ^ 15

/-- Biased exponent, fraction and sign of an fp32 value. -/
def fpExp (x : W32) : Nat := bits x.toNat 23 8
def fpFrac (x : W32) : Nat := x.toNat % 2 ^ 23
def fpNeg (x : W32) : Bool := x.msb
/-- NaN, infinity and finite. -/
def fpNan (x : W32) : Bool := decide (fpExp x = 255 ∧ fpFrac x ≠ 0)
def fpInf (x : W32) : Bool := decide (fpExp x = 255 ∧ fpFrac x = 0)
def fpFinite (x : W32) : Bool := decide (fpExp x ≠ 255)

/-- The magnitude of a finite fp32 value in units of 2^-149 (R132). -/
def fpMag (x : W32) : Nat := if fpExp x = 0 then fpFrac x else (2 ^ 23 + fpFrac x) * 2 ^ (fpExp x - 1)

/-- The value of a finite fp32 in units of 2^-149. -/
def fpInt (x : W32) : Int := if fpNeg x then -(fpMag x : Int) else (fpMag x : Int)

/-- The canonical NaN, the infinities and the zeros (R210). -/
def fpQuiet : W32 := 0x7FC00000
def fpInfinity (neg : Bool) : W32 := if neg then 0xFF800000 else 0x7F800000
def fpZero (neg : Bool) : W32 := if neg then 0x80000000 else 0

/-- IEEE 754 binary32 addition, ties to even (R210). -/
def fpAdd (a b : W32) : W32 :=
  if fpNan a || fpNan b then fpQuiet
  else if fpInf a then (if fpInf b && decide (fpNeg a ≠ fpNeg b) then fpQuiet else a)
  else if fpInf b then b
  else
    let v := fpInt a + fpInt b
    if v = 0 then fpZero (fpNeg a && fpNeg b && decide (fpMag a = 0))
    else fpRatio (decide (v < 0)) v.natAbs (2 ^ 149)

/-- IEEE 754 binary32 multiplication (R210). -/
def fpMul (a b : W32) : W32 :=
  let n := fpNeg a != fpNeg b
  if fpNan a || fpNan b then fpQuiet
  else if fpInf a || fpInf b then (if (fpFinite a && decide (fpMag a = 0)) || (fpFinite b && decide (fpMag b = 0))
    then fpQuiet else fpInfinity n)
  else if fpMag a * fpMag b = 0 then fpZero n
  else fpRatio n (fpMag a * fpMag b) (2 ^ 298)

/-- IEEE 754 binary32 division (R210). -/
def fpDiv (a b : W32) : W32 :=
  let n := fpNeg a != fpNeg b
  if fpNan a || fpNan b then fpQuiet
  else if fpInf a then (if fpInf b then fpQuiet else fpInfinity n)
  else if fpInf b then fpZero n
  else if fpMag b = 0 then (if fpMag a = 0 then fpQuiet else fpInfinity n)
  else if fpMag a = 0 then fpZero n
  else fpRatio n (fpMag a) (fpMag b)

/-- The integer square root, bit by bit from 2^k down. -/
def isqrtBits : Nat → Nat → Nat → Nat
  | 0, _, r => r
  | k + 1, n, r => isqrtBits k n (if (r + 2 ^ k) * (r + 2 ^ k) ≤ n then r + 2 ^ k else r)

/-- The integer square root of a number below 2^640. -/
def isqrt (n : Nat) : Nat := isqrtBits 320 n 0

/-- IEEE 754 binary32 square root (R209, R210): the root of m 2^-149 is the root of m 2^131 times 2^-140; a sticky bit below the
rounding point stands for the remainder. -/
def fpSqrt (a : W32) : W32 :=
  if fpNan a then fpQuiet
  else if fpFinite a && decide (fpMag a = 0) then a
  else if fpNeg a then fpQuiet
  else if fpInf a then a
  else
    let v := fpMag a * 2 ^ 131
    let r := isqrt v
    fpRatio false (2 * r + (if r * r = v then 0 else 1)) (2 ^ 141)

/-- Less than or equal on fp32 values that are not NaN (R209). -/
def fpLe (a b : W32) : Bool :=
  if fpNan a || fpNan b then false
  else if fpInf b && !fpNeg b then true
  else if fpInf a then fpNeg a
  else if fpInf b then false
  else decide (fpInt a ≤ fpInt b)

-- ------------------------------------------------------------------ the long ledger

/-- Add one fp32 term to a long-ledger word; its residue word is predicted from the term's residue (R124, R132). -/
def longAdd (l : LongWord) (x : W32) : LongWord :=
  if fpNan x then { l with nan := true }
  else if fpInf x then (if fpNeg x then { l with negInf := true } else { l with posInf := true })
  else { l with a := l.a + BitVec.ofInt 312 (fpInt x), res := residueInt ((l.res : Int) + residueInt (fpInt x)) }

/-- Does a word's residue agree with its accumulator, taken as a signed integer (R124, R126)? -/
def longChecks (l : LongWord) : Bool := decide (l.res = residueInt l.a.toInt)

/-- Merge two words: the accumulators add, the flags join (R135), and so do the residues (R124). -/
def longMerge (x y : LongWord) : LongWord :=
  { a := x.a + y.a, posInf := x.posInf || y.posInf, negInf := x.negInf || y.negInf, nan := x.nan || y.nan
    res := residueInt ((x.res : Int) + y.res) }

/-- Round a row's word once to fp32 (R136). -/
def longRound (l : LongWord) : W32 :=
  if l.nan || (l.posInf && l.negInf) then 0x7FC00000
  else if l.posInf then 0x7F800000
  else if l.negInf then 0xFF800000
  else fpRatio l.a.msb l.a.toInt.natAbs (2 ^ 149)

/-- The 40 bytes of a word (R131). -/
def longBytes (l : LongWord) : Bytes :=
  toLe 40 (l.a.toNat + 2 ^ 312 * (bn l.posInf + 2 * bn l.negInf + 4 * bn l.nan))

/-- The word that 40 bytes spell, with a fresh residue word (R124, R131). -/
def parseLong (b : Bytes) : LongWord :=
  let v := field b 0 40
  let a := BitVec.ofNat 312 v
  { a := a, posInf := bitAt v 312, negInf := bitAt v 313, nan := bitAt v 314, res := residueInt a.toInt }

/-- The larger of two maxima of finite magnitudes (R207, R208). -/
def fpMax (a b : W32) : W32 := if a.toNat < b.toNat then b else a

/-- The maximum with one more element: NaN and infinities do not enter it (R207). -/
def maxAbsStep (m x : W32) : W32 := if fpFinite x then fpMax m (x &&& 0x7FFFFFFF) else m

-- ------------------------------------------------------------------ the noise sampler (R203 to R206)

/-- Byte j of the noise stream of element e (R203). -/
def noiseByte (key : Bytes) (e j : Nat) : Byte :=
  (Sys2Proof.Config.aes256 key (toBe 8 e ++ toBe 8 (j / 16))).getD (j % 16) 0

/-- n bits of an element's stream from a bit position, the first the least significant (R204). -/
def noiseBits (key : Bytes) (e pos : Nat) : Nat → Nat
  | 0 => 0
  | n + 1 => bn (bitAt (noiseByte key e (pos / 8)).toNat (pos % 8)) + 2 * noiseBits key e (pos + 1) n

/-- A draw from a stream: the value and the next bit position; none when the model's bound of turns is used up
(assumption 37). -/
abbrev Draw (α : Type) := Option (α × Nat)

/-- The stream of an element: bits at a position. -/
abbrev Stream := Nat → Nat → Nat

/-- uniform(c) (R204). -/
def drawUniform (st : Stream) (c : Nat) : Nat → Nat → Draw Nat
  | 0, _ => none
  | f + 1, pos =>
    let n := if c ≤ 1 then 0 else Nat.log2 (c - 1) + 1
    let v := st pos n
    if v < c then some (v, pos + n) else drawUniform st c f (pos + n)

/-- Bits of an element's noise stream: 2^64 blocks, which the 8-byte block number of CB counts (R203). -/
def noiseBitCount : Nat := 2 ^ 71

/-- Turns that a loop of the sampler may take: every turn but a first one takes a bit of the stream at least. -/
def noiseTurns : Nat := noiseBitCount + 2

/-- The last loop of bern_exp: k counts from the given value (R204). -/
def bernTail (st : Stream) (a b : Nat) : Nat → Nat → Nat → Draw Bool
  | 0, _, _ => none
  | f + 1, k, pos =>
    match drawUniform st (b * k) noiseTurns pos with
    | none => none
    | some (v, q) => if v < a then bernTail st a b f (k + 1) q else some (decide (k % 2 = 1), q)

/-- bern_exp(1, 1) (R204). -/
def bernOne (st : Stream) (pos : Nat) : Draw Bool := bernTail st 1 1 noiseTurns 1 pos

/-- bern_exp(a, b) (R204). -/
def bernExp (st : Stream) (b : Nat) : Nat → Nat → Nat → Draw Bool
  | 0, _, _ => none
  | f + 1, a, pos =>
    if b < a then
      match bernOne st pos with
      | none => none
      | some (false, q) => some (false, q)
      | some (true, q) => bernExp st b f (a - b) q
    else bernTail st a b noiseTurns 1 pos

/-- The count of the while loop of dlap (R204). -/
def dlapCount (st : Stream) : Nat → Nat → Nat → Draw Nat
  | 0, _, _ => none
  | f + 1, v, pos =>
    match bernOne st pos with
    | none => none
    | some (true, q) => dlapCount st f (v + 1) q
    | some (false, q) => some (v, q)

/-- dlap(tt) (R204). -/
def dlap (st : Stream) (tt : Nat) : Nat → Nat → Draw Int
  | 0, _ => none
  | f + 1, pos =>
    match drawUniform st tt noiseTurns pos with
    | none => none
    | some (u, p1) =>
      match bernExp st tt noiseTurns u p1 with
      | none => none
      | some (false, p2) => dlap st tt f p2
      | some (true, p2) =>
        match dlapCount st noiseTurns 0 p2 with
        | none => none
        | some (v, p3) =>
          let x := u + tt * v
          if 2 ^ 88 ≤ x then dlap st tt f p3
          else
            let b := st p3 1
            if b = 1 ∧ x = 0 then dlap st tt f (p3 + 1)
            else some (if b = 0 then (x : Int) else -(x : Int), p3 + 1)

/-- The outer loop of R204: Gaussian by rejection from Laplace. -/
def gaussLoop (st : Stream) (tt sn sd : Nat) : Nat → Nat → Draw Int
  | 0, _ => none
  | f + 1, pos =>
    match dlap st tt noiseTurns pos with
    | none => none
    | some (y, p1) =>
      let d := (y.natAbs * tt * sd : Int) - (sn : Int)
      match bernExp st (2 * sn * sd * (tt * tt)) noiseTurns (d.natAbs * d.natAbs) p1 with
      | none => none
      | some (true, p2) => some (y, p2)
      | some (false, p2) => gaussLoop st tt sn sd f p2

/-- A power of two divided out of both terms of a ratio: lowest terms when the denominator is a power of two. -/
def lowestTwos : Nat → Nat → Nat → Nat × Nat
  | 0, n, d => (n, d)
  | f + 1, n, d => if n % 2 = 0 ∧ d % 2 = 0 ∧ 0 < n then lowestTwos f (n / 2) (d / 2) else (n, d)

/-- z_e of R204 for a noise key, an element and sigma: sn over sd in lowest terms (DEDUCED, assumption 38), and the free value
of Config where the loops would take more bits than the stream has (assumption 37). -/
def noiseAt (key : Bytes) (e : Nat) (sigma : W32) : Int :=
  let q := lowestTwos 150 (fpMag sigma) (2 ^ 149)
  match gaussLoop (noiseBits key e) (q.1 / q.2 + 1) (q.1 * q.1) (q.2 * q.2) noiseTurns 0 with
  | some (y, pos) => if pos ≤ noiseBitCount then y else Sys2Proof.Config.lateNoise key e
  | none => Sys2Proof.Config.lateNoise key e

-- ------------------------------------------------------------------ finish formulas (R202, R209, R210, R214)

/-- u_e (R202): the exact (s + z) times delta ÷ n rounded once; +0 when n = 0. -/
def updateValue (delta : W32) (n : Nat) (v : Int) : W32 :=
  if n = 0 then 0 else fpRatio (decide (v < 0)) (v.natAbs * fpMag delta) (n * 2 ^ 149)

/-- The clip factor of a row (R209); a norm that is NaN divides to NaN. -/
def clipFactor (clip norm : W32) : W32 :=
  if clip = 0 || fpLe norm clip then 0x3F800000
  else if norm = 0x7F800000 then 0
  else fpDiv clip norm

/-- c_e (R209). -/
def clippedValue (u f : W32) : W32 := if f = 0 then 0 else fpMul u f

/-- The new weight, momentum and second moment of one element (R210). -/
def applyElem (d : RoundDesc) (c w m v : W32) : W32 × W32 × W32 :=
  let lr := d.learningRate
  if d.optimiser = 0 then (fpAdd w (fpMul lr c), 0, 0)
  else if d.optimiser = 1 then
    let m1 := fpAdd (fpMul d.beta1 m) c
    (fpAdd w (fpMul lr m1), m1, 0)
  else
    let a1 := fpAdd 0x3F800000 (d.beta1 ^^^ 0x80000000)
    let a2 := fpAdd 0x3F800000 (d.beta2 ^^^ 0x80000000)
    let m1 := fpAdd (fpMul d.beta1 m) (fpMul a1 c)
    let v1 := fpAdd (fpMul d.beta2 v) (fpMul a2 (fpMul c c))
    let q := fpAdd (fpSqrt v1) d.epsilon
    (fpAdd w (fpMul lr (fpDiv m1 q)), m1, v1)

/-- b_e of the broadcast copy (R214). -/
def broadcastElem (w s : W32) : Nat :=
  if fpNan w then 0x7FC0
  else if fpInf w then (if fpNeg w then 0xFF80 else 0x7F80)
  else if fpMag s = 0 then 0
  else bfRatio (fpNeg w) (fpMag w) (fpMag s)

end Sys2Proof.Machine
end

