-- ==== Sys2Proof/Machine/Unmask.lean ====
section
/-! DEFINITION. Seed shares, reconstruction, the seed vault, keystream and the end of a tile's unmask (R63 to R65, R143 to
R161). -/

namespace Sys2Proof.Machine

-- ------------------------------------------------------------------ interpolation over GF(2^128) (R153)

/-- A field element in OPEN, with whether every product that led to it has the overall parity that OPEN predicted (R123). -/
abbrev Checked := BitVec 128 × Bool

/-- A product on OPEN's multipliers with its check (R123). -/
def mulChecked (a b : Checked) : Checked :=
  (gfMul a.1 b.1, a.2 && b.2 && decide (gfParity (gfMul a.1 b.1).toNat = predictGf a.1 b.1))

/-- a ^ (2^128 - 2): the inverse, by 127 squarings and products. -/
def gfInvAux : Nat → Checked → Checked → Checked
  | 0, _, acc => acc
  | n + 1, a, acc =>
    let a2 := mulChecked a a
    gfInvAux n a2 (mulChecked acc a2)

/-- The multiplicative inverse in GF(2^128) (R153). -/
def gfInv (a : Checked) : Checked := gfInvAux 127 a (1, true)

/-- The abscissa of a holder: bit b of holder + 1 is the coefficient of x^b (R143). -/
def abscissa (holder : Nat) : BitVec 128 := BitVec.ofNat 128 (holder + 1)

/-- Product over a list. -/
def gfProd (l : List (BitVec 128)) : Checked := l.foldl (fun acc a => mulChecked acc (a, true)) (1, true)

/-- The Lagrange weight at zero of holder h among holders (R153). -/
def lambdaAt (holders : List Nat) (h : Nat) : Checked :=
  let others := holders.filter (fun k => decide (k ≠ h))
  mulChecked (gfProd (others.map abscissa)) (gfInv (gfProd (others.map (fun k => abscissa k ^^^ abscissa h))))

/-- The half that a window of shares interpolates to: holder and value as a field element (R153). -/
def interpolate (shares : List (Nat × BitVec 128)) : Checked :=
  let hs := shares.map (fun e => e.1)
  shares.foldl (fun acc e =>
    let v := mulChecked (lambdaAt hs e.1) (e.2, true)
    (acc.1 ^^^ v.1, acc.2 && v.2)) (0, true)

-- ------------------------------------------------------------------ secrets

/-- Is the required secret of a client its pair key: the client was dropped (R64)? -/
def isPairSecret (r : Round) (client : Nat) : Bool := !isSurvivor r client

/-- Shares stored for one half of a client's secret. -/
def halfShares (r : Round) (client half : Nat) : List (Nat × Nat) :=
  Table.getD r.unmask.shares (client, isPairSecret r client, half) []

/-- Holders with a stored share of every half, ascending (R153). -/
def commonHolders (r : Round) (client : Nat) : List Nat :=
  ((halfShares r client 0).map (fun e => e.1)).filter (fun h =>
    (List.range (halvesOf r client)).all (fun k => (halfShares r client k).any (fun e => decide (e.1 = h))))

/-- The halves that a window of holders gives, with their checks (R143, R153). -/
def windowHalves (r : Round) (client : Nat) (window : List Nat) : List Checked :=
  (List.range (halvesOf r client)).map (fun k =>
    interpolate (window.map (fun h =>
      (h, BitVec.ofNat 128 (((halfShares r client k).find? (fun e => decide (e.1 = h))).getD (0, 0)).2))))

/-- Key bytes that a window of holders gives (R143, R153). -/
def windowKey (r : Round) (client : Nat) (window : List Nat) : Bytes :=
  ((windowHalves r client window).map (fun v => ghashOut v.1)).flatten

/-- The X25519 base point 9 (R154). -/
def basePoint : Bytes := toLe 32 9

/-- Does a key agree with the client's directory entry (R145, R154)? -/
def secretChecks (r : Round) (client : Nat) (entry key : Bytes) : Bool :=
  if isPairSecret r client then decide (Sys2Proof.Config.x25519 key basePoint = slice entry 0 32)
  else decide ((Sys2Proof.Config.sha256 (ascii "CHIELM-SELF" ++ toLe 4 r.desc.roundId.toNat ++ toLe 4 client ++ key)).take 16
    = slice entry 32 16)

/-- The windows that are tried: at most min(8, h - t + 1) of them (R154). -/
def windowsOf (r : Round) (client : Nat) : List (List Nat) :=
  let hs := commonHolders r client
  let t := r.desc.threshold
  (List.range (if hs.length < t then 0 else min 8 (hs.length - t + 1))).map (fun w => (hs.drop w).take t)

/-- The first window whose key passes (R154). -/
def passingKey (r : Round) (client : Nat) (entry : Bytes) : Option Bytes :=
  ((windowsOf r client).map (windowKey r client)).find? (secretChecks r client entry)

/-- Had every product of a client's windows the parity that OPEN predicted (R123)? -/
def windowsGood (r : Round) (client : Nat) : Bool := (windowsOf r client).all (fun w => (windowHalves r client w).all (fun v => v.2))

-- ------------------------------------------------------------------ the seed vault (R156)

/-- Bytes 0 to 15 of a vault record. -/
def vaultHead (v : VaultRec) : Bytes :=
  toLe 4 v.survivor ++ toLe 4 (v.dropped.getD 0xFFFFFFFF) ++ toLe 1 (bn v.negative) ++ zeroBytes 7

/-- The 64 bytes of a vault record. -/
def vaultBytes (v : VaultRec) : Bytes := vaultHead v ++ padTo 32 v.wrapped ++ padTo 16 v.tag

/-- The nonce of record index n. -/
def vaultNonce (n : Nat) : Bytes := toLe 8 n ++ zeroBytes 4

/-- The seed-wrapping key in the registers of the engines and of the seed loader (R29, R156). -/
def wrapKeyOf (r : Round) : Bytes := (r.engineKeys.map (fun k => k.2.2)).getD []

/-- A record of index n with its key wrapped under the round's seed-wrapping key; additional data: its bytes 0 to 15, then round_id. A
key of 16 bytes takes the first half of the field (DEDUCED, assumption 112). -/
def wrapRec (r : Round) (n survivor : Nat) (dropped : Option Nat) (negative : Bool) (key : Bytes) : VaultRec :=
  let v : VaultRec := { survivor := survivor, dropped := dropped, negative := negative, wrapped := [], tag := [] }
  let c := Sys2Proof.Config.aeadSeal 0 (wrapKeyOf r) (vaultNonce n) (vaultHead v ++ toLe 4 r.desc.roundId.toNat) (padTo 32 key)
  { v with wrapped := padTo 32 c, tag := slice c 32 16 }

/-- The key of record n as the seed loader unwraps it: none when its tag fails, which is a detected fault. -/
def unwrapRec (r : Round) (n : Nat) (v : VaultRec) : Option Bytes :=
  Sys2Proof.Config.aeadOpen 0 (wrapKeyOf r) (vaultNonce n) (vaultHead v ++ toLe 4 r.desc.roundId.toNat)
    (padTo 32 v.wrapped ++ padTo 16 v.tag)

/-- Index of a client's own record: in the vault for a survivor's self key, in the separate section of pair keys for a dropped client
(the section's own numbering: DESIGN CHOICE, assumption 112). -/
def secretIndex (r : Round) (client : Nat) : Nat :=
  if isPairSecret r client then (droppedNeeded r).idxOf client else r.survivors.idxOf client

/-- The record of a reconstructed secret: SEAL wraps it (R156); a pair key's has survivor ID 0xFFFF_FFFF. -/
def secretRec (r : Round) (client : Nat) (key : Bytes) : VaultRec :=
  if isPairSecret r client then wrapRec r (secretIndex r client) 0xFFFFFFFF (some client) false key
  else wrapRec r (secretIndex r client) client none false key

/-- Reconstruct a client's secret if it is required, not done, and its entry and enough shares are there; with the last flag
accepted, a secret with no passing window is FAILED (R153, R154). -/
def tryReconstruct (r : Round) (client : Nat) : Round :=
  let u := r.unmask
  if (secretsNeeded r).contains client = false ∨ Table.has u.secrets client ∨ u.failed.contains client ∨ windowsGood r client = false then r
  else match Table.get? u.directory client with
    | none => r
    | some entry =>
      match passingKey r client entry with
      | some key => { r with unmask := { u with secrets := Table.put u.secrets client (secretRec r client key) } }
      | none =>
        if u.lastSeen ∧ r.desc.threshold ≤ (commonHolders r client).length then
          { r with unmask := { u with failed := insertNat client u.failed } }
        else r

/-- The directory entries that a client's secret needs: its own and, for a pair key, those of its surviving neighbours
(R153). -/
def entriesNeeded (r : Round) (client : Nat) : List Nat :=
  client :: (if isPairSecret r client then (neighbours r client).filter (isSurvivor r) else [])

/-- Vault indexes of the records that derive from a client's secret: its self key, or its pair seeds (R142, R158). -/
def recordsFrom (r : Round) (client : Nat) : List Nat :=
  (List.range (masksOf r).length).filter (fun n =>
    let m := (masksOf r).getD n (0, none)
    if isPairSecret r client then decide (m.2 = some client) else decide (m = (client, none)))

/-- Does a secret count as reconstructed: its record and every pair-seed record that derives from it are in the vault (R157)? -/
def reconstructed (r : Round) (client : Nat) : Bool :=
  Table.has r.unmask.secrets client && (recordsFrom r client).all (fun n => Table.has r.unmask.vault n)

/-- The pair seed of a survivor and a dropped client (R144). -/
def pairSeed (r : Round) (survivor dropped : Nat) (pairKey : Bytes) : Bytes :=
  let z := Sys2Proof.Config.x25519 pairKey (slice (Table.getD r.unmask.directory survivor []) 0 32)
  Sys2Proof.Config.hkdfExpand (Sys2Proof.Config.hkdfExtract (toLe 4 r.desc.roundId.toNat) z)
    (ascii "CHIELM-PAIR" ++ toLe 4 (min survivor dropped) ++ toLe 4 (max survivor dropped))
    (if r.desc.prg = 0 then 16 else 32)

/-- Record n of the vault in the order of R158, when it can be written: a survivor's self key; or a pair seed, which an X25519 engine
derives from the dropped client's unwrapped pair key, once the entries of all its surviving neighbours are installed (R153, R156,
R157). The sign of a pair mask is +1 when the dropped ID is the larger (R141, R142). -/
def vaultRecord (r : Round) (n : Nat) : Option VaultRec :=
  match (masksOf r).getD n (0, none) with
  | (i, none) => Table.get? r.unmask.secrets i
  | (i, some j) =>
    if (entriesNeeded r j).all (fun k => Table.has r.unmask.directory k) then
      ((Table.get? r.unmask.secrets j).bind (unwrapRec r (secretIndex r j))).map (fun key =>
        wrapRec r n i (some j) (decide (j < i)) (pairSeed r i j key))
    else none

/-- The vault with every record that can be written. -/
def vaultOf (r : Round) : Table Nat VaultRec :=
  (List.range (masksOf r).length).filterMap (fun n => (vaultRecord r n).map (fun v => (n, v)))

/-- The round with its vault written. -/
def writeVault (r : Round) : Round := { r with unmask := { r.unmask with vault := vaultOf r } }

/-- Dropped clients whose wrapped pair key an engine needs and does not unwrap: its tag fails (R156). -/
def badSecrets (r : Round) : List Nat :=
  (droppedNeeded r).filter (fun j => (entriesNeeded r j).all (fun k => Table.has r.unmask.directory k)
    && (Table.get? r.unmask.secrets j).any (fun v => (unwrapRec r (secretIndex r j) v).isNone))

/-- The round with its vault written; a pair key whose record's tag fails is to be reconstructed again (R156, R377). -/
def storeVault (r : Round) : Round :=
  if badSecrets r = [] then writeVault r
  else { r with unmask := { r.unmask with secrets := r.unmask.secrets.filter (fun e => !(badSecrets r).contains e.1) } }

/-- Reconstruct what can be reconstructed, and write the vault. -/
def reconstructAll (r : Round) : Round := storeVault ((secretsNeeded r).foldl tryReconstruct r)

/-- The detected faults of a reconstruction in a round, and of the vault that follows from it: a product whose parity is not the predicted
one in a caravan's OPEN, a record's tag in an X25519 engine; which unit it was, no rule says (R123, R156, R371; assumption 3). -/
def noteSeedFaults (s : State) (p : Nat) (r : Round) (clients : List Nat) : State :=
  let unit := (Sys2Proof.Config.freeWord s.freeCount).toNat
  if clients.all (fun c => (Table.has r.unmask.secrets c) || windowsGood r c) = false then
    logFault (countFault (bumpFree s) false) 1 (unit % 48) 6 p 1 0
  else if badSecrets (clients.foldl tryReconstruct r) ≠ [] then logFault (countFault (bumpFree s) false) 8 (unit % 8) 8 p 1 0
  else s

/-- Required secrets neither reconstructed nor FAILED (R155). -/
def openSecrets (r : Round) : List Nat :=
  (secretsNeeded r).filter (fun c => !reconstructed r c && !r.unmask.failed.contains c)

/-- A secret whose subject has fewer surviving neighbours than the threshold (R155). -/
def neverReaches (r : Round) (client : Nat) : Bool :=
  decide (((neighbours r client).filter (isSurvivor r)).length < r.desc.threshold)

/-- directory_missing (R155). -/
def directoryMissing (r : Round) : Bool :=
  (secretsNeeded r).any (fun c => !reconstructed r c && (entriesNeeded r c).any (fun i => !Table.has r.unmask.directory i))

-- ------------------------------------------------------------------ the payload of UNMASK.SEEDS

/-- What one UNMASK.SEEDS has met so far: the round, counts, and the first rejection (R151). -/
structure SeedTally where
  round    : Round
  accepted : Nat := 0
  rejected : Nat := 0
  first    : Option Status := none
  deriving DecidableEq, Repr

/-- Count a rejection of n records; the first one gives the status (R151). -/
def SeedTally.reject (a : SeedTally) (st : Status) (n : Nat) : SeedTally :=
  { a with rejected := a.rejected + n, first := match a.first with
      | some x => some x
      | none => some st }

/-- Insert a share by ascending holder. -/
def insertShare (h v : Nat) : List (Nat × Nat) → List (Nat × Nat)
  | [] => [(h, v)]
  | (k, w) :: l => if h < k then (h, v) :: (k, w) :: l else (k, w) :: insertShare h v l

/-- Store one share unless it is ignored: the holder is already stored, the limit is reached, or the half is done (R152); so is a share
for a FAILED secret, a case that R152 does not list (DESIGN CHOICE, assumption 113). -/
def storeShare (r : Round) (client : Nat) (pair : Bool) (half holder value : Nat) : Round :=
  let u := r.unmask
  let key := (client, pair, half)
  let l := Table.getD u.shares key []
  if Table.has u.secrets client ∨ u.failed.contains client ∨ l.any (fun e => decide (e.1 = holder))
      ∨ r.desc.threshold + 7 ≤ l.length then r
  else { r with unmask := { u with shares := Table.put u.shares key (insertShare holder value l) } }

/-- Checks 4 to 6 of R151 on one 24-byte record, and its storing. -/
def takeShareRecord (a : SeedTally) (holder : Nat) (rec : Bytes) : SeedTally :=
  let r := a.round
  let subject := field rec 0 4
  let kind := field rec 4 1
  let half := field rec 5 1
  let halves := if kind = 0 ∧ r.desc.prg = 0 then 1 else 2
  if zeros rec 6 2 = false ∨ 1 < kind ∨ halves ≤ half then a.reject .malformed 1
  else if subject ≥ r.desc.nMax ∨ areNeighbours r.desc (graphA r) (graphC r) holder subject = false then a.reject .policyDenied 1
  else if decide (kind = 0) ≠ isSurvivor r subject then a.reject .policyDenied 1
  else { a with accepted := a.accepted + 1
                round := storeShare r subject (decide (kind = 1)) half holder (ghashIn (slice rec 8 16)).toNat }

/-- A share envelope (R150, R151). A block whose length does not fit its record count and KEM fails check 1 (DESIGN CHOICE,
assumption 114). -/
def takeEnvelope (a : SeedTally) (b : Bytes) : SeedTally :=
  let r := a.round
  let n := field b 0x0C 4
  let encLen := if r.kem = 0 then 32 else 1088
  let h := slice b 0 16
  let holder := field b 8 4
  if b.length < 16 ∨ field b 0 2 ≠ 1 ∨ field b 2 1 ≠ r.kem ∨ 1 < field b 3 1 ∨ field b 4 4 ≠ r.desc.roundId.toNat
      ∨ n < 1 ∨ 2 * r.desc.graphDegree < n ∨ b.length ≠ 16 + encLen + 24 * n + 16 then
    a.reject .malformed (if 1 ≤ n ∧ n ≤ 2 * r.desc.graphDegree then n else 1)
  else if isSurvivor r holder = false then a.reject .policyDenied n
  else
    match engineContext r (slice b 16 encLen)
        (ascii "CHIELM-SHARE" ++ toLe 4 r.desc.roundId.toNat ++ toLe 4 holder) (field b 3 1) with
    | none => a.reject .authFail n
    | some (key, base) =>
      match Sys2Proof.Config.aeadOpen (field b 3 1) key (envelopeNonce base 0) h (b.drop (16 + encLen)) with
      | none => a.reject .authFail n
      | some m => (chunks n 24 m).foldl (fun acc rec => takeShareRecord acc holder rec) a

/-- One directory entry (R145). -/
def takeDirEntry (a : SeedTally) (client : Nat) (e : Bytes) : SeedTally :=
  if a.round.desc.nMax ≤ client then a.reject .range 1
  else if Table.has a.round.unmask.directory client then a.reject .policyDenied 1
  else { a with round := { a.round with unmask := { a.round.unmask with
           directory := Table.put a.round.unmask.directory client e } } }

/-- A DIRECTORY block: a session record whose content is first_client, count and entries (R145, R149). -/
def takeDirectory (x : Session) (a : SeedTally) (b : Bytes) : SeedTally :=
  match openRecord x 0 7 b with
  | .error st => a.reject st 1
  | .ok o =>
    let c := o.content
    if c.length ≠ 8 + 48 * field c 4 4 then a.reject .malformed 1
    else (List.range (field c 4 4)).foldl (fun acc i => takeDirEntry acc (field c 0 4 + i) (slice c (8 + 48 * i) 48)) a

/-- The blocks of a payload, in order; a block that runs past the end fails with everything after it (R149). A block that is refused whole
counts one rejection where it spells no countable set of shares (DESIGN CHOICE, assumption 155). -/
def takeBlocks (x : Session) : Nat → Bytes → SeedTally → SeedTally
  | 0, _, a => a
  | k + 1, b, a =>
    if b = [] then a
    else
      let len := field b 4 4
      if b.length < 8 + len then a.reject .malformed 1
      else
        let body := slice b 8 len
        let a1 :=
          if zeros b 2 2 = false then a.reject .malformed 1
          else if field b 0 2 = 1 then takeEnvelope a body
          else if field b 0 2 = 2 then takeDirectory x a body
          else a.reject .malformed 1
        takeBlocks x k (b.drop (8 + len)) a1

/-- The counts that every completion of UNMASK.SEEDS carries (R155). -/
def seedResults (r : Round) (accepted rejected : Nat) : Results :=
  let open_ := openSecrets r
  let never := (open_.filter (neverReaches r)).length
  { r0 := accepted % 2 ^ 32 + 2 ^ 32 * (rejected % 2 ^ 32)
    r1 := (open_.length - never) + 2 ^ 32 * never
    r2 := r.unmask.failed.length + 2 ^ 32 * bn (directoryMissing r) }

/-- UNMASK_SEEDS (R63 to R65, R149 to R155): shares and entries are stored, what can be reconstructed is, and the counts are
returned, with RANGE too. A share-sum or cipher-sum round takes none. The command waits while its partition may not step. -/
def execUnmaskSeeds (ref : CmdRef) (buf : Bytes) (s : State) : Host.Outcome State Fault Refusal :=
  .next (withCmd s ref 0x0401 (fun t =>
    match t.part with
    | none => s
    | some p =>
      match namedRound s p t [.opened, .closing] with
      | none => complete s t .policyDenied
      | some r =>
        if r.state = .opened then complete s t .roundClosed
        else if r.desc.mode ≠ 0 then complete s t .policyDenied
        else if r.unmask.tooBig then complete s t .range (seedResults r 0 0)
        else if canStep s p = false then updTaken s { t with begun := true }
        else
          let b := buf.take t.desc.length
          let a := takeBlocks (getPart s p).session b.length b { round := r }
          let r1 := { a.round with unmask := { a.round.unmask with lastSeen := a.round.unmask.lastSeen || t.desc.last } }
          let r2 := reconstructAll r1
          let st := if t.desc.last ∧ openSecrets r2 ≠ [] then Status.notReady else a.first.getD .ok
          complete (noteSeedFaults (setRound s p r2) p r1 (secretsNeeded r1)) t st (seedResults r2 a.accepted a.rejected)))

/-- SECRET_RECONSTRUCT (R153, R154, R275): one required secret is interpolated and checked by a P2 step, once its shares and entry are
there. -/
def execSecretReconstruct (p : Nat) (client : Nat) (s : State) : Host.Outcome State Fault Refusal :=
  .next (match getRound s p with
    | none => s
    | some r =>
      if r.state ≠ .closing ∨ r.desc.mode ≠ 0 ∨ r.lost ∨ r.unmask.tooBig ∨ canStep s p = false ∨ stepRoom s .p2 = false then s
      else
        noteSeedFaults (setRound s p (storeVault (tryReconstruct r client))) p r [client])

-- ------------------------------------------------------------------ keystream and fold

/-- Keystream byte n of a key (R146). -/
def keystreamByte (prg : Nat) (key : Bytes) (roundId : W32) (n : Nat) : Byte :=
  if prg = 2 then
    (Sys2Proof.Config.chacha20Block key (toLe 4 roundId.toNat ++ toLe 8 (n / 2 ^ 38)) (n / 64 % 2 ^ 32)).getD (n % 64) 0
  else
    let cb := toBe 4 roundId.toNat ++ zeroBytes 4 ++ toBe 8 (n / 16)
    (if prg = 0 then Sys2Proof.Config.aes128 (key.take 16) cb else Sys2Proof.Config.aes256 (key.take 32) cb).getD (n % 16) 0

/-- Element e of G(K) in RING(k) or a field of modulus m: w keystream bytes from e × w, little-endian, mod m (R147). -/
def keystreamElem (prg : Nat) (key : Bytes) (roundId : W32) (w m e : Nat) : Nat :=
  leNat ((List.range w).map (fun i => keystreamByte prg key roundId (e * w + i))) % m

/-- Fold width: RING seeds per beat (R148). -/
def foldWidth (prg : Nat) : Nat := if prg = 2 then 3 else 6

/-- Fold groups of a round (R158). -/
def foldGroups (r : Round) : Nat := ceilDiv (masksOf r).length (foldWidth r.desc.prg)

-- ------------------------------------------------------------------ the end of a tile's unmask

/-- The uncommitted bank becomes the committed one with tile_phase UNMASKED; a round with no mask keeps its bank (R160). -/
def unmaskedTile (r : Round) (x : Tile) : Tile :=
  { x with prim := { x.prim with
      bank := if foldGroups r = 0 then x.prim.bank else !x.prim.bank
      phase := .unmasked } }

/-- UNMASK_TILE_DONE (R160): the tile's last group is applied and drained; the entry becomes UNMASKED and the record is
mirrored. -/
def execUnmaskTileDone (p : Nat) (tile : Nat) (s : State) : Host.Outcome State Fault Refusal :=
  .next (match getRound s p with
    | none => s
    | some r =>
      let x := getTile r tile
      if r.state ≠ .unmasking ∨ r.desc.mode ≠ 0 ∨ r.lost ∨ (ownTiles r).contains tile = false
          ∨ x.prim.phase ≠ .accumulating ∨ x.groups < foldGroups r then s
      else setRound s p (setTile r tile { mirrorTile (unmaskedTile r x) with mirrored := true }))

end Sys2Proof.Machine
end

