-- ==== Sys2Proof/Machine/Share.lean ====
section
/-! DEFINITION. Share-sum: verifier records, verdicts and the combination of shares (R165 to R177). -/

namespace Sys2Proof.Machine

-- ------------------------------------------------------------------ arithmetic modulo a prime

/-- Sum modulo p. -/
def sumMod (p : Nat) (l : List Nat) : Nat := l.foldl (fun a b => (a + b) % p) 0

/-- Value of a polynomial with coefficients in ascending degree (R171). -/
def horner (p : Nat) (cs : List Nat) (x : Nat) : Nat := cs.reverse.foldl (fun acc c => (acc * x + c) % p) 0

/-- The transform of R184 in natural order: element j is the sum of a_i × w^(ij). -/
def dft (p w : Nat) (a : List Nat) : List Nat := (List.range a.length).map (fun j => horner p a (powMod w j p))

/-- Its inverse: transform under w^-1 and multiply by M^-1 (R184). -/
def idft (p w : Nat) (a : List Nat) : List Nat :=
  (dft p (invMod p w) a).map (fun v => v * invMod p a.length % p)

/-- The range polynomial: the product of u - v for v from -B to B (R168). -/
def rangePoly (p b u : Nat) : Nat :=
  (List.range (2 * b + 1)).foldl (fun acc i => acc * ((u + (p - (p + i - b) % p)) % p) % p) 1

-- ------------------------------------------------------------------ a share as it was admitted

/-- The payload of an admitted envelope, decrypted from its journal record (R165, R232); empty where its key block does not unwrap,
a tag failure that the sweep of the record reports (R91). -/
def journalPayload (r : Round) (j : JournalRec) (idx : List Nat) : Bytes :=
  match recordKeys r j with
  | none => []
  | some (key, base) =>
    openEnvelope key base j.header ((List.range idx.length).map (fun i => (idx.getD i 0, j.segs.getD i [])))

/-- The journal record of a client. -/
def journalOf (r : Round) (client : Nat) : Option JournalRec := r.journal.find? (fun j => decide (j.client = client))

/-- blind, parts, seed shares and proof coefficients of a payload (R168). -/
structure ProofShare where
  update : Bytes
  elems  : List Nat
  blind  : Bytes
  parts  : List Bytes
  seeds  : List Nat
  coeffs : List Nat
  deriving DecidableEq, Repr

/-- Read a share-sum payload (R165, R168). -/
def parseShare (d : RoundDesc) (q : Proof) (payload : Bytes) : ProofShare :=
  let o := updateBytes d
  let e := o + 16 + 16 * d.aggCount
  { update := payload.take o
    elems := (List.range d.vectorLength).map (packedElem (elemBits d) payload)
    blind := slice payload o 16
    parts := (List.range d.aggCount).map (fun i => slice payload (o + 16 + 16 * i) 16)
    seeds := (List.range q.chunk).map (fun i => field payload (e + 8 * i) 8)
    coeffs := (List.range (proofCoeffs d q)).map (fun i => field payload (e + 8 * q.chunk + 8 * i) 8) }

/-- The joint-randomness part of this aggregator (R169, R171). -/
def ownPart (d : RoundDesc) (client : Nat) (x : ProofShare) : Bytes :=
  (Sys2Proof.Config.sha256 (ascii "CHIELM-PART" ++ toLe 4 d.roundId.toNat ++ toLe 4 client ++ toLe 1 d.aggIndex ++ x.blind
    ++ x.update)).take 16

/-- The first value of a sequence that a test accepts, from index i on, of n values. -/
def searchFrom (g : Nat → Nat) (f : Nat → Bool) : Nat → Nat → Option Nat
  | 0, _ => none
  | n + 1, i => if f (g i) then some (g i) else searchFrom g f n (i + 1)

/-- The first element of G(key) that a test accepts (R170): of all that the 2^64 blocks of the keystream hold (R146, R147); a keystream
without one has no stated result (assumption 133). -/
def firstElem (d : RoundDesc) (key : Bytes) (f : Nat → Bool) : Nat :=
  let w := 2 * laneBytes d.laneFormat
  (searchFrom (keystreamElem 1 key d.roundId w (roundPrime d)) f (2 ^ 68 / w) 0).getD (Sys2Proof.Config.noElement key)

/-- The joint element (R170). -/
def jointElem (d : RoundDesc) (parts : List Bytes) : Nat :=
  firstElem d (Sys2Proof.Config.sha256 (ascii "CHIELM-JR" ++ parts.flatten)) (fun v => decide (v ≠ 0))

/-- The query point (R170). -/
def queryPoint (d : RoundDesc) (q : Proof) (verifyKey : Bytes) (client : Nat) : Nat :=
  firstElem d (Sys2Proof.Config.hmacSha256 verifyKey (ascii "CHIELM-QR" ++ toLe 4 d.roundId.toNat ++ toLe 4 client))
    (fun v => decide (powMod v (2 ^ q.log2m) (roundPrime d) ≠ 1))

/-- The values of wire l at the interpolation points (R171). -/
def wireValues (d : RoundDesc) (q : Proof) (x : ProofShare) (l : Nat) : List Nat :=
  let m := ceilDiv d.vectorLength q.chunk
  (List.range (2 ^ q.log2m)).map (fun j =>
    if j = 0 then x.seeds.getD l 0
    else if j ≤ m ∧ (j - 1) * q.chunk + l < d.vectorLength then x.elems.getD ((j - 1) * q.chunk + l) 0 else 0)

/-- The verifier record of an admitted share (R171). -/
def verifierRecord (d : RoundDesc) (q : Proof) (verifyKey : Bytes) (client : Nat) (payload : Bytes) : VRec :=
  let p := roundPrime d
  let x := parseShare d q payload
  let j := ownPart d client x
  let parts := x.parts.set d.aggIndex j
  let mm := 2 ^ q.log2m
  let m := ceilDiv d.vectorLength q.chunk
  let rho := jointElem d parts
  let r := queryPoint d q verifyKey client
  let w := powMod (proofRoot d q) (2 ^ 20 / mm) p
  let fr := (List.range q.chunk).map (fun l => horner p (idft p w (wireValues d q x l)) r)
  let qs := (List.range mm).map (fun i =>
    sumMod p (((List.range x.coeffs.length).filter (fun k => decide (k % mm = i))).map (fun k => x.coeffs.getD k 0)))
  let e := dft p w qs
  let y := sumMod p ((List.range m).map (fun i => powMod rho (q.chunk * i) p * e.getD (i + 1) 0 % p))
  { jOwn := j, fr := fr, pr := horner p x.coeffs r, y := y }

/-- The verdict of R174 from the envelope's parts and every aggregator's record, ascending. An element of a record that is not below p stands
for its residue (DESIGN CHOICE, assumption 156). -/
def decideClient (d : RoundDesc) (q : Proof) (x : ProofShare) (own : VRec) (recs : List VRec) : Verdict :=
  let p := roundPrime d
  let partsOk := (List.range d.aggCount).all (fun b => decide (x.parts.getD b [] = (recs.getD b own).jOwn))
  let rho := jointElem d (x.parts.set d.aggIndex own.jOwn)
  let g := sumMod p ((List.range q.chunk).map (fun l =>
    powMod rho (l + 1) p * rangePoly p d.boundB (sumMod p (recs.map (fun v => v.fr.getD l 0))) % p))
  if partsOk && decide (sumMod p (recs.map (fun v => v.y)) = 0) && decide (g = sumMod p (recs.map (fun v => v.pr)))
  then .accept else .reject

-- ------------------------------------------------------------------ records on the wire (R172)

/-- The header of a verifier or sum record. -/
def vrecHeader (d : RoundDesc) (client sender receiver : Nat) : Bytes :=
  toLe 4 d.roundId.toNat ++ toLe 4 client ++ toLe 1 sender ++ toLe 1 receiver ++ zeroBytes 6

/-- The nonce of a record. -/
def vrecNonce (client sender receiver : Nat) : Bytes := toLe 4 client ++ toLe 1 sender ++ toLe 1 receiver ++ zeroBytes 6

/-- The body of a verifier record. -/
def vrecBody (v : VRec) : Bytes :=
  padTo 16 v.jOwn ++ ((v.fr ++ [v.pr, v.y]).map (toLe 8)).flatten

/-- Read a verifier record's body. -/
def parseVRec (c : Nat) (b : Bytes) : VRec :=
  { jOwn := slice b 0 16, fr := (List.range c).map (fun i => field b (16 + 8 * i) 8)
    pr := field b (16 + 8 * c) 8, y := field b (24 + 8 * c) 8 }

/-- The key shared with a peer (R166). -/
def peerKey (x : Partition) (d : RoundDesc) (q : Proof) (b : Nat) : Bytes := servingKey x d (BitVec.ofNat 32 (q.peers.toNat + b))

/-- The peers of this aggregator, ascending. -/
def peersOf (d : RoundDesc) : List Nat := (List.range d.aggCount).filter (fun b => decide (b ≠ d.aggIndex))

/-- A record sealed to a peer (R172). -/
def sealToPeer (x : Partition) (d : RoundDesc) (q : Proof) (client b : Nat) (body : Bytes) : Bytes :=
  vrecHeader d client d.aggIndex b
    ++ Sys2Proof.Config.aeadSeal 0 (peerKey x d q b) (vrecNonce client d.aggIndex b) (vrecHeader d client d.aggIndex b) body

/-- Bytes of a verifier record for a chunk c. -/
def vrecLen (c : Nat) : Nat := 16 + 16 + 8 * (c + 2) + 16

-- ------------------------------------------------------------------ closing the last batch, the sum record

/-- Has every admitted client a verdict (R176)? -/
def allDecided (r : Round) : Bool := r.index.all (fun e => decide (verdictOf r e.1 ≠ .undecided))

/-- In UNMASKING the last batch of a share-sum round closes when its verdicts are all in (R176). -/
def closeLastBatch (r : Round) : Round :=
  if r.state = .unmasking ∧ r.desc.mode = 1 ∧ allDecided r = true then closeBatch r (r.nextSeq - 1) else r

/-- The accepted-set digest (R175): SHA-256 over the bitmap of ACCEPT client_ids: n_max bits, the lowest client_id in the lowest bit of
the first byte, rounded up to bytes (DESIGN CHOICE, assumption 130). -/
def acceptedDigest (r : Round) : Bytes :=
  Sys2Proof.Config.sha256 ((bitmap r.desc.nMax (fun i => Table.has r.index i && decide (verdictOf r i = .accept))).take
    (ceilDiv r.desc.nMax 8))

/-- The device's sum share: its committed elements in ascending order, at their lane width. -/
def ledgerBytes (r : Round) : Bytes :=
  ((ownTiles r).map (fun t => ((bankFull r.desc t (getTile r t).prim.committed).map (laneElem r.desc)).flatten)).flatten

/-- Write records into the verifier output buffer, when they fit; none when they do not (R172). -/
def writeRecords (s : State) (p : Nat) (r : Round) (recs : List Bytes) : Option (State × Round) :=
  match r.share.outbuf with
  | none => none
  | some (a, len, port) =>
    let bytes := recs.flatten
    if len < bytes.length then none
    else some (emit s (.data (outPort (getPart s p)) a bytes),
      { r with share := { r.share with
          outbuf := some (a + BitVec.ofNat 64 bytes.length, len - bytes.length, port)
          written := r.share.written + recs.length } })

/-- A VERIFIER_OUT event: the records written so far, and the client_id of the one just written, in result2 [31:0] (R172, R263; the field
is DEDUCED, assumption 126). -/
def verifierOutEvent (s : State) (p client : Nat) (r : Round) : State :=
  addEvent s p { kind := .verifierOut, status := .ok, roundId := r.desc.roundId,
                 result1 := BitVec.ofNat 64 r.share.written, result2 := BitVec.ofNat 64 client }

/-- The peers' shares added to the committed ledger in ascending aggregator_index (R130, R177). The total's entry names UNMASKED, as R201 has
it of what the update pass reads (DEDUCED, assumption 146). -/
def combineShares (r : Round) : Round :=
  let p := roundPrime r.desc
  let r1 := (ownTiles r).foldl (fun a t =>
    let x := getTile a t
    let own := bankFull r.desc t x.prim.committed
    let total := (List.range own.length).map (fun i =>
      sumMod p ((List.range r.desc.aggCount).map (fun b =>
        if b = r.desc.aggIndex then own.getD i 0
        else (Table.getD r.share.sums b []).getD (tileFirst r.desc t + i) 0)))
    setTile a t (mirrorTile { x with prim := { x.prim.commit total with phase := .unmasked }, mirrored := true })) r
  { r1 with share := { r1.share with combined := true } }

/-- The shares are added once the device's own sum record is written and every peer's has arrived, in whichever order (R177). -/
def settleCombine (r : Round) : Round :=
  if r.share.sumSent && !r.share.combined && (peersOf r.desc).all (fun b => Table.has r.share.sums b) then combineShares r else r

/-- Once the last batch is swept, a device whose owner sees the total writes its sum share to each peer: a record of client_id
0xFFFF_FFFF whose body is the accepted-set digest and the share (R177; its body's layout is DESIGN CHOICE, assumption 27). -/
def sendSums (s : State) (p : Nat) : State :=
  match getRound s p with
  | none => s
  | some r =>
    match proofOf (getPart s p) r with
    | none => s
    | some q =>
      if r.state = .unmasking ∧ seesTotal r.desc = true ∧ r.share.sumSent = false ∧ allDecided r = true
          ∧ r.batchW = r.nextSeq - 1 ∧ allSwept r = true ∧ r.lost = false then
        match writeRecords s p r ((peersOf r.desc).map (fun b =>
            sealToPeer (getPart s p) r.desc q 0xFFFFFFFF b (acceptedDigest r ++ ledgerBytes r))) with
        | none => s
        | some (s1, r1) =>
          let r2 := settleCombine { r1 with share := { r1.share with sumSent := true } }
          verifierOutEvent (setRound s1 p r2) p 0xFFFFFFFF r2
      else s

/-- A verdict is given: the last batch may close, and journal bytes of early records are free (R173, R176). -/
def setVerdict (s : State) (p client : Nat) (r : Round) (v : Verdict) : State :=
  let sh := r.share
  let r1 := { r with
    share := { sh with verdicts := Table.put sh.verdicts client v, early := Table.erase sh.early client }
    jUse0 := r.jUse0 - Table.getD sh.early client 0 }
  sendSums (setRound s p (closeLastBatch r1)) p

-- ------------------------------------------------------------------ meanings

/-- The states in which the SHARE commands are taken (R173). -/
def shareStates : List RoundState := [.opened, .closing, .unmasking]

/-- A SHARE command's round: current, in one of the states, of share-sum mode (R44, R173). -/
def shareRound (s : State) (p : Nat) (t : Taken) (states : List RoundState) : Option Round :=
  (namedRound s p t states).bind (fun r => if r.desc.mode = 1 then some r else none)

/-- SHARE_OUTBUF (R172): the verifier output buffer; a later one replaces it. -/
def execShareOutbuf (ref : CmdRef) (s : State) : Host.Outcome State Fault Refusal :=
  .next (withCmd s ref 0x0501 (fun t =>
    match t.part with
    | none => s
    | some p =>
      match shareRound s p t shareStates with
      | none => complete s t .policyDenied
      | some r =>
        let r1 := { r with share := { r.share with outbuf := some (t.desc.address, t.desc.length, fnPort t.ref.fn) } }
        complete (sendSums (setRound s p r1) p) t .ok))

/-- The outcome of one delivered verifier record (R173). -/
inductive RecordOutcome where
  | stored (r : Round)
  | ignored
  | rejected (st : Status)
  | noRoom
  deriving DecidableEq, Repr

/-- One delivered verifier record (R173). A sender that is no peer has no key, and a client_id at or above n_max is
MALFORMED (DEDUCED, assumption 28). The journal space of a record that comes before its client is counted on die AD0 (DESIGN CHOICE,
assumption 128). -/
def takeRecord (x : Partition) (r : Round) (q : Proof) (b : Bytes) : RecordOutcome :=
  let d := r.desc
  let client := field b 4 4
  let sender := field b 8 1
  match Sys2Proof.Config.aeadOpen 0 (peerKey x d q sender) (vrecNonce client sender (field b 9 1)) (slice b 0 16) (b.drop 16) with
  | none => .rejected .authFail
  | some m =>
    if (peersOf d).contains sender = false then .rejected .authFail
    else if field b 0 4 ≠ d.roundId.toNat ∨ field b 9 1 ≠ d.aggIndex ∨ zeros b 10 6 = false ∨ d.nMax ≤ client then
      .rejected .malformed
    else if verdictOf r client ≠ .undecided ∨ Table.has r.share.peers (client, sender) then .ignored
    else
      let sh := { r.share with peers := Table.put r.share.peers (client, sender) (parseVRec q.chunk m) }
      if Table.has r.index client then .stored { r with share := sh }
      else if r.jCap0 < r.jUse0 + b.length then .noRoom
      else .stored { r with
        share := { sh with early := Table.put sh.early client (Table.getD sh.early client 0 + b.length) }
        jUse0 := r.jUse0 + b.length }

/-- The records of a payload in order: the round, the first rejection, and whether space lacked (R173). -/
def takeRecords (x : Partition) (q : Proof) : List Bytes → Round → Option Status → Round × Option Status × Bool
  | [], r, st => (r, st, false)
  | b :: bs, r, st =>
    match takeRecord x r q b with
    | .stored r1 => takeRecords x q bs r1 st
    | .ignored => takeRecords x q bs r st
    | .rejected e => takeRecords x q bs r (some (st.getD e))
    | .noRoom => (r, st, true)

/-- SHARE_VERIFY (R173): each record is checked and stored or ignored; the status is the first rejection's. In a round of proof_kind 0,
and with a buffer that is no whole number of records, the command is MALFORMED as a whole (DESIGN CHOICE, assumption 129). -/
def execShareVerify (ref : CmdRef) (buf : Bytes) (s : State) : Host.Outcome State Fault Refusal :=
  .next (withCmd s ref 0x0502 (fun t =>
    match t.part with
    | none => s
    | some p =>
      match shareRound s p t shareStates with
      | none => complete s t .policyDenied
      | some r =>
        match proofOf (getPart s p) r with
        | none => complete s t .malformed
        | some q =>
          let b := buf.take t.desc.length
          if q.kind = 0 ∨ b.length % vrecLen q.chunk ≠ 0 then complete s t .malformed
          else
            let o := takeRecords (getPart s p) q (pieces (vrecLen q.chunk) b) r none
            if o.2.2 then completeRetryFree (setRound s p o.1) t
            else complete (setRound s p o.1) t (o.2.1.getD .ok)))

/-- SHARE_DROP (R175): an undecided client is REJECT; for a decided one nothing happens. -/
def execShareDrop (ref : CmdRef) (s : State) : Host.Outcome State Fault Refusal :=
  .next (withCmd s ref 0x0503 (fun t =>
    match t.part with
    | none => s
    | some p =>
      match shareRound s p t shareStates with
      | none => complete s t .policyDenied
      | some r =>
        let client := t.desc.param 4 4
        if r.desc.nMax ≤ client then complete s t .range
        else if verdictOf r client ≠ .undecided then complete s t .ok
        else complete (setVerdict s p client r .reject) t .ok))

/-- One delivered sum record: its sender's share, when it verifies and its digest is the device's own (R177). An element at or above p
stands for its residue (DESIGN CHOICE, assumption 131). -/
def takeSum (x : Partition) (r : Round) (q : Proof) (b : Bytes) : Except Status Round :=
  let d := r.desc
  let sender := field b 8 1
  match Sys2Proof.Config.aeadOpen 0 (peerKey x d q sender) (vrecNonce (field b 4 4) sender (field b 9 1)) (slice b 0 16) (b.drop 16) with
  | none => .error .authFail
  | some m =>
    let w := laneBytes d.laneFormat
    if (peersOf d).contains sender = false then .error .authFail
    else if field b 0 4 ≠ d.roundId.toNat ∨ field b 4 4 ≠ 0xFFFFFFFF ∨ field b 9 1 ≠ d.aggIndex ∨ zeros b 10 6 = false
        ∨ m.length ≠ 32 + d.vectorLength * w then .error .malformed
    else if m.take 32 ≠ acceptedDigest r then .error .policyDenied
    else
      let elems := (List.range d.vectorLength).map (fun i => field m (32 + i * w) w % roundPrime d)
      .ok { r with share := { r.share with sums := Table.put r.share.sums sender elems } }

/-- Sum records in order, up to the first that is refused. -/
def takeSums (x : Partition) (q : Proof) : List Bytes → Round → Round × Option Status
  | [], r => (r, none)
  | b :: bs, r =>
    match takeSum x r q b with
    | .error st => (r, some st)
    | .ok r1 => takeSums x q bs r1

/-- SHARE_COMBINE (R177): taken in UNMASKING of a round whose owner sees the total; once every peer's record has arrived and
the device's own is written, the shares are added. -/
def execShareCombine (ref : CmdRef) (buf : Bytes) (s : State) : Host.Outcome State Fault Refusal :=
  .next (withCmd s ref 0x0504 (fun t =>
    match t.part with
    | none => s
    | some p =>
      match shareRound s p t [.unmasking], (getRound s p).bind (proofOf (getPart s p)) with
      | some r, some q =>
        let len := 16 + 32 + r.desc.vectorLength * laneBytes r.desc.laneFormat + 16
        let b := buf.take t.desc.length
        if seesTotal r.desc = false ∨ r.share.combined then complete s t .policyDenied
        else if b.length % len ≠ 0 then complete s t .malformed
        else
          let o := takeSums (getPart s p) q (pieces len b) r
          complete (setRound s p (settleCombine o.1)) t (o.2.getD .ok)
      | _, _ => complete s t .policyDenied))

/-- VERIFIER_RECORD (R171, R172, R249): the record of an admitted share, also of one that SHARE.DROP has decided, is computed once a
VERIFY work has run on the share, and one is written for each peer. It waits while the output buffer has no room. -/
def execVerifierRecord (p : Nat) (client : Nat) (s : State) : Host.Outcome State Fault Refusal :=
  .next (match getRound s p with
    | none => s
    | some r =>
      match proofOf (getPart s p) r, journalOf r client with
      | some q, some j =>
        if q.kind ≠ 1 ∨ shareStates.contains r.state = false ∨ r.lost ∨ Table.has r.share.own client
            ∨ r.share.verified.contains client = false ∨ canStep s p = false then s
        else
          let v := verifierRecord r.desc q (servingKey (getPart s p) r.desc q.verify) client (journalPayload r j (ownSegs r (some q)))
          match writeRecords s p r ((peersOf r.desc).map (fun b => sealToPeer (getPart s p) r.desc q client b (vrecBody v))) with
          | none => s
          | some (s1, r1) =>
            let r2 := { r1 with share := { r1.share with own := Table.put r1.share.own client v } }
            verifierOutEvent (setRound s1 p r2) p client r2
      | _, _ => s)

/-- CLIENT_DECIDE (R174): with its own record and one from every peer, the device decides a client. -/
def execClientDecide (p : Nat) (client : Nat) (s : State) : Host.Outcome State Fault Refusal :=
  .next (match getRound s p with
    | none => s
    | some r =>
      match proofOf (getPart s p) r, journalOf r client, Table.get? r.share.own client with
      | some q, some j, some own =>
        let recs := (List.range r.desc.aggCount).map (fun b =>
          if b = r.desc.aggIndex then some own else Table.get? r.share.peers (client, b))
        if q.kind ≠ 1 ∨ shareStates.contains r.state = false ∨ verdictOf r client ≠ .undecided
            ∨ recs.contains none = true then s
        else setVerdict s p client r (decideClient r.desc q
          (parseShare r.desc q (journalPayload r j (ownSegs r (some q)))) own (recs.map (fun v => v.getD own)))
      | _, _, _ => s)

end Sys2Proof.Machine
end

