-- ==== Sys2Proof/Machine/Cipher.lean ====
section
/-! DEFINITION. Cipher-sum: key sets, the ciphertext store, levels and budgets, key switching, the phases of REFRESH (R179 to R197). -/

namespace Sys2Proof.Machine

-- ------------------------------------------------------------------ key sets

/-- Bytes of a parameter block (R179). -/
def paramBlockLen (limbs special : Nat) : Nat := 0x20 + 16 * (limbs + special) + 2 * limbs

/-- Bytes of the public key: one ciphertext body at the top level (the spec gives no length: DESIGN CHOICE, assumption 29). -/
def publicKeyLen (log2n limbs : Nat) : Nat := 16 * limbs * 2 ^ log2n

/-- The 8-byte words of a body. -/
def bodyWords (b : Bytes) : List Nat := (pieces 8 b).map leNat

/-- Bytes of one evaluation-key stream: header and body (R183). -/
def evalKeyLen (k : KeySet) : Nat := 64 + 16 * (ceilDiv k.limbs k.digitLimbs) * (k.limbs + k.special) * 2 ^ k.log2n

/-- The checks of a parameter block's values (R179). -/
def keySetRanges (k : KeySet) : Bool :=
  let n2 := 2 ^ (k.log2n + 1)
  decide (14 ≤ k.log2n ∧ k.log2n ≤ 17 ∧ 1 ≤ k.limbs ∧ k.limbs ≤ 48 ∧ 1 ≤ k.special ∧ k.special ≤ 8
      ∧ 1 ≤ k.digitLimbs ∧ k.digitLimbs ≤ k.limbs ∧ 2 ≤ k.refreshOut ∧ k.refreshOut ≤ k.limbs)
    && decide (k.modulus % n2 = 1) && isPrime k.modulus
    && (k.primes.zip k.roots).all (fun e => decide (e.1 < 2 ^ 60 ∧ e.1 % n2 = 1) && isPrime e.1
        && decide (e.2 < e.1) && decide (powMod e.2 (2 ^ k.log2n) e.1 = e.1 - 1))

/-- The key set that a KEYSET record's parameter block and public key spell, without its evaluation keys (R179, R180). -/
def parseKeySet (b : Bytes) : KeySet :=
  let l := field b 3 1
  let a := field b 4 1
  let n := field b 2 1
  let pl := paramBlockLen l a
  let pk := slice b pl (publicKeyLen n l)
  { fingerprint := field (Sys2Proof.Config.sha256 (ascii "CHIELM-KS" ++ b.take pl ++ Sys2Proof.Config.sha256 pk)) 0 8
    log2n := n, limbs := l, special := a, digitLimbs := field b 5 1, refreshOut := field b 6 1
    modulus := field b 8 8, freshBudget := field b 0x10 2, outBudget := field b 0x12 2
    primes := (List.range (l + a)).map (fun i => field b (0x20 + 16 * i) 8)
    roots := (List.range (l + a)).map (fun i => field b (0x28 + 16 * i) 8)
    levelCap := (List.range l).map (fun i => field b (0x20 + 16 * (l + a) + 2 * i) 2)
    publicKey := pk, evalKeys := [] }

/-- One evaluation-key stream, when its header agrees with the set and its body with its digest (R183). -/
def parseEvalKey (k : KeySet) (b : Bytes) : Option (Nat × Nat × Nat × List Nat) :=
  let body := b.drop 64
  let kind := field b 2 1
  let g := field b 4 4
  if field b 0 2 = 1 ∧ kind ≤ 2 ∧ field b 3 1 = k.log2n ∧ (if kind = 1 then g % 2 = 1 ∧ g < 2 ^ (k.log2n + 1) else g = 0)
      ∧ field b 0x10 1 = ceilDiv k.limbs k.digitLimbs ∧ field b 0x11 1 = k.limbs ∧ field b 0x12 1 = k.special
      ∧ zeros b 0x13 5 = true ∧ field b 0x18 8 = body.length ∧ slice b 0x20 32 = Sys2Proof.Config.sha256 body then
    some (kind, g, field b 8 8, bodyWords body)
  else none

/-- The streams of a record, all of them well-formed. -/
def parseEvalKeys (k : KeySet) : List Bytes → Option (List (Nat × Nat × Nat × List Nat))
  | [] => some []
  | b :: bs => match parseEvalKey k b, parseEvalKeys k bs with
    | some e, some es => some (e :: es)
    | _, _ => none

/-- A KEYSET record's content: the set, or the status of a content that breaks R179 or R183 (assumption 29). -/
def readKeySet (b : Bytes) : Except Status KeySet :=
  let k := parseKeySet b
  let rest := b.drop (paramBlockLen k.limbs k.special + publicKeyLen k.log2n k.limbs)
  if field b 0 2 ≠ 1 ∨ zeros b 7 1 = false ∨ zeros b 0x14 12 = false ∨ b.length < 0x20 then .error .malformed
  else if keySetRanges k = false then .error .range
  else if b.length < paramBlockLen k.limbs k.special + publicKeyLen k.log2n k.limbs ∨ rest.length % evalKeyLen k ≠ 0 then
    .error .malformed
  else match parseEvalKeys k (pieces (evalKeyLen k) rest) with
    | none => .error .malformed
    | some es => .ok { k with evalKeys := es }

/-- The lowest free set slot of four (R179, R248). -/
def freeSetSlot {α : Type} (t : Table Nat α) : Option Nat := (List.range 4).find? (fun i => !Table.has t i)

/-- KEYSET_LOAD (R179, R180): a key set is installed in a free slot. -/
def execKeysetLoad (ref : CmdRef) (buf : Bytes) (s : State) : Host.Outcome State Fault Refusal :=
  .next (withKeeper s ref 0x0801 (fun s t =>
    match t.part with
    | none => s
    | some p =>
      let x := getPart s p
      match openRecord x.session t.desc.counter.toNat 3 (buf.take t.desc.length) with
      | .error st => complete s t st
      | .ok o =>
        match freeSetSlot x.keySets with
        | none => complete s t .range
        | some i =>
          match readKeySet o.content with
          | .error st => complete s t st
          | .ok k => complete (setPart s p { x with keySets := Table.put x.keySets i k }) t .ok { r0 := i }))

/-- Does a KSW stream from the set: a REFRESH runs on a ciphertext of its fingerprint (R180, R191)? -/
def keySetBusy (x : Partition) (k : KeySet) : Bool :=
  x.store.any (fun e => e.2.refreshing.isSome && decide (e.2.fingerprint = k.fingerprint))

/-- Does an open round name the fingerprint (R180)? -/
def roundNamesKeySet (x : Partition) (fp : Nat) : Bool :=
  match x.round with
  | none => false
  | some r => decide (r.desc.mode = 2 ∧ r.desc.ksFingerprint = fp ∧ r.state ≠ .retired ∧ r.state ≠ .aborted)

/-- KEYSET_UNLOAD (R179, R180). -/
def execKeysetUnload (ref : CmdRef) (s : State) : Host.Outcome State Fault Refusal :=
  .next (withCmd s ref 0x0802 (fun t =>
    match t.part with
    | none => s
    | some p =>
      let x := getPart s p
      let i := t.desc.param 0 1
      if 3 < i then complete s t .range
      else match Table.get? x.keySets i with
        | none => complete s t .ok
        | some k =>
          if roundNamesKeySet x k.fingerprint then complete s t .policyDenied
          else if keySetBusy x k then updTaken s { t with waiting := true }
          else complete (setPart s p { x with keySets := Table.erase x.keySets i }) t .ok))

/-- Does a work of the partition run from a set slot, on a caravan or saved (R248)? -/
def itinBusy (s : State) (p i : Nat) : Bool :=
  s.caravans.any (fun e => e.2.work.any (fun w => decide (w.part = p ∧ w.setSlot = i)))
    || (getPart s p).saved.any (fun e => decide (e.2.setSlot = i))

/-- Unloads that waited and are due now complete (R180, R248). -/
def settleUnloadList : List Taken → State → State
  | [], s => s
  | t :: ts, s =>
    match t.part with
    | none => settleUnloadList ts s
    | some p =>
      let x := getPart s p
      let i := t.desc.param 0 1
      if t.waiting ∧ t.desc.opcode = 0x0802 ∧ ((Table.get? x.keySets i).all (fun k => !keySetBusy x k)) = true then
        settleUnloadList ts (complete (setPart s p { x with keySets := Table.erase x.keySets i }) t .ok)
      else if t.waiting ∧ t.desc.opcode = 0x0902 ∧ itinBusy s p i = false then
        settleUnloadList ts (complete (setPart s p { x with itins := Table.erase x.itins i }) t .ok)
      else settleUnloadList ts s

/-- Settle every waiting unload. -/
def settleUnloads (s : State) : State := settleUnloadList s.cmd.taken s

-- ------------------------------------------------------------------ levels and budgets

/-- A budget after an operation: what remains, not below 0, capped for the level (R188). -/
def cappedBudget (k : KeySet) (level : Nat) (b cost : Nat) : Nat := min (b - cost) (k.levelCap.getD level 0)

/-- The numbers of a key set's parameter block (R179). -/
def keyNumbers (k : KeySet) : List (List Nat) :=
  [[k.log2n, k.limbs, k.special, k.digitLimbs, k.refreshOut, k.modulus], k.primes, k.roots]

/-- Those numbers with the evaluation keys (R179, R183). -/
def keyMaterial (k : KeySet) : List (List Nat) :=
  keyNumbers k ++ k.evalKeys.map (fun e => e.1 :: e.2.1 :: e.2.2.1 :: e.2.2.2)

/-- Words as a body of a level: as many as the level has, each below its limb's prime, whatever an operation without a stated
formula yields (R182). -/
def canonBody (k : KeySet) (level : Nat) (l : List Nat) : List Nat :=
  (List.range (2 * (level + 1) * 2 ^ k.log2n)).map (fun j =>
    l.getD j 0 % k.primes.getD (j / 2 ^ k.log2n % (level + 1)) 1)

/-- The ciphertext at a lower or equal level: modulus-switched down where it has more limbs (R188). -/
def switchDown (k : KeySet) (c : Cipher) (level : Nat) : Cipher :=
  if c.level ≤ level then c
  else { c with level := level, body := canonBody k level (Sys2Proof.Config.modSwitchBody (keyNumbers k) (level + 1) c.body) }

/-- Body words added limb by limb modulo the limb's prime, in the order of R182. -/
def addBodies (k : KeySet) (level : Nat) (a b : List Nat) : List Nat :=
  (List.range (2 * (level + 1) * 2 ^ k.log2n)).map (fun j =>
    (a.getD j 0 + b.getD j 0) % k.primes.getD (j / 2 ^ k.log2n % (level + 1)) 1)

/-- The digits of a transform position: pass lengths of R185, first pass first. -/
def passLayers (n : Nat) : List Nat :=
  let p := ceilDiv n 5
  (List.range p).map (fun i => if i = 0 then n - 5 * (p - 1) else 5)

/-- Position of the output j in digit-reversed order: the sum of each digit times its pass's stride, digits taken from the
least significant one (R185). -/
def digitPosAux : List Nat → Nat → Nat → Nat
  | [], _, _ => 0
  | l :: ls, n, j => (j % 2 ^ l) * 2 ^ (n - l) + digitPosAux ls (n - l) (j / 2 ^ l)

/-- Position of the output j of a transform of length 2^n (R185). -/
def digitPos (n j : Nat) : Nat := digitPosAux (passLayers n) n j

/-- The output index at a position: the inverse of digitPos, digit by digit. -/
def digitIndexAux : List Nat → Nat → Nat → Nat
  | [], _, _ => 0
  | l :: ls, n, q => q / 2 ^ (n - l) + 2 ^ l * digitIndexAux ls (n - l) (q % 2 ^ (n - l))

/-- The output index that stands at a position of a transform of length 2^n. -/
def digitIndex (n q : Nat) : Nat := digitIndexAux (passLayers n) n q

/-- Where AUTO takes the word of a position from: X to X^g sends the evaluation at psi^(2j+1) to that at psi^(g(2j+1))
(R184). -/
def autoSource (n g q : Nat) : Nat :=
  digitPos n (((g * (2 * digitIndex n q + 1)) % 2 ^ (n + 1) - 1) / 2)

/-- AUTO on a list of polynomials of length 2^n in NTT form (R184). -/
def autoBody (n g : Nat) (body : List Nat) : List Nat :=
  (List.range body.length).map (fun j => body.getD (j / 2 ^ n * 2 ^ n + autoSource n g (j % 2 ^ n)) 0)

/-- 5^s modulo 2N for a signed s: the exponent counts modulo N/2, the order of 5. -/
def rotElement (log2n s32 : Nat) : Nat :=
  let order := 2 ^ (log2n - 1)
  let e := if s32 < 2 ^ 31 then s32 % order else (order - (2 ^ 32 - s32) % order) % order
  powMod 5 e (2 ^ (log2n + 1))

/-- The galois element of a CT.ROT: 5^s, times 2N - 1 when it conjugates (R184; both together is DEDUCED, assumption 30). -/
def rotationElement (log2n s32 : Nat) (conj : Bool) : Nat :=
  let g := rotElement log2n s32
  if conj then g * (2 ^ (log2n + 1) - 1) % 2 ^ (log2n + 1) else g

/-- The outcome of a key switch (R191): the new body, or both fingerprints and the stream's galois element. -/
inductive KswOutcome where
  | done (body : List Nat)
  | mismatch (cipherFp keyFp galois : Nat)
  deriving DecidableEq, Repr

/-- What a KSW at a level reads of an evaluation key's body (R192): the digits j < ⌈ℓ_c ÷ g⌉ and, in each digit and component, limbs 0 to
ℓ_c - 1 and the special limbs, in the layout of R183. -/
def keyWords (k : KeySet) (level : Nat) (body : List Nat) : List Nat :=
  let n := 2 ^ k.log2n
  let limbs := List.range (level + 1) ++ (List.range k.special).map (fun i => k.limbs + i)
  (List.range (2 * ceilDiv (level + 1) k.digitLimbs)).flatMap (fun jc =>
    limbs.flatMap (fun i => (body.drop ((jc * (k.limbs + k.special) + i) * n)).take n))

/-- A key switch under an evaluation key of the set (R191, R192); where none is named, nothing matches. -/
def keySwitch (s : KeySet) (c : Cipher) (body : List Nat) (kind g : Nat) (key : Option (Nat × Nat × Nat × List Nat)) : KswOutcome :=
  match key with
  | none => .mismatch c.fingerprint 0 0
  | some (k, kg, fp, kb) =>
    if k = kind ∧ kg = g ∧ fp = c.fingerprint then
      .done (canonBody s c.level (Sys2Proof.Config.keySwitchBody (keyNumbers s) body (keyWords s c.level kb)))
    else .mismatch c.fingerprint fp kg

/-- The Galois key of an element: the stream that names it, or the set's first Galois stream to compare with. -/
def galoisKey (k : KeySet) (g : Nat) : Option (Nat × Nat × Nat × List Nat) :=
  match k.evalKeys.find? (fun e => decide (e.1 = 1 ∧ e.2.1 = g)) with
  | some e => some e
  | none => k.evalKeys.find? (fun e => decide (e.1 = 1))

-- ------------------------------------------------------------------ REFRESH

/-- Is a lookup table well-formed for a plaintext modulus (R194)? -/
def lutOk (t lut : Nat) (b : Bytes) : Bool :=
  let e := field b 4 4
  decide (field b 0 2 = 1 ∧ field b 2 2 = lut ∧ 2 ≤ e ∧ e ≤ 65536 ∧ 2 ^ (bitLen e - 1) = e ∧ field b 8 8 = t)
    && zeros b 0x10 16 && decide (b.length = 0x20 + 8 * e)
    && (List.range e).all (fun i => decide (field b (0x20 + 8 * i) 8 < t))

/-- Entries of a lookup table of the round's set: none for an absent or ill-formed table, the empty list for the identity, which
has number 0 (R194). -/
def lutEntries (x : Partition) (r : Round) (k : KeySet) (lut : Nat) : Option (List Nat) :=
  if lut = 0 then some []
  else match (namedItin x r.desc.itinDigest).bind (fun e => constBody e.2 3 lut) with
    | none => none
    | some b => if lutOk k.modulus lut b then
        some ((List.range (field b 4 4)).map (fun i => field b (0x20 + 8 * i) 8)) else none

/-- Store key of the private copy that a command makes of another channel's ciphertext (R190): beyond every handle. -/
def copyKey (order handle : Nat) : Nat := (order + 1) * 2 ^ 32 + handle % 2 ^ 32

/-- The first evaluation key that a KSW inside a REFRESH would refuse: relinearisation and refresh keys must be there, and
every stream carry the ciphertext's fingerprint (R191; which streams a REFRESH reads is DESIGN CHOICE, assumption 31). -/
def refreshMismatch (k : KeySet) (c : Cipher) : Option (Nat × Nat) :=
  match k.evalKeys.find? (fun e => decide (e.2.2.1 ≠ c.fingerprint)) with
  | some e => some (e.2.2.1, e.2.1)
  | none =>
    if k.evalKeys.any (fun e => decide (e.1 = 0)) && k.evalKeys.any (fun e => decide (e.1 = 2)) then none else some (0, 0)

/-- The forward differences of a list at its first entry, modulo t. -/
def differencesAux (t : Nat) : Nat → List Nat → List Nat
  | 0, _ => []
  | n + 1, l => l.headD 0 % t :: differencesAux t n ((l.zip (l.drop 1)).map (fun e => (e.2 + t - e.1 % t) % t))

/-- The sum of the differences times the binomials C(u, j), from j on, b being C(u, j) modulo the prime t. -/
def newtonSum (t u : Nat) : Nat → Nat → List Nat → Nat
  | _, _, [] => 0
  | j, b, d :: l => (b * d + newtonSum t u (j + 1) (b * ((u + t - j % t) % t) % t * invMod t ((j + 1) % t) % t) l) % t

/-- F (R195): the polynomial of degree below E with F((i - E/2) mod t) = entry i, at a value v of Z_t. Centred values in [-E/2, E/2) take
the entry at v + E/2; any other value takes Newton's form of the same polynomial. -/
def lutPoly (t : Nat) (entries : List Nat) (v : Nat) : Nat :=
  let u := (v + entries.length / 2) % t
  if u < entries.length then entries.getD u 0 % t
  else newtonSum t u 0 (1 % t) (differencesAux t entries.length entries)

/-- The table's function: F, and F(v) = v for the identity, which has no entries (R194, R195). -/
def lutValue (t : Nat) (entries : List Nat) (v : Nat) : Nat := if entries = [] then v else lutPoly t entries v

/-- ⌈√E⌉ for a table of at most 65,536 entries. -/
def ceilRoot (e : Nat) : Nat := ((List.range 257).find? (fun x => decide (e ≤ x * x))).getD 256

/-- Beats of stream entry that a phase takes (R196): the table's for N = 2^16 and 24 limbs, Damesh's for others. -/
def phaseBeats (k : KeySet) (entries : List Nat) (phase : Nat) : Nat :=
  if k.log2n = 16 ∧ k.limbs = 24 then
    (if phase = 1 then 970000 else if phase = 2 then 6400000
     else if phase = 3 then (if entries = [] then 3200000 else 200000 * (16 + 2 * ceilRoot entries.length))
     else if phase = 4 then 6400000 else 430000)
  else Sys2Proof.Config.refreshBeats (keyNumbers k) phase entries.length

/-- The partial output after a phase (R196): the lift starts from limb 0; phase 3 applies the table's function to every slot's value
(R193); phase 5 switches the modulus to l_o limbs. -/
def phaseWords (k : KeySet) (c : Cipher) (entries : List Nat) (phase : Nat) (words : List Nat) : List Nat :=
  if phase = 1 then Sys2Proof.Config.refreshPhase (keyMaterial k) 1 (switchDown k c 0).body
  else if phase = 3 then
    Sys2Proof.Config.slotCipher (keyNumbers k) words
      ((Sys2Proof.Config.slotValues (keyNumbers k) c.body).map (lutValue k.modulus entries))
  else if phase = 5 then
    canonBody k (k.refreshOut - 1) (Sys2Proof.Config.modSwitchBody (keyNumbers k) k.refreshOut words)
  else Sys2Proof.Config.refreshPhase (keyMaterial k) phase words

/-- A REFRESH begins at phase 1 (R196, R197). -/
def startRefresh (k : KeySet) (lut : Nat) (entries : List Nat) : Refreshing := { lut := lut, left := phaseBeats k entries 1 }

/-- The phase that runs ends: its output stands, and the next one begins (R196). -/
def endPhase (k : KeySet) (c : Cipher) (entries : List Nat) (f : Refreshing) : Refreshing :=
  { f with phase := f.phase + 1, left := phaseBeats k entries (f.phase + 1), words := phaseWords k c entries f.phase f.words }

/-- A step of a REFRESH takes up to so many beats of entry and ends at the latest with its phase (R196). -/
def refreshStep (k : KeySet) (c : Cipher) (entries : List Nat) (beats : Nat) (f : Refreshing) : Refreshing :=
  if 5 < f.phase then f else if f.left ≤ beats then endPhase k c entries f else { f with left := f.left - beats }

/-- The output of a REFRESH (R193, R197): level l_o - 1 at refresh_out_budget, capped, with the words that phase 5 has left. -/
def refreshed (k : KeySet) (c : Cipher) (f : Refreshing) : Cipher :=
  { c with
    level := k.refreshOut - 1
    budget := cappedBudget k (k.refreshOut - 1) k.outBudget 0
    body := f.words
    refreshing := none }

/-- A step of the REFRESH of a ciphertext in the partition's store (R196). -/
def stepRefresh (x : Partition) (r : Round) (h beats : Nat) : Partition :=
  match Table.get? x.store h, roundKeySet x r.desc with
  | some c, some k =>
    match c.refreshing with
    | none => x
    | some f =>
      let f1 := refreshStep k c ((lutEntries x r k f.lut).getD []) beats f
      { x with store := Table.put x.store h { c with refreshing := some f1 } }
  | _, _ => x

-- ------------------------------------------------------------------ CT commands

/-- The CT commands as operations. -/
inductive CtOp where
  | add (a b : Nat)
  | pmul (a w : Nat) (plain : List Nat)
  | rot (a g : Nat)
  | lut (a id : Nat)
  deriving DecidableEq, Repr

/-- Operands of an operation. -/
def CtOp.operands : CtOp → List Nat
  | .add a b => if a = b then [a] else [a, b]
  | .pmul a _ _ => [a]
  | .rot a _ => [a]
  | .lut a _ => [a]

/-- Budget that an operation takes from one operand (R188). log2_n ÷ 2 of an odd log2_n is rounded down (DESIGN CHOICE, assumption
118). -/
def CtOp.cost (k : KeySet) : CtOp → Nat
  | .add _ _ => 1
  | .pmul _ w _ => w + k.log2n / 2 + 4
  | .rot _ _ => 2
  | .lut _ _ => 0

/-- Does the operation need a level (R188)? -/
def CtOp.needsLevel : CtOp → Bool
  | .pmul _ _ _ => true
  | _ => false

/-- Does an operand cause a shortfall on a refresh channel: no level left, or a predicted budget below the threshold (R190)? -/
def shortfall (k : KeySet) (threshold : Nat) (op : CtOp) (c : Cipher) : Bool :=
  let lv := if op.needsLevel then c.level - 1 else c.level
  (op.needsLevel && decide (c.level = 0)) || decide (cappedBudget k lv c.budget (op.cost k) < threshold)

/-- The aggregate of a cipher-sum round as K store entries: level l - 1, channel 0 (R182, R188). -/
def aggregateEntries (x : Partition) (r : Round) (k : KeySet) : Partition :=
  let d := r.desc
  let flat := ((ownTiles r).map (fun t => bankFull d t (getTile r t).prim.committed)).flatten
  let admitted := r.index.length
  let cs := (List.range (d.vectorLength / d.rowLength)).map (fun i =>
    ({ level := k.limbs - 1, ntt := true, channel := 0, fingerprint := k.fingerprint
       budget := cappedBudget k (k.limbs - 1) k.freshBudget (ceilLog2 admitted)
       body := (flat.drop (i * d.rowLength)).take d.rowLength } : Cipher))
  cs.foldl (fun y c => { y with store := Table.put y.store y.nextHandle c, nextHandle := y.nextHandle + 1 }) x

end Sys2Proof.Machine
end

