-- ==== Sys2Proof/Machine/Itineraries.lean ====
section
/-! DEFINITION. Itinerary sets: the Falnyx instruction word, the checks of ITIN.LOAD, and ITIN.LOAD and ITIN.UNLOAD
(R233 to R235, R247 to R251, R447). -/

namespace Sys2Proof.Machine

-- ------------------------------------------------------------------ the instruction word

/-- The opcode of a word: bits [63:56] (R233). -/
def wordOp (w : W64) : Nat := bits w.toNat 56 8

/-- The other fields of a word (R233). -/
def wordFields (w : W64) : FWord :=
  { cls := BitVec.ofNat 4 (bits w.toNat 52 4), domain := BitVec.ofNat 4 (bits w.toNat 48 4)
    dst := BitVec.ofNat 4 (bits w.toNat 44 4), srcA := BitVec.ofNat 4 (bits w.toNat 40 4)
    srcB := BitVec.ofNat 4 (bits w.toNat 36 4), modif := BitVec.ofNat 4 (bits w.toNat 32 4)
    imm := BitVec.ofNat 32 w.toNat }

/-- The word that an opcode and fields spell (R233). -/
def wordOf (op : Nat) (f : FWord) : W64 :=
  BitVec.ofNat 64 (op % 256 * 2 ^ 56 + f.cls.toNat * 2 ^ 52 + f.domain.toNat * 2 ^ 48 + f.dst.toNat * 2 ^ 44
    + f.srcA.toNat * 2 ^ 40 + f.srcB.toNat * 2 ^ 36 + f.modif.toNat * 2 ^ 32 + f.imm.toNat)

/-- One row of the encoding tables: opcode, class (none for BYP, which carries 0x1 to 0x9), domains (empty for none), the
bounds of dst, src_a and src_b (a field must be below its bound; 1 for an unused field), and the highest modifier
(R234, R235, R244, R447). -/
structure OpRow where
  op    : Nat
  cls   : Option Nat
  doms  : List Nat := []
  dst   : Nat := 1
  srcA  : Nat := 1
  srcB  : Nat := 1
  modif : Nat := 0
  deriving DecidableEq, Repr

/-- Sequencer rows (class 0x0) and BYP. -/
def opRowsSeq : List OpRow :=
  [ { op := 0x00, cls := some 0 }, { op := 0x01, cls := some 0, dst := 16, modif := 1 },
    { op := 0x02, cls := some 0, dst := 16, srcA := 16, srcB := 16, modif := 1 },
    { op := 0x03, cls := some 0, dst := 16, srcA := 16, srcB := 16, modif := 1 },
    { op := 0x04, cls := some 0, dst := 16, srcA := 16, srcB := 16, modif := 1 },
    { op := 0x05, cls := some 0, dst := 16, srcA := 16, srcB := 16, modif := 1 },
    { op := 0x06, cls := some 0, dst := 16, srcA := 16, srcB := 16, modif := 3 },
    { op := 0x07, cls := some 0, dst := 16, srcA := 16, srcB := 16, modif := 1 },
    { op := 0x08, cls := some 0, dst := 8, srcA := 16, srcB := 16, modif := 11 },
    { op := 0x09, cls := some 0, srcA := 16 }, { op := 0x0A, cls := some 0, srcA := 16 },
    { op := 0x0B, cls := some 0, dst := 8, modif := 1 }, { op := 0x0C, cls := some 0, dst := 16 },
    { op := 0x0D, cls := some 0, dst := 16, srcA := 16, modif := 5 },
    { op := 0x0E, cls := some 0, dst := 4, srcA := 16, srcB := 16 }, { op := 0x10, cls := some 0 },
    { op := 0x11, cls := some 0, dst := 16, srcA := 16, modif := 1 }, { op := 0x12, cls := some 0, modif := 3 },
    { op := 0x13, cls := none } ]

/-- Stage rows. -/
def opRowsStage : List OpRow :=
  [ { op := 0x20, cls := some 1, srcA := 16, modif := 3 },
    { op := 0x28, cls := some 2, doms := [1, 2, 3, 4], modif := 1 },
    { op := 0x30, cls := some 3, srcA := 16, srcB := 16 },
    { op := 0x31, cls := some 3, doms := [1, 2, 3], srcA := 16, srcB := 16, modif := 2 },
    { op := 0x40, cls := some 4, doms := [1, 2, 3, 4, 5], dst := 3, srcA := 16, srcB := 16 },
    { op := 0x41, cls := some 4, doms := [1, 2, 3, 4], dst := 3, srcA := 16, srcB := 16 },
    { op := 0x42, cls := some 4, doms := [1, 2, 3, 4], dst := 3, srcA := 16, srcB := 16, modif := 1 },
    { op := 0x50, cls := some 5, modif := 1 }, { op := 0x51, cls := some 5, modif := 1 },
    { op := 0x52, cls := some 5, srcA := 4, modif := 1 }, { op := 0x53, cls := some 5, srcA := 4 },
    { op := 0x60, cls := some 6, modif := 1 },
    { op := 0x70, cls := some 7, doms := [2, 3, 4], modif := 1 }, { op := 0x71, cls := some 7, doms := [2, 3, 4], modif := 1 },
    { op := 0x72, cls := some 7, doms := [2, 3, 4] },
    { op := 0x80, cls := some 8, dst := 16, srcA := 16, modif := 3 }, { op := 0x81, cls := some 8 },
    { op := 0x82, cls := some 8, srcA := 16, srcB := 16, modif := 1 }, { op := 0x83, cls := some 8, srcA := 16 },
    { op := 0x84, cls := some 8, dst := 16, srcA := 16, modif := 2 },
    { op := 0x90, cls := some 9, srcA := 16, modif := 1 }, { op := 0x91, cls := some 9, dst := 16, modif := 1 },
    { op := 0xA0, cls := some 10, dst := 16, srcA := 16 }, { op := 0xA1, cls := some 10, srcA := 16 } ]

/-- The row of an opcode. -/
def opRow (op : Nat) : Option OpRow := (opRowsSeq ++ opRowsStage).find? (fun r => decide (r.op = op))

/-- The operand that depends on the modifier: Xb or the immediate (R447), the destinations of STEP and SWEEP, the condition
codes of CMP, and the COMBINE selectors of R242. -/
def formOk (op : Nat) (f : FWord) : Bool :=
  if 0x02 ≤ op ∧ op ≤ 0x08 then
    (if f.modif.getLsbD 0 then decide (f.srcB = 0) else decide (f.imm = 0)) && decide (op ≠ 0x08 ∨ f.modif.toNat / 2 ≤ 5)
  else if op = 0x0B then decide (f.modif = 1 ∨ f.dst = 0)
  else if op = 0x11 then f.modif.getLsbD 0 || decide (f.dst = 0)
  else if 0x40 ≤ op ∧ op ≤ 0x42 then
    decide (f.dst ≠ 1) && decide (f.srcA.toNat < 4 ∨ 8 ≤ f.srcA.toNat) && decide (f.srcB.toNat < 4 ∨ 8 ≤ f.srcB.toNat)
  else true

/-- Is the immediate in its instruction's range, for an itinerary of n instructions and the templates of the set
(R87, R102, R244, R447, R251; the ranges of LINK and TURN are DEDUCED, assumption 33)? -/
def immOk (op n : Nat) (templates : List Nat) (f : FWord) : Bool :=
  let i := f.imm.toNat
  if op = 0x01 ∨ (0x02 ≤ op ∧ op ≤ 0x08) ∨ op = 0x11 ∨ op = 0x72 ∨ op = 0xA0 then true
  else if op = 0x09 then decide (i < n)
  else if op = 0x0C then templates.contains i
  else if op = 0x10 then decide (i / 4 % 64 = 0 ∧ i / 4096 = 0)
  else if op = 0x20 then decide (i < 16)
  else if op = 0x60 then decide (i < 32) && (f.modif.getLsbD 0 || decide (i = 0))
  else if op = 0x70 ∨ op = 0x71 then decide (1 ≤ i % 8 ∧ i % 8 ≤ 5 ∧ i / 2 ^ 14 = 0)
  else if op = 0x81 then decide (i < 2)
  else if op = 0x90 then decide (i < 4)
  else if op = 0xA1 then decide (i < 32)
  else decide (i = 0)

/-- The checks of R251 on one word. -/
def wordOk (n : Nat) (templates : List Nat) (w : W64) : Bool :=
  let f := wordFields w
  match opRow (wordOp w) with
  | none => false
  | some r =>
    (match r.cls with
      | some c => decide (f.cls.toNat = c)
      | none => decide (1 ≤ f.cls.toNat ∧ f.cls.toNat ≤ 9))
    && (if r.doms = [] then decide (f.domain = 0) else r.doms.contains f.domain.toNat)
    && decide (f.dst.toNat < r.dst ∧ f.srcA.toNat < r.srcA ∧ f.srcB.toNat < r.srcB ∧ f.modif.toNat ≤ r.modif)
    && formOk r.op f && immOk r.op n templates f

-- ------------------------------------------------------------------ sets

/-- The constant entries of a set, in order: kind, id, body; none when the layout breaks (R247). -/
def parseConsts : Nat → Bytes → Option (List (Nat × Nat × Bytes))
  | 0, b => if b = [] then some [] else none
  | n + 1, b =>
    let len := field b 4 4
    let padded := ceilDiv len 16 * 16
    if b.length < 16 + padded ∨ zeros b 8 8 = false then none
    else (parseConsts n (b.drop (16 + padded))).map (fun l => (field b 0 2, field b 2 2, slice b 16 len) :: l)

/-- The reserved bits of a descriptor template (R229). -/
def templateOk (b : Bytes) : Bool :=
  let v := leNat b
  decide (b.length = 32) && !bitAt v 63 && decide (bits v 106 22 = 0 ∧ bits v 168 24 = 0 ∧ bits v 248 8 = 0)

/-- Is a constant's kind defined, and its body of that kind's form and id (R166, R200, R229, R247)? -/
def constOk (c : Nat × Nat × Bytes) : Bool :=
  if c.1 = 1 then templateOk c.2.2
  else if c.1 = 2 then decide (c.2.1 = 0 ∧ c.2.2.length = 64)
  else if c.1 = 3 then decide (1 ≤ c.2.1 ∧ c.2.1 ≤ 31)
  else if c.1 = 4 then decide (c.2.1 = 0 ∧ c.2.2.length = 32)
  else if c.1 = 5 then true
  else if c.1 = 6 then decide (c.2.2.length = 8 ∨ c.2.2.length = 16)
  else false

/-- No two entries share a key. -/
def distinctKeys : List (Nat × Nat) → Bool
  | [] => true
  | k :: ks => !ks.contains k && distinctKeys ks

/-- Entries of all lookup tables together (R194). -/
def lutTotal (cs : List (Nat × Nat × Bytes)) : Nat :=
  sumNat ((cs.filter (fun c => decide (c.1 = 3))).map (fun c => field c.2.2 4 4))

/-- An itinerary entry: role, entry instruction, code offset, count; none when it breaks R247 or R250. -/
def parseEntry (b : Bytes) : Option (Nat × Nat × Nat × Nat) :=
  let n := field b 8 4
  if zeros b 1 1 = true ∧ zeros b 12 4 = true ∧ field b 0 1 ≤ 6 ∧ 1 ≤ n ∧ n ≤ 4096 ∧ field b 2 2 < n then
    some (field b 0 1, field b 2 2, field b 4 4, n)
  else none

/-- The code images back to back from an offset: role, entry instruction, words (R247). -/
def parseCode (b : Bytes) : Nat → List (Nat × Nat × Nat × Nat) → Option (List (Nat × Nat × List W64) × Nat)
  | pos, [] => some ([], pos)
  | pos, e :: es =>
    if e.2.2.1 ≠ pos ∨ b.length < pos + 8 * e.2.2.2 then none
    else match parseCode b (pos + 8 * e.2.2.2) es with
      | none => none
      | some (l, q) =>
        some ((e.1, e.2.1, (pieces 8 (slice b pos (8 * e.2.2.2))).map (fun w => BitVec.ofNat 64 (leNat w))) :: l, q)

/-- Gather a list of options. -/
def allSome {α : Type} : List (Option α) → Option (List α)
  | [] => some []
  | a :: as => match a, allSome as with
    | some x, some xs => some (x :: xs)
    | _, _ => none

/-- The set that a byte string spells, verified by R247, R250 and R251; none for MALFORMED. -/
def parseSet (b : Bytes) : Option ItinSet :=
  let n := field b 2 2
  if b.length < 16 ∨ 67108864 < b.length ∨ field b 0 2 ≠ 1 ∨ n < 1 ∨ 16 < n ∨ zeros b 8 8 = false
      ∨ b.length < 16 + 16 * n then none
  else match allSome ((chunks n 16 (b.drop 16)).map parseEntry) with
    | none => none
    | some es =>
      match parseCode b (16 + 16 * n) es with
      | none => none
      | some (its, q) =>
        match parseConsts (field b 4 4) (b.drop q) with
        | none => none
        | some cs =>
          let templates := (cs.filter (fun c => decide (c.1 = 1))).map (fun c => c.2.1)
          if distinctKeys (es.map (fun e => (e.1, 0))) && cs.all constOk && distinctKeys (cs.map (fun c => (c.1, c.2.1)))
              && decide (lutTotal cs ≤ 2 ^ 20) && its.all (fun i => i.2.2.all (wordOk i.2.2.length templates)) then
            some { digest := Sys2Proof.Config.sha256 b, itins := its, consts := cs }
          else none

/-- ITIN_LOAD (R248, R251): the set is verified and loaded into a free slot. -/
def execItinLoad (ref : CmdRef) (buf : Bytes) (s : State) : Host.Outcome State Fault Refusal :=
  .next (withKeeper s ref 0x0901 (fun s t =>
    match t.part with
    | none => s
    | some p =>
      let x := getPart s p
      match openRecord x.session t.desc.counter.toNat 4 (buf.take t.desc.length) with
      | .error st => complete s t st
      | .ok o =>
        match freeSetSlot x.itins, parseSet o.content with
        | none, _ => complete s t .range
        | some _, none => complete s t .malformed
        | some i, some m => complete (setPart s p { x with itins := Table.put x.itins i m }) t .ok { r0 := i }))

/-- Does the current round, in whatever state it is now, name the set (R44, R248)? -/
def roundNamesItin (x : Partition) (m : ItinSet) : Bool :=
  match x.round with
  | none => false
  | some r => decide (r.desc.itinDigest = m.digest)

/-- ITIN_UNLOAD (R248). -/
def execItinUnload (ref : CmdRef) (s : State) : Host.Outcome State Fault Refusal :=
  .next (withCmd s ref 0x0902 (fun t =>
    match t.part with
    | none => s
    | some p =>
      let x := getPart s p
      let i := t.desc.param 0 1
      if 3 < i then complete s t .range
      else match Table.get? x.itins i with
        | none => complete s t .ok
        | some m =>
          if roundNamesItin x m then complete s t .policyDenied
          else if itinBusy s p i then updTaken s { t with waiting := true }
          else complete (setPart s p { x with itins := Table.erase x.itins i }) t .ok))

end Sys2Proof.Machine
end

