-- ==== Sys2Proof/Machine/Weights.lean ====
section
/-! DEFINITION. The weight image: WEIGHTS.LOAD in both directions (R211, R213). -/

namespace Sys2Proof.Machine

/-- Tiles of an image that no round tiles: full tiles of 32-bit lanes, for its digest (DESIGN CHOICE, assumption 34). -/
def imageTiles (vectorLength : Nat) : Nat := ceilDiv vectorLength 524288

/-- Words of the record of tile t of an image with tiles of 524,288 elements: W, then M, then V (R211). -/
def imageRecord (vectorLength parts t : Nat) (flat : List W32) : List W32 :=
  (flat.drop (t * 524288 * parts)).take (min 524288 (vectorLength - t * 524288) * parts)

/-- The root of an image outside a round: leaves of its weight records (R221). -/
def imageDigest (vectorLength parts : Nat) (flat : List W32) : Bytes :=
  digestLeaves "CHIELM-WEIGHTS" vectorLength
    ((List.range (imageTiles vectorLength)).map (fun t => leafDigest (wordsLe (imageRecord vectorLength parts t flat)))) []

/-- The partition's round states in which WEIGHTS.LOAD is refused (R213). -/
def weightsBusy (s : State) (p : Nat) : Bool :=
  decide (roundStateOf s p = .opened ∨ roundStateOf s p = .closing ∨ roundStateOf s p = .unmasking
    ∨ roundStateOf s p = .finishing)

/-- WEIGHTS_LOAD: WEIGHTS.LOAD in direction 0 (R211, R213). -/
def execWeightsLoad (ref : CmdRef) (buf : Bytes) (s : State) : Host.Outcome State Fault Refusal :=
  .next (withKeeper s ref 0x0A01 (fun s t =>
    match t.part with
    | none => s
    | some p =>
      let x := getPart s p
      if t.desc.param 0 1 ≠ 0 then (if t.desc.param 0 1 = 1 then s else complete s t .range)
      else if weightsBusy s p then complete s t .policyDenied
      else match openRecord x.session t.desc.counter.toNat 5 (buf.take t.desc.length) with
        | .error st => complete s t st
        | .ok o =>
          let parts := weightParts o.option
          let vl := o.content.length / (4 * parts)
          if 2 < o.option ∨ o.content.length % (4 * parts) ≠ 0 ∨ vl < 1 ∨ 2 ^ 34 < vl then complete s t .malformed
          else
            let flat := (pieces 4 o.content).map (fun b => BitVec.ofNat 32 (leNat b))
            let w : Weights := ⟨o.option, vl, flat, false, imageDigest vl parts flat⟩
            complete (setPart s p { x with weights := some w }) t .ok))

/-- WEIGHTS_READ_BACK: WEIGHTS.LOAD in direction 1 writes the image as a sealed WEIGHTS_OUT record (R213, R321). -/
def execWeightsReadBack (ref : CmdRef) (s : State) : Host.Outcome State Fault Refusal :=
  .next (withKeeper s ref 0x0A01 (fun s t =>
    match t.part with
    | none => s
    | some p =>
      let x := getPart s p
      if t.desc.param 0 1 ≠ 1 then (if t.desc.param 0 1 = 0 then s else complete s t .range)
      else if weightsBusy s p then complete s t .policyDenied
      else match x.weights with
        | none => complete s t .policyDenied
        | some w =>
          let content := wordsLe w.flat
          if x.session.live = false then complete s t .authFail
          else if t.desc.length < 32 + recordBodyLen content.length then complete s t .range
          else complete (emit s (.data (fnPort t.ref.fn) t.desc.address
            (sealRecord x.session 0x85 t.desc.counter.toNat w.optimiser content))) t .ok))

end Sys2Proof.Machine
end

