-- ==== Sys2Proof/Machine/Finish.lean ====
section
/-! DEFINITION. The finish: its passes, the apply commits, the row merge of a circuit, and the sealed images
(R198 to R222, R406). -/

namespace Sys2Proof.Machine

-- ------------------------------------------------------------------ entering FINISHING

/-- n of R202: the survivors, the ACCEPT verdicts, or in cipher-sum the admitted contributions. -/
def contributors (r : Round) : Nat :=
  if r.desc.mode = 0 then r.survivors.length
  else if r.desc.mode = 1 then (r.index.filter (fun e => decide (verdictOf r e.1 = .accept))).length
  else r.index.length

/-- The first pass of a round's finish (R198, R201). -/
def firstPass (d : RoundDesc) : FinishPass :=
  if needsWeights d then .update
  else if d.mode = 1 then (if seesTotal d then .done else if d.aggIndex = 0 then .shareNoise else .exporting)
  else .ctFinish

/-- K_img of an image kind (R215). -/
def imageKey (x : Partition) (d : RoundDesc) (salt : Bytes) (kind : Nat) : Bytes :=
  Sys2Proof.Config.hkdfExpand
    (Sys2Proof.Config.hkdfExtract salt (keyAt x (if kind = 1 then d.distKey else d.ownerKey)))
    (ascii "CHIELM-EXPORT" ++ toLe 1 kind ++ toLe 4 d.roundId.toNat) 32

/-- Does the round draw K_noise here: sigma is not 0 and this package leads (R203, R406)? -/
def drawsNoise (r : Round) : Bool := usesSigma r.desc && decide (r.desc.dpSigma.toNat % 2 ^ 31 ≠ 0) && isLead r

/-- Is K_noise settled on this package: drawn, or none to draw (R203)? -/
def noiseSettled (r : Round) : Bool := !drawsNoise r || r.finish.kNoise.isSome

/-- The draw of export_salt, with the image keys; the passes begin (R215). Where the DRBG gives none, a round with images waits, an event
says so, and the draw is made again later; a round without images has no use for it and goes on. -/
def saltDraw (s : State) (p : Nat) (r : Round) : State :=
  let d := drawOp s p
  let f := { r.finish with pass := firstPass r.desc }
  match d.1 with
  | (.ok, cell) =>
    let salt := cell.take 16
    let keys := (imagesOf r.desc).map (fun k => (k, imageKey (getPart d.2 p) r.desc salt k))
    setRound d.2 p { r with finish := { f with salt := some salt, imgKeys := keys } }
  | (st, _) =>
    if imagesOf r.desc = [] then setRound d.2 p { r with finish := f } else roundStatusEvent (setRound d.2 p r) p st 0 0

/-- The draws of a round that has entered FINISHING (R203, R215): K_noise where it is still to be drawn, then export_salt. Without
K_noise the round waits, an event says so, and the draw is made again later. -/
def finishDraws (s : State) (p : Nat) : State :=
  match getRound s p with
  | none => s
  | some r =>
    if noiseSettled r then saltDraw s p r
    else
      let d := drawOp s p
      match d.1 with
      | (.ok, cell) => saltDraw d.2 p { r with finish := { r.finish with kNoise := some (cell.take 32) } }
      | (st, _) => roundStatusEvent (setRound d.2 p r) p st 0 0

/-- The round enters FINISHING: the unmask area is released (R201), a cipher-sum aggregate becomes store entries (R182), and
the draws are made. -/
def beginFinish (s : State) (p : Nat) (r : Round) (kNoise : Option Bytes) : State :=
  let x := getPart s p
  let first := x.nextHandle
  let x1 := match (if r.desc.mode = 2 then roundKeySet x r.desc else none) with
    | none => x
    | some k => aggregateEntries x r k
  let c1 := r.circuit.map (fun c => { c with tilesDone := [] })
  let r1 := { r with state := .finishing, unmask := {}, finish := { kNoise := kNoise }, aggFirst := first, circuit := c1 }
  finishDraws (stateEvent (setPart s p { x1 with round := some r1 }) p r.state) p

-- ------------------------------------------------------------------ rows

/-- The element range of this package's tiles. -/
def ownFirst (r : Round) : Nat := tileFirst r.desc ((ownTiles r).headD 0)
def ownLast (r : Round) : Nat :=
  match (ownTiles r).getLast? with
  | none => 0
  | some t => tileFirst r.desc t + tileLen r.desc t

/-- Rows that the package's range touches. -/
def ownRows (r : Round) : List Nat :=
  if ownLast r ≤ ownFirst r then [] else
    let a := ownFirst r / r.desc.rowLength
    (List.range ((ownLast r - 1) / r.desc.rowLength - a + 1)).map (fun i => a + i)

/-- The element range of a circuit member. -/
def memberRange (r : Round) (c : Circuit) (i : Nat) : Nat × Nat :=
  let first := tileFirst r.desc (c.members.getD i (0, 0, 0)).2.2
  let last := match c.members[i + 1]? with
    | none => r.desc.vectorLength
    | some m => tileFirst r.desc m.2.2
  (first, min last r.desc.vectorLength)

/-- The members whose ranges a row meets, ascending; the first holds the row's first element and owns it (R406). -/
def rowMembers (r : Round) (c : Circuit) (row : Nat) : List Nat :=
  (List.range c.members.length).filter (fun i =>
    let m := memberRange r c i
    decide (max m.1 (row * r.desc.rowLength) < min m.2 ((row + 1) * r.desc.rowLength)))

/-- Does this package own the row? -/
def ownsRow (r : Round) (row : Nat) : Bool :=
  match r.circuit with
  | none => true
  | some c => decide ((rowMembers r c row).headD c.self = c.self)

/-- Members other than this one that a row spans. -/
def rowOthers (r : Round) (row : Nat) : List Nat :=
  match r.circuit with
  | none => []
  | some c => (rowMembers r c row).filter (fun i => decide (i ≠ c.self))

/-- u_e in the committed bank: the fp32 value in the low word of the element's lanes (R201). -/
def updateAt (r : Round) (e : Nat) : W32 :=
  let t := e / tileElems r.desc
  BitVec.ofNat 32 (bankElem (getTile r t).prim.committed (e % tileElems r.desc))

/-- The elements of a row that lie in the package's range. -/
def rowElems (r : Round) (row : Nat) : List Nat :=
  let a := max (ownFirst r) (row * r.desc.rowLength)
  (List.range (min (ownLast r) ((row + 1) * r.desc.rowLength) - a)).map (fun i => a + i)

/-- Rows that a tile touches (R207). -/
def tileRows (d : RoundDesc) (t : Nat) : List Nat :=
  let a := tileFirst d t / d.rowLength
  (List.range ((tileFirst d t + tileLen d t - 1) / d.rowLength - a + 1)).map (fun i => a + i)

/-- The partial of n bytes that FIN.ROWS wrote for a row to a tile's 128 KiB record of SCRATCH area 0 (R208, R230): the tile's rows follow
each other from the record's start (DEDUCED, assumption 125). -/
def partialBytes (x : Partition) (d : RoundDesc) (t row n : Nat) : Bytes :=
  Memory.reads (Table.getD x.spaces (2, 0) []) (131072 * t + n * (row - tileFirst d t / d.rowLength)) n

/-- The package's tiles that a row meets, ascending. -/
def rowTiles (r : Round) (row : Nat) : List Nat := (ownTiles r).filter (fun t => (tileRows r.desc t).contains row)

/-- The package's sum of squares of a row: the partials of its tiles, merged in ascending tile index (R130, R135, R208). -/
def rowSquares (x : Partition) (r : Round) (row : Nat) : LongWord :=
  (rowTiles r row).foldl (fun l t => longMerge l (parseLong (partialBytes x r.desc t row 40))) {}

/-- Part j of the weight of element e: 0 W, 1 M, 2 V (R211). -/
def weightAt (d : RoundDesc) (w : Weights) (j e : Nat) : W32 :=
  let t := e / tileElems d
  w.flat.getD (weightParts w.optimiser * tileFirst d t + j * tileLen d t + (e - tileFirst d t)) 0

/-- The maximum row partials that a tile's record holds, in the order of its rows (R208, R212). -/
def tileMaxima (x : Partition) (d : RoundDesc) (t : Nat) : List W32 :=
  (tileRows d t).map (fun row => BitVec.ofNat 32 (leNat (partialBytes x d t row 4)))

/-- The package's maximum of a row: the larger of what its tiles stored at STAGED (R208, R212). -/
def rowMaximum (r : Round) (row : Nat) : W32 :=
  (rowTiles r row).foldl (fun m t =>
    fpMax m ((getTile r t).maxima.getD (row - tileFirst r.desc t / r.desc.rowLength) 0)) 0

/-- The row table entry of a merged sum of squares (R136, R209). -/
def rowEntry (d : RoundDesc) (l : LongWord) : RowEntry :=
  let norm := fpSqrt (longRound l)
  { norm := norm, factor := clipFactor d.clipBound norm }

/-- A row's own partial and the members', merged in ascending package index (R130, R406): none while one is missing. -/
def mergedSquares (x : Partition) (r : Round) (row : Nat) : Option LongWord :=
  match r.circuit with
  | none => some (rowSquares x r row)
  | some c => (rowMembers r c row).foldl (fun acc i =>
      match acc with
      | none => none
      | some l =>
        if i = c.self then some (longMerge l (rowSquares x r row))
        else (Table.get? c.partials (row, i)).map (longMerge l)) (some {})

/-- A row's merged maximum: none while a member's is missing. -/
def mergedMaximum (r : Round) (row : Nat) : Option W32 :=
  (rowOthers r row).foldl (fun acc i =>
    match acc, Table.get? r.finish.maxima (row, i) with
    | some m, some v => some (fpMax m v)
    | _, _ => none) (some (rowMaximum r row))

/-- Own rows of which the table has no entry yet. -/
def rowsOpen (r : Round) : List Nat := (ownRows r).filter (fun row => !Table.has r.finish.rows row)

/-- Merge the rows that the package owns and can merge (R201, R209). -/
def mergeRows (x : Partition) (r : Round) : Round :=
  let rows := (ownRows r).foldl (fun t row =>
    if Table.has t row || !ownsRow r row then t
    else match mergedSquares x r row with
      | none => t
      | some l => Table.put t row (rowEntry r.desc l)) r.finish.rows
  { r with finish := { r.finish with rows := rows } }

/-- Send each member its rows' results after the update pass (R406). -/
def sendRows (s : State) (p : Nat) (r : Round) : State :=
  (ownRows r).foldl (fun a row =>
    if ownsRow r row then
      match Table.get? r.finish.rows row with
      | none => a
      | some e => (rowOthers r row).foldl (fun b i => sendCircuit b p i (.change (.rowResult row e.norm e.factor e.maxAbs))) a
    else a) s

/-- Send the owners the partials of rows that another package owns (R406). -/
def sendPartials (s : State) (p : Nat) (r : Round) (word : Nat → Bytes) : State :=
  (ownRows r).foldl (fun a row =>
    if ownsRow r row then a
    else match r.circuit with
      | none => a
      | some c => sendCircuit a p ((rowMembers r c row).headD 0) (.rowPartial row (word row))) s

-- ------------------------------------------------------------------ apply (R210 to R213)

/-- APPLY_TILE_COMMIT (R212): with a whole record in its staging slot a tile is STAGED, its leaf digest and maximum row partials stored;
from STAGED the record goes over the weight record, and the tile is APPLIED. The digest changes with the last tile. -/
def execApplyTileCommit (p : Nat) (tile : Nat) (s : State) : Host.Outcome State Fault Refusal :=
  .next (match getRound s p, (getPart s p).weights with
    | some r, some w =>
      let x := getTile r tile
      if r.state ≠ .finishing ∨ r.finish.pass ≠ .apply ∨ (ownTiles r).contains tile = false ∨ r.lost
          ∨ canStep s p = false then s
      else match x.applyRec, x.staging with
        | .untouched, some nw =>
          setRound s p (setTile r tile { x with
            applyRec := .staged, leaf := leafDigest (wordsLe nw), maxima := tileMaxima (getPart s p) r.desc tile })
        | .staged, some nw =>
          let flat := putRecord r.desc (weightParts w.optimiser) w.flat tile nw
          let r1 := setTile r tile { x with applyRec := .applied, staging := none }
          let whole := (ownTiles r1).all (fun t => decide ((getTile r1 t).applyRec = .applied))
          let w1 := { w with
            flat := flat
            digest := if whole then weightsDigest r.desc (weightParts w.optimiser) flat (ownTiles r) else w.digest }
          setPart s p { getPart s p with round := some r1, weights := some w1 }
        | _, _ => s
    | _, _ => s)

-- ------------------------------------------------------------------ passes

/-- Share noise: z_e mod p is added to each element of the share in the field (R206). -/
def shareNoised (r : Round) (key : Bytes) : Round :=
  let q := roundPrime r.desc
  (ownTiles r).foldl (fun a t =>
    let x := getTile a t
    let own := bankFull r.desc t x.prim.committed
    let out := (List.range own.length).map (fun i =>
      ((own.getD i 0 : Int) + noiseAt key (tileFirst r.desc t + i) r.desc.dpSigma).emod q |>.toNat)
    setTile a t { x with prim := { x.prim.commit out with phase := .finished } }) r

/-- Does a work of the partition in a role stand on a caravan or in the context area? -/
def roleBusy (s : State) (p role : Nat) : Bool :=
  s.caravans.any (fun e => e.2.work.any (fun w => decide (w.part = p ∧ w.role = role)))
    || (getPart s p).saved.any (fun e => decide (e.2.role = role))

/-- The apply pass is over: the package's maxima go to the row table; in a circuit the owner waits for the members' (R208,
R214, R406). -/
def finishApply (s : State) (p : Nat) (r : Round) : State :=
  let rows := (ownRows r).foldl (fun t row =>
    if ownsRow r row then
      match mergedMaximum r row with
      | none => t
      | some m => Table.put t row { Table.getD t row {} with maxAbs := m }
    else t) r.finish.rows
  let ready := (ownRows r).all (fun row => if ownsRow r row then (mergedMaximum r row).isSome
    else match r.circuit with
      | none => true
      | some c => Table.has r.finish.maxima (row, c.self))
  let r1 := { r with finish := { r.finish with rows := rows, pass := if ready then .exporting else r.finish.pass } }
  let s1 := sendPartials (setRound s p r1) p r1 (fun row => toLe 4 (rowMaximum r row).toNat)
  if ready then sendRows s1 p r1 else s1

/-- FINISH_PASS_DONE (R201, R198): when the pass has committed for every tile, the next begins; in cipher-sum, when the finish itinerary
has been run on every aggregate ciphertext and every REFRESH has committed. -/
def execFinishPassDone (p : Nat) (s : State) : Host.Outcome State Fault Refusal :=
  .next (match getRound s p with
    | none => s
    | some r =>
      if r.state ≠ .finishing ∨ r.lost ∨ canStep s p = false then s
      else
        let goes := fun (a : State) (q : Round) (f : FinishPass) => setRound a p { q with finish := { q.finish with pass := f } }
        match r.finish.pass with
        | .update =>
          if (ownTiles r).all (fun t => decide ((getTile r t).prim.phase = .finished)) then
            sendPartials (goes s r .rowMerge) p r (fun row => longBytes (rowSquares (getPart s p) r row))
          else s
        | .rowMerge =>
          let r1 := mergeRows (getPart s p) r
          if rowsOpen r1 = [] then sendRows (goes s r1 .apply) p r1 else setRound s p r1
        | .apply =>
          if (ownTiles r).all (fun t => decide ((getTile r t).applyRec = .applied)) then finishApply s p r else s
        | .shareNoise =>
          goes s (match r.finish.kNoise with
            | none => r
            | some k => shareNoised r k) .exporting
        | .ctFinish =>
          if roleBusy s p 6 || (getPart s p).store.any (fun e => e.2.refreshing.isSome)
              || !(List.range (r.desc.vectorLength / r.desc.rowLength)).all (fun i => r.finish.ctDone.contains (r.aggFirst + i)) then s
          else goes s r .exporting
        | _ => s)

/-- ROW_PARTIAL_MERGE (R406): the row's owner takes a member's partial: 40 bytes after the update pass, 4 bytes after the apply
pass. -/
def execRowPartialMerge (p : Nat) (row : Nat) (member : Nat) (partialWord : Bytes) (s : State) :
    Host.Outcome State Fault Refusal :=
  .next (match getRound s p with
    | none => s
    | some r =>
      match r.circuit with
      | none => s
      | some c =>
        if r.state ≠ .finishing ∨ r.lost ∨ ownsRow r row = false ∨ (rowOthers r row).contains member = false then s
        else if partialWord.length = 40 then
          setRound s p { r with circuit := some { c with partials := Table.put c.partials (row, member) (parseLong partialWord) } }
        else if partialWord.length = 4 then
          setRound s p { r with finish := { r.finish with
            maxima := Table.put r.finish.maxima (row, member) (BitVec.ofNat 32 (leNat partialWord)) } }
        else s)

-- ------------------------------------------------------------------ sealed images (R214 to R221)

/-- The digest of a body in consecutive 2 MiB pieces (R221). -/
def bodyDigest (d : RoundDesc) (body : Bytes) : Bytes :=
  digestLeaves "CHIELM-BODY" d.vectorLength ((pieces 2097152 body).map leafDigest) []

/-- dp_sigma as applied: 0 when no noise was added (R219). The update pass of no contributions adds none (R202); share noise does not
look at their number (R206). -/
def appliedSigma (r : Round) : Nat :=
  if r.finish.kNoise.isSome ∧ (contributors r ≠ 0 ∨ needsWeights r.desc = false) then r.desc.dpSigma.toNat else 0

/-- The trailer (R219). -/
def trailer (r : Round) (bodyDig bcast accepted : Bytes) (zeroed nonfinite : Nat) : Bytes :=
  bodyDig ++ bcast ++ accepted ++ toLe 4 (contributors r) ++ toLe 4 (appliedSigma r) ++ toLe 8 zeroed ++ toLe 8 nonfinite
    ++ zeroBytes 8

/-- The accepted-set digest of an image: share-sum only (R175, R219). -/
def imageAccepted (r : Round) : Bytes := if r.desc.mode = 1 then acceptedDigest r else zeroBytes 32

/-- S_r of a row. -/
def rowScale (r : Round) (row : Nat) : W32 := (Table.getD r.finish.rows row {}).maxAbs

/-- The broadcast part of one tile (R214). -/
def broadcastTile (r : Round) (w : Weights) (t : Nat) : Bytes :=
  ((List.range (tileLen r.desc t)).map (fun i =>
    let e := tileFirst r.desc t + i
    toLe 2 (broadcastElem (weightAt r.desc w 0 e) (rowScale r (e / r.desc.rowLength))))).flatten

/-- The S_r array over the rows that the range touches (R218, R406). -/
def scaleArray (r : Round) : Bytes := ((ownRows r).map (fun row => toLe 4 (rowScale r row).toNat)).flatten

/-- The broadcast body and digest (R218, R221). -/
def broadcastBody (r : Round) (w : Weights) : Bytes := ((ownTiles r).map (broadcastTile r w)).flatten ++ scaleArray r
def broadcastDigest (r : Round) (w : Weights) : Bytes :=
  digestLeaves "CHIELM-BCAST" r.desc.vectorLength ((ownTiles r).map (fun t => leafDigest (broadcastTile r w t)))
    (Sys2Proof.Config.sha256 (scaleArray r))

/-- Part j of the weights over the package's range. -/
def weightArray (r : Round) (w : Weights) (j : Nat) : Bytes :=
  ((List.range (ownLast r - ownFirst r)).map (fun i => toLe 4 (weightAt r.desc w j (ownFirst r + i)).toNat)).flatten

/-- The owner body (R218, R219). -/
def ownerBody (r : Round) (w : Weights) : Bytes :=
  let rows := (ownRows r).map (fun row => Table.getD r.finish.rows row {})
  let nonfinite := ((List.range (ownLast r - ownFirst r)).filter (fun i =>
    !fpFinite (weightAt r.desc w 0 (ownFirst r + i)))).length
  ((List.range (weightParts w.optimiser)).map (weightArray r w)).flatten
    ++ (rows.map (fun e => toLe 4 e.norm.toNat ++ toLe 4 e.factor.toNat ++ toLe 4 e.maxAbs.toNat)).flatten
    ++ trailer r (weightsDigest r.desc (weightParts w.optimiser) w.flat (ownTiles r)) (broadcastDigest r w) (imageAccepted r)
        (rows.filter (fun e => decide (e.factor = 0))).length nonfinite

/-- The share body (R206, R218). -/
def shareBody (r : Round) : Bytes :=
  let b := ledgerBytes r
  b ++ trailer r (bodyDigest r.desc b) (zeroBytes 32) (imageAccepted r) 0 0

/-- The 32-byte header and body of a stored ciphertext (R182). -/
def cipherBytes (log2n handle : Nat) (c : Cipher) : Bytes :=
  let len := 16 * (c.level + 1) * 2 ^ log2n
  toLe 2 1 ++ toLe 1 log2n ++ toLe 1 c.level ++ toLe 1 (bn c.ntt) ++ toLe 1 c.channel ++ toLe 2 c.budget
    ++ toLe 8 c.fingerprint ++ toLe 4 handle ++ zeroBytes 4 ++ toLe 8 len
    ++ ((List.range (len / 8)).map (fun i => toLe 8 (c.body.getD i 0))).flatten

/-- The ciphertext body: the aggregate ciphertexts in ascending index (R182, R218). -/
def ciphertextBody (x : Partition) (r : Round) : Bytes :=
  let b := ((List.range (r.desc.vectorLength / r.desc.rowLength)).map (fun i =>
    match Table.get? x.store (r.aggFirst + i) with
    | none => []
    | some c => cipherBytes r.desc.log2n (r.aggFirst + i) c)).flatten
  b ++ trailer r (bodyDigest r.desc b) (zeroBytes 32) (zeroBytes 32) 0 0

/-- The body of an image kind (R218). -/
def imageBody (x : Partition) (r : Round) (kind : Nat) : Bytes :=
  if kind = 2 then shareBody r
  else if kind = 3 then ciphertextBody x r
  else match x.weights with
    | none => []
    | some w => if kind = 1 then broadcastBody r w else ownerBody r w

/-- export_aead of the round's finish profile (R200). -/
def exportAead (x : Partition) (r : Round) : Nat :=
  match (namedItin x r.desc.itinDigest).bind (fun e => constBody e.2 4 0) with
  | none => 0
  | some b => field b 2 1

/-- The header of an image (R216). -/
def imageHeader (d : RoundDesc) (kind aead bodyLen : Nat) (salt : Bytes) : Bytes :=
  toLe 2 1 ++ toLe 1 kind ++ toLe 1 aead ++ toLe 4 d.roundId.toNat ++ toLe 8 d.vectorLength ++ toLe 8 d.rowLength
    ++ toLe 8 bodyLen ++ toLe 4 (ceilDiv bodyLen 1048576) ++ toLe 1 d.optimiser ++ zeroBytes 3 ++ padTo 16 salt ++ zeroBytes 8

/-- The sealed image (R216, R217). -/
def sealedImage (x : Partition) (r : Round) (kind : Nat) : Bytes :=
  let body := imageBody x r kind
  let h := imageHeader r.desc kind (exportAead x r) body.length (r.finish.salt.getD [])
  h ++ sealSegments (exportAead x r) (Table.getD r.finish.imgKeys kind []) segmentNonce h (pieces 1048576 body)

/-- The next image to write: the first of R198's order that is not confirmed. -/
def nextImage (r : Round) : Option Nat := (imagesOf r.desc).find? (fun k => !r.finish.confirmed.contains k)

/-- Segments of an image: 1,048,576 bytes each (R216). -/
def imageSegments (x : Partition) (r : Round) (kind : Nat) : Nat := ceilDiv (imageBody x r kind).length 1048576

/-- Has the EXPORT itinerary been run on every segment of the image that is due (R249)? -/
def sealedWhole (x : Partition) (r : Round) (kind : Nat) : Bool :=
  (List.range (imageSegments x r kind)).all (fun i => r.finish.sealed.contains i)

/-- IMAGE_WRITE_CONFIRM (R220, R249): once the EXPORT itinerary has been run on all of it, a Porter of the port that serves writes the
image to its registered buffer and confirms it; where the buffer is missing or too short, a ROUND_STATUS event carries the bytes required. -/
def execImageWriteConfirm (p : Nat) (image : Nat) (s : State) : Host.Outcome State Fault Refusal :=
  .next (match getRound s p with
    | none => s
    | some r =>
      if r.state ≠ .finishing ∨ r.finish.pass ≠ .exporting ∨ nextImage r ≠ some image ∨ r.lost ∨ canStep s p = false
          ∨ sealedWhole (getPart s p) r image = false then s
      else
        let bytes := sealedImage (getPart s p) r image
        match Table.get? r.outbufs (if image = 1 then 1 else 0) with
        | none => roundStatusEvent s p .notReady bytes.length 0
        | some (a, len, _) =>
          let port := outPort (getPart s p)
          if len < bytes.length then roundStatusEvent s p .notReady bytes.length 0
          else if (getPart s p).serving = none ∨ (getPort s port).linkUp = false then s
          else
            let s1 := emit s (.data port a bytes)
            setRound s1 p { r with finish := { r.finish with confirmed := r.finish.confirmed ++ [image], sealed := [] } })

end Sys2Proof.Machine
end

