-- ==== Sys2Proof/Machine/Transitions.lean ====
section
/-! DEFINITION. The internal transitions of the round state, and the circuit's joins and state changes (R43, R400 to
R406). -/

namespace Sys2Proof.Machine

-- ------------------------------------------------------------------ conditions of R43

/-- Every admitted batch has been swept: the last batch reaches the last number, in share-sum the last decided one (R43,
R176). -/
def batchesSwept (r : Round) : Bool :=
  allSwept r && (decide (r.desc.mode = 1) || decide (r.batchW = r.nextSeq - 1))

/-- Every required secret has been reconstructed (R43, R154). -/
def secretsReady (r : Round) : Bool :=
  r.unmask.lastSeen && !r.unmask.tooBig && decide (openSecrets r = []) && decide (r.unmask.failed = [])

/-- Is no LODGED completion of the partition still to be written: held as an event, or in a CQ0 that could not take it (R59, R263)? -/
def lodgedPosted (s : State) (p : Nat) : Bool :=
  (getPart s p).events.all (fun e => decide (e.kind ≠ .lodged))
    && [Port.p0, Port.p1].all (fun port => (getCq s (.vf port p) 0).held.all (fun c =>
      decide (c.source ≠ 31 ∨ c.result0.toNat % 256 ≠ EventKind.code .lodged)))

/-- Is the final checkpoint complete: its mirror, and where it is exported its LODGED completion has been posted (R43, R59)? -/
def finalComplete (s : State) (p : Nat) (r : Round) : Bool :=
  r.finalDone && (decide (r.desc.ckptEvery = 0) || (r.finalLodged && lodgedPosted s p))

/-- The condition of CLOSING to UNMASKING on this package (R43). -/
def closingDone (s : State) (p : Nat) (r : Round) : Bool :=
  decide (r.state = .closing) && batchesSwept r && finalComplete s p r && !r.lost && (decide (r.desc.mode ≠ 0) || secretsReady r)

/-- Has every other member of the circuit reported? -/
def membersReported (r : Round) (done : Circuit → List Nat) : Bool :=
  match r.circuit with
  | none => true
  | some c => (List.range c.members.length).all (fun i => decide (i = c.self) || (done c).contains i)

/-- ENTER_UNMASKING (R43): CLOSING to UNMASKING of a masked-sum or share-sum round; a member of a circuit reports its seeds to
the lead (R406). A share-sum round's undecided shares form its last batch (R176). -/
def execEnterUnmasking (p : Nat) (s : State) : Host.Outcome State Fault Refusal :=
  .next (match getRound s p with
    | none => s
    | some r =>
      if closingDone s p r = false ∨ r.desc.mode = 2 ∨ s.keeper.locked then s
      else if isLead r = false then tellLead s p (.report 0 .seedsDone)
      else if membersReported r (fun c => c.seedsDone) = false then s
      else
        let s1 := stateEvent (setRound s p (closeLastBatch { r with state := .unmasking })) p .closing
        sendSums (tellMembers s1 p r (.change .unmasking)) p)

/-- The mode's unmasking work is complete on this package (R43, R160, R177). -/
def unmaskingDone (r : Round) : Bool :=
  decide (r.state = .unmasking) && !r.lost &&
  (if r.desc.mode = 0 then
    (ownTiles r).all (fun t => decide ((getTile r t).prim.phase = .unmasked) && (getTile r t).mirrored)
  else if seesTotal r.desc then r.share.combined
  else allDecided r && decide (r.batchW = r.nextSeq - 1) && allSwept r)

/-- The condition of entering FINISHING: from UNMASKING, or from CLOSING in cipher-sum (R43). -/
def finishReady (s : State) (p : Nat) (r : Round) : Bool := if r.desc.mode = 2 then closingDone s p r else unmaskingDone r

/-- The lead sends K_noise and n, once K_noise is settled (R406). -/
def tellFinishing (s : State) (p : Nat) : State :=
  match getRound s p with
  | none => s
  | some r => if noiseSettled r then tellMembers s p r (.change (.finishing r.finish.kNoise (contributors r))) else s

/-- ENTER_FINISHING (R43, R201, R203, R215): the round enters FINISHING and makes its draws; a round that waits for entropy
makes them again. A member of a circuit reports its tiles to the lead (R406). -/
def execEnterFinishing (p : Nat) (s : State) : Host.Outcome State Fault Refusal :=
  .next (match getRound s p with
    | none => s
    | some r =>
      if s.keeper.locked then s
      else if r.state = .finishing ∧ r.finish.pass = .waitingEntropy ∧ r.lost = false then
        if noiseSettled r then finishDraws s p else tellFinishing (finishDraws s p) p
      else if finishReady s p r = false then s
      else if isLead r = false then tellLead s p (.report 0 .tilesDone)
      else if membersReported r (fun c => c.tilesDone) = false then s
      else tellFinishing (beginFinish s p r none) p)

/-- The round enters EXPORTED: the image keys and K_noise are no longer in use, and their slots are zeroed (R43, R87, R302). -/
def exportRound (s : State) (p : Nat) (r : Round) : State :=
  let s1 := zeroSlots (setRound s p { r with state := .exported, finish := { r.finish with imgKeys := [], pass := .done } }) p
    (fun stage _ => decide (stage ≠ .opens))
  stateEvent s1 p .finishing

/-- ENTER_EXPORTED (R43, R198, R220): every image that R198 lists is in host memory. A member of a circuit reports so. -/
def execEnterExported (p : Nat) (s : State) : Host.Outcome State Fault Refusal :=
  .next (match getRound s p with
    | none => s
    | some r =>
      if r.state ≠ .finishing ∨ r.lost ∨ s.keeper.locked ∨ r.finish.pass = .waitingEntropy ∨ nextImage r ≠ none then s
      else if isLead r = false then tellLead s p (.report 0 .tilesDone)
      else if membersReported r (fun c => c.tilesDone) = false then s
      else tellMembers (exportRound s p r) p r (.change .exported))

-- ------------------------------------------------------------------ joins (R401, R405)

/-- The waiting ROUND.OPEN or ROUND.RESUME of a partition. -/
def waitingOpen (s : State) (p : Nat) : Option Taken :=
  s.cmd.taken.find? (fun t => t.waiting && decide (t.part = some p ∧ (t.desc.opcode = 0x0201 ∨ t.desc.opcode = 0x0203)))

/-- The opening round is refused: its command completes with POLICY_DENIED and nothing opens. -/
def refuseOpening (s : State) (p : Nat) : State :=
  let s1 := setPart s p { getPart s p with opening := none }
  match waitingOpen s1 p with
  | none => s1
  | some t => complete s1 t .policyDenied

/-- The opening round opens (R401). -/
def installOpening (s : State) (p : Nat) (r : Round) : State :=
  match waitingOpen s p with
  | none => s
  | some t => areaCheck (installRound s t p r) p

/-- CIRCUIT_JOIN (R401, R405): the lead checks a member's join against its own key, descriptor and W, and answers with the
round block; when every member has joined its own command completes. A member that resumes at another W ends the resume for
all. -/
def execCircuitJoin (p : Nat) (member : Nat) (proof : Bytes) (descDigest : Bytes) (w : Nat) (s : State) :
    Host.Outcome State Fault Refusal :=
  .next (match (getPart s p).opening with
    | none => s
    | some r =>
      match r.circuit with
      | none => s
      | some c =>
        if c.self ≠ 0 ∨ member = 0 ∨ c.members.length ≤ member ∨ c.joined.contains member then s
        else
          let m := c.members.getD member (0, 0, 0)
          let good := decide (proof = joinProof (keyAt (getPart s p) r.desc.ownerKey) r.desc.roundId m.1 m.2.1
            ∧ descDigest = Sys2Proof.Config.sha256 r.desc.raw)
          if good = false then sendCircuit s p member (.change .refused)
          else if w ≠ r.lastW then refuseOpening (tellMembers s p r (.change .refused)) p
          else
            let c1 := { c with joined := insertNat member c.joined }
            let r1 := { r with circuit := some c1 }
            let s1 := sendCircuit (setPart s p { getPart s p with opening := some r1 }) p member (.change (.opened r.secret))
            if c1.joined.length + 1 = c.members.length then installOpening s1 p r1 else s1)

-- ------------------------------------------------------------------ changes (R402, R405, R406)

/-- The status of a code (R284). -/
def statusOf (code : Nat) : Status :=
  match [Status.ok, .retryLater, .duplicate, .notReady, .authFail, .counterStale, .keyMismatch, .levelExhausted, .headroom,
    .queueReset, .faultReplayed, .entropyUnavailable, .scrubbing, .tamper, .policyDenied, .malformed, .range, .keyDraining,
    .roundClosed, .version, .stalledIsland][code]? with
  | some st => st
  | none => .policyDenied

/-- The forwarded round command of a member that waits for the lead's outcome (R402). -/
def waitingForward (s : State) (p opcode : Nat) : Option Taken :=
  s.cmd.taken.find? (fun t => t.waiting && decide (t.part = some p ∧ t.desc.opcode = opcode))

/-- A forwarded command whose effect the member has just applied completes with OK and the results that the member's own state gives
(R213, R301, R402). -/
def completeForward (s : State) (p opcode : Nat) (res : Results) : State :=
  match waitingForward s p opcode with
  | none => s
  | some t => complete s t .ok res

/-- The lead's outcome for a forwarded command (R402): its own effect where the round's state allows it. -/
def leadRuns (s : State) (p : Nat) (r : Round) (member opcode : Nat) : State :=
  let answer := fun (a : State) (st : Status) =>
    sendCircuit a p member (.change (.answer opcode (BitVec.ofNat 8 st.code)))
  if opcode = 0x0202 ∧ r.state = .opened then
    answer (tellMembers (enterClosing s p r) p r (.change (.close (sortNat (Table.keys r.index))))) .ok
  else if opcode = 0x0204 ∧ (r.state = .exported ∨ r.state = .aborted) then
    answer (tellMembers (retireRound s p r) p r (.change .retire)) .ok
  else if opcode = 0x0F02 ∧ (r.state = .opened ∨ r.state = .closing ∨ r.state = .unmasking ∨ r.state = .finishing) then
    answer (tellMembers (abortRound s p s.cmd.nextOrder r) p r (.change .abort)) .ok
  else answer s .policyDenied

/-- A member applies what its lead sends. -/
def memberApplies (s : State) (p : Nat) (r : Round) (change : LeadChange) : State :=
  match change with
  | .close survivors =>
    if r.state ≠ .opened then s
    else areaCheck (stateEvent (setRound s p { r with state := .closing, survivors := sortNat survivors }) p .opened) p
  | .unmasking =>
    if r.state ≠ .closing then s else stateEvent (setRound s p { r with state := .unmasking }) p .closing
  | .finishing k _ => if r.state ≠ .unmasking then s else beginFinish s p r k
  | .exported => if r.state ≠ .finishing then s else exportRound s p r
  | .retire =>
    if r.state ≠ .exported ∧ r.state ≠ .aborted then s
    else completeForward (stateEvent (retireRound s p r) p r.state) p 0x0204 (retireResults r)
  | .abort =>
    if r.state = .opened ∨ r.state = .closing ∨ r.state = .unmasking ∨ r.state = .finishing then
      let waits := waitingForward s p 0x0F02
      let s1 := stateEvent (abortRound s p (match waits with | some t => t.order | none => s.cmd.nextOrder) r) p r.state
      completeForward s1 p 0x0F02 (abortResults s1 p r)
    else s
  | .answer opcode code =>
    match waitingForward s p opcode with
    | none => s
    | some t => complete s t (statusOf code.toNat)
  | .checkpoint w final =>
    if (r.state = .opened ∨ r.state = .closing) ∧ canClose r = true ∧ r.lost = false then setRound s p (beginCheckpoint r w final)
    else s
  | .rowResult row norm factor maxAbs =>
    match r.circuit with
    | none => s
    | some c =>
      if r.state ≠ .finishing ∨ ownsRow r row then s
      else
        let f := r.finish
        setRound s p { r with finish := { f with
          rows := Table.put f.rows row ⟨norm, factor, maxAbs⟩
          maxima := if f.pass = .apply then Table.put f.maxima (row, c.self) maxAbs else f.maxima } }
  | _ => s

/-- CIRCUIT_STATE_CHANGE (R401, R402, R405, R406): a member applies what the lead sends; the lead runs a command that a member
forwards. -/
def execCircuitStateChange (p : Nat) (change : LeadChange) (s : State) : Host.Outcome State Fault Refusal :=
  .next (match change with
    | .opened secret =>
      (match (getPart s p).opening with
      | none => s
      | some r => if isLead r then s else installOpening s p { r with secret := if r.secret = [] then secret else r.secret })
    | .refused =>
      (match (getPart s p).opening with
      | none => s
      | some r => if isLead r then s else refuseOpening s p)
    | .asked member opcode =>
      (match getRound s p with
      | none => s
      | some r => if r.circuit.isSome && isLead r && decide (member ≠ 0) then leadRuns s p r member opcode else s)
    | c =>
      (match getRound s p with
      | none => s
      | some r => if r.circuit.isSome && !isLead r then memberApplies s p r c else s))

end Sys2Proof.Machine
end

