-- ==== Sys2Proof/Machine/Caravans.lean ====
section
/-! DEFINITION. Caravans: works and steps, the Steward mailboxes, context switches, the end of a work (R93 to R101, R224 to
R228, R249). -/

namespace Sys2Proof.Machine

-- ------------------------------------------------------------------ works

/-- A work fault of R245's second row: the Sequencer issues nothing further, both sets are discarded, a ROUND_STATUS event
carries the status, and the round can only be aborted. -/
def faultWork (w : Work) : Work :=
  { w with stopped := true, setA := {}, setB := {}, flow := [], shadowQ := [], draining := none, loadQ := [], library := none
           ring := [], exitQ := [] }


/-- A tile's unmask starts again from its committed bank (R161). -/
def redoUnmask (x : Tile) : Tile :=
  if x.prim.phase = .accumulating then { x with groups := 0, unmaskers := [] } else x

/-- The partial output of a work's library routine on a caravan is discarded, with the private copies that the work made (R190, R197). -/
def forgetLibrary (x : Partition) (cv : Nat) (w : Work) : Partition :=
  { x with store := (x.store.filter (fun e => decide (e.1 / 2 ^ 32 ≠ 2 ^ 40 + cv + 1))).map (fun e =>
      (e.1, if w.library = some e.1 then { e.2 with refreshing := none } else e.2)) }

/-- Raise a work fault on a caravan (R245): the partial output of its library routine is discarded with it (R197). -/
def workFault (s : State) (cv : Nat) (w : Work) (st : Status) : State :=
  let s1 := setWork (setPart s w.part (forgetLibrary (getPart s w.part) cv w)) cv (faultWork w)
  let s2 := match getRound s1 w.part with
    | none => s1
    | some r => setRound s1 w.part { r with lost := true }
  roundStatusEvent s2 w.part st 0 0

/-- The work on a caravan stops with a status (R245); of a round that an ABORT has ended, the Steward takes no report (R46). -/
def stopWork (s : State) (cv : Nat) (w : Work) (st : Status) : State :=
  if roundStateOf s w.part = .aborted then setWork s cv (faultWork w) else workFault s cv w st

/-- What the Steward forgets of a work that a fault ended: its REFRESH, and the progress of the tile's unmask, whose banks but the
committed one no longer count (R161, R197). -/
def forgetWork (s : State) (cv : Nat) (w : Work) : State :=
  let s1 := setPart s w.part (forgetLibrary (getPart s w.part) cv w)
  match getRound s1 w.part with
  | none => s1
  | some r =>
    if w.role = 1 ∧ r.state = .unmasking then
      let t := (w.args.getD 0 0).toNat
      setRound s1 w.part (setTile r t (redoUnmask (getTile r t)))
    else s1

/-- The works in the context area that only a caravan can resume are discarded with it, to be replayed elsewhere (R98, R374, R377). -/
def forgetSaved (s : State) (cv : Nat) : State :=
  (Table.keys s.parts).foldl (fun a p =>
    match Table.get? (getPart a p).saved cv with
    | none => a
    | some w => forgetWork (setPart a p { getPart a p with saved := Table.erase (getPart a p).saved cv }) cv w) s

/-- A work as a replay knows it again: its partition, its role and the arguments of its call. -/
def callOf (w : Work) : Nat × Nat × List W64 := (w.part, w.role, w.args)

/-- Is a caravan's work the replay of one that it has faulted on (R374)? -/
def inReplay (s : State) (cv : Nat) (w : Work) : Bool := decide ((getCv s cv).faultedOn = some (callOf w))

/-- A detected fault in a work's data: the work is discarded and replayed from its committed inputs, and a caravan that faults again in
the replay is retired (R91, R161, R245, R374, R377). -/
def detectedInWork (s : State) (cv : Nat) (w : Work) (mechanism : Nat) : State :=
  let c := getCv s cv
  let again := inReplay s cv w
  let s1 := setCv s cv { c with
    work := none, stepping := false, faultedOn := some (callOf w), mailbox := c.mailbox.filter (fun m => decide (m.part ≠ w.part)) }
  let s2 := logFault (countFault (forgetWork s1 cv w) false) 1 cv mechanism w.part (if again then 2 else 1) 0
  settleQuiesce (settleUnloads (if again then retireCaravan (forgetSaved s2 cv) cv else s2))

/-- The entry of a role in the round's set: set slot, entry instruction, words (R225). -/
def roleEntry (x : Partition) (r : Round) (role : Nat) : Option (Nat × Nat × List W64) :=
  (namedItin x r.desc.itinDigest).bind (fun e =>
    (e.2.itins.find? (fun i => decide (i.1 = role))).map (fun i => (e.1, i.2.1, i.2.2)))

/-- Does the round call a role in its present state (R43, R198, R249)? -/
def roleDue (r : Round) (role : Nat) : Bool :=
  if role = 0 then decide (r.state = .opened ∨ r.state = .closing ∨ (r.state = .unmasking ∧ r.desc.mode = 1))
  else if role = 1 then decide (r.state = .unmasking ∧ r.desc.mode = 0)
  else if role = 2 then decide (r.state = .finishing ∧ r.finish.pass = .update)
  else if role = 3 then decide (r.state = .finishing ∧ r.finish.pass = .apply)
  else if role = 4 then decide (r.state = .finishing ∧ r.finish.pass = .exporting)
  else if role = 5 then decide (r.state = .opened ∨ r.state = .closing ∨ r.state = .unmasking)
  else if role = 6 then decide (r.state = .finishing ∧ r.finish.pass = .ctFinish)
  else false

/-- Argument i of a call. -/
def argNat (args : List W64) (i : Nat) : Nat := (args.getD i 0).toNat

/-- The tiles that a SWEEP work is called for: a run of X1 tiles from X0 at step X2 (R249). -/
def runTiles (args : List W64) : List Nat :=
  (List.range (min (argNat args 1) (2 ^ 20))).map (fun i => argNat args 0 + i * argNat args 2)

/-- Does a live SWEEP work of the partition cover a tile: its batch is then on its way to the tile (R66, R90)? -/
def beingSwept (s : State) (p t : Nat) : Bool :=
  (liveWorks s p).any (fun e => decide (e.2.role = 0) && (runTiles e.2.args).contains t)

-- ------------------------------------------------------------------ the plan of the unmask (R163)

/-- Beats that a tile's unmask takes: its groups times its slots. -/
def unmaskBeats (r : Round) (t : Nat) : Nat := foldGroups r * ceilDiv (tileLen r.desc t * laneBytes r.desc.laneFormat) 256

/-- A die's tiles, laid end to end in ascending order: tile, first beat, beats. -/
def tilesOnDie (r : Round) (die : Nat) : List (Nat × Nat × Nat) :=
  (((ownTiles r).filter (fun t => decide (t % 2 = die))).foldl (fun (acc : List (Nat × Nat × Nat) × Nat) t =>
    (acc.1 ++ [(t, acc.2, unmaskBeats r t)], acc.2 + unmaskBeats r t)) ([], 0)).1

/-- P: beats of a piece (R163). -/
def pieceBeats (r : Round) (die : Nat) : Nat :=
  let l := tilesOnDie r die
  max (ceilDiv (sumNat (l.map (fun e => e.2.2))) 24) (maxNat (l.map (fun e => e.2.2)))

/-- The plan of a die: caravan, tile, first group and groups. A tile that is cut begins on the later caravan and ends on the earlier
one, split at the group boundary at or after the cut (R163; which boundary is DESIGN CHOICE, assumption 115). -/
def unmaskPlan (r : Round) (die : Nat) : List (Nat × Nat × Nat × Nat) :=
  let size := pieceBeats r die
  (tilesOnDie r die).flatMap (fun e =>
    let k := e.2.1 / max 1 size
    let g := foldGroups r
    let last := e.2.1 + e.2.2
    if last ≤ (k + 1) * size then [(24 * die + k, e.1, 0, g)]
    else
      let late := ceilDiv (last - (k + 1) * size) (max 1 (e.2.2 / max 1 g))
      [(24 * die + k + 1, e.1, 0, late), (24 * die + k, e.1, late, g - late)])

/-- Has the partition the die's caravans to itself: all 24 serve, and no other partition has a work there (R163)? -/
def soleUse (s : State) (p die : Nat) : Bool :=
  (List.range 24).all (fun i => cvServes s (24 * die + i) && (getCv s (24 * die + i)).work.all (fun w => decide (w.part = p)))

/-- Does the Steward give a tile's groups to the caravan: by the plan when it has the die to itself; otherwise to no more than two
caravans for one tile (R163)? -/
def planned (s : State) (p : Nat) (r : Round) (cv t first n : Nat) : Bool :=
  if soleUse s p (dieOf cv) then
    (unmaskPlan r (dieOf cv)).any (fun e =>
      decide (e.1 = cv ∧ e.2.1 = t ∧ e.2.2.1 ≤ first ∧ first + n ≤ e.2.2.1 + e.2.2.2))
  else
    let u := (getTile r t).unmaskers
    u.contains cv || decide (u.length < 2)

-- ------------------------------------------------------------------ the call of a work (R249)

/-- Aggregate ciphertexts of a cipher-sum round (R182). -/
def aggregates (r : Round) : Nat := r.desc.vectorLength / r.desc.rowLength

/-- Tiles of a die whose apply holds a staging slot: a record stands in it, or an APPLY work is to write it (R201, R212). -/
def stagingTiles (s : State) (p : Nat) (r : Round) (die : Nat) : List Nat :=
  (r.tiles.filter (fun e => decide (e.1 % 2 = die) && e.2.staging.isSome)).map (fun e => e.1)
    ++ ((liveWorks s p).filter (fun e => decide (e.2.role = 3 ∧ argNat e.2.args 0 % 2 = die))).map (fun e => argNat e.2.args 0)

/-- Journal bytes that the row partials of a die's tiles take in FINISHING: a 40-byte word for each row (R201, R208). -/
def partialsBytes (r : Round) (die : Nat) : Nat :=
  sumNat (((ownTiles r).filter (fun t => decide (t % 2 = die))).map (fun t => 40 * (tileRows r.desc t).length))

/-- Does the journal of a tile's die hold one more staging slot for it, beside the row partials (R201)? Two it always holds, by check 7 of
R48 (DESIGN CHOICE, assumption 152). -/
def stagingFree (s : State) (p : Nat) (r : Round) (t : Nat) : Bool :=
  let cap := if t % 2 = 0 then r.jCap0 else r.jCap1
  let held := stagingTiles s p r (t % 2)
  decide (held.length < 2 ∨ sumNat (held.map (stagingBytes r.desc)) + stagingBytes r.desc t + partialsBytes r (t % 2) ≤ cap)

/-- Does a live work of a role stand on the tile already? -/
def onTile (s : State) (p role t : Nat) : Bool :=
  (liveWorks s p).any (fun e => decide (e.2.role = role ∧ argNat e.2.args 0 = t))

/-- Do the arguments agree with the round (R37, R66, R90, R163, R201, R249)? Roles 0 to 3 work on tiles of the caravan's own die. A SWEEP
names the closed batch and tiles that still lack it; an UNMASK the tile's next groups; an UPDATE n, the row length and a tile that is
UNMASKED and not in work; an EXPORT segments of the image that is due; a VERIFY an admitted share; a CT_FINISH aggregates of the round. -/
def argsOk (s : State) (p : Nat) (r : Round) (cv role : Nat) (args : List W64) : Bool :=
  let a := argNat args
  let d := r.desc
  let home := fun (t : Nat) => (ownTiles r).contains t && decide (t % 2 = dieOf cv)
  decide (args.length ≤ 8) &&
  (if role = 0 then
    decide (a 3 = r.batchFrom ∧ a 4 + r.batchFrom = r.batchW + 1 ∧ a 5 = tileElems d ∧ a 6 = d.vectorLength ∧ a 1 ≤ tileCount d)
      && (runTiles args).all (fun t => home t && decide ((getTile r t).prim.watermark < r.batchW) && !beingSwept s p t)
  else if role = 1 then
    home (a 0) && decide (a 1 = (getTile r (a 0)).groups ∧ a 1 + a 2 ≤ foldGroups r
      ∧ a 3 = (masksOf r).length ∧ a 4 = tileFirst d (a 0) ∧ a 5 = tileLen d (a 0) ∧ a 6 = bn (decide (a 1 ≠ 0)))
      && planned s p r cv (a 0) (a 1) (a 2)
  else if role = 2 then
    home (a 0) && decide (a 1 = tileFirst d (a 0) ∧ a 2 = tileLen d (a 0) ∧ a 3 = contributors r ∧ a 4 = d.rowLength)
      && decide ((getTile r (a 0)).prim.phase = .unmasked) && !onTile s p 2 (a 0)
  else if role = 3 then
    home (a 0) && decide (a 1 = tileFirst d (a 0) ∧ a 2 = tileLen d (a 0) ∧ a 3 = d.rowLength)
      && decide ((getTile r (a 0)).applyRec = .untouched ∧ (getTile r (a 0)).staging = none) && !onTile s p 3 (a 0)
      && stagingFree s p r (a 0)
  else if role = 4 then
    decide (nextImage r = some (a 0) ∧ a 1 + a 2 ≤ imageSegments (getPart s p) r (a 0))
  else if role = 5 then decide (Table.get? r.index (a 1) = some (a 0))
  else if role = 6 then decide (r.aggFirst ≤ a 0 ∧ a 0 + a 1 ≤ r.aggFirst + aggregates r)
  else true)

/-- The scalars at work start: X0 to X7 hold the arguments (R225). -/
def startRegs (entry : Nat) (args : List W64) : SeqRegs :=
  { x := Vector.ofFn (fun i : Fin 16 => if i.val < 8 then args.getD i.val 0 else 0), pc := BitVec.ofNat 12 entry }

/-- Does the partition have a work on the caravan, loaded or saved (R225)? -/
def hasWork (s : State) (cv p : Nat) : Bool :=
  (getCv s cv).work.any (fun w => decide (w.part = p)) || Table.has (getPart s p).saved cv

/-- The keys of the round that a caravan's slots hold for the partition: the journal key in OPEN slot 0, K_noise in FINISH slot 0, each
image key in the SEAL slot of its kind's number (R29, R87, R203, R215, R232; the SEAL numbers: DESIGN CHOICE, assumption 47). -/
def roundSlots (p : Nat) (r : Round) : Table (SlotStage × Nat × Nat) Bytes :=
  (r.engineKeys.map (fun k => ((SlotStage.opens, p, 0), k.2.1))).toList
    ++ (r.finish.kNoise.map (fun k => ((SlotStage.finish, p, 0), k))).toList
    ++ r.finish.imgKeys.map (fun e => ((SlotStage.seals, p, e.1), e.2))

/-- The Keeper places them on a caravan that the round uses (R29, R232). -/
def placeKeys (s : State) (cv p : Nat) (r : Round) : State := (roundSlots p r).foldl (fun a e => loadSlot a cv e.1 e.2) s

-- ------------------------------------------------------------------ hand-offs of an unmask (R159, R163)

/-- The caravan whose UNMASK work holds a tile, when one runs. -/
def unmaskHolder (s : State) (p t : Nat) : Option Nat :=
  ((liveWorks s p).find? (fun e => decide (e.2.role = 1 ∧ argNat e.2.args 0 = t))).map (fun e => e.1)

/-- The Steward asks a work to yield; void when its END waits (R227, R246). -/
def asked (w : Work) : Work := if w.ending.isSome then w else { w with yieldAsk := true }

/-- The Steward asks the UNMASK work that holds a tile to yield, loaded or saved (R159, R227). -/
def askYield (s : State) (p t : Nat) : State :=
  match unmaskHolder s p t with
  | none => s
  | some cv =>
    match (getCv s cv).work.filter (fun w => decide (w.part = p)) with
    | some w => setWork s cv (asked w)
    | none =>
      let x := getPart s p
      setPart s p { x with saved := Table.mapVals x.saved (fun k w => if k = cv then asked w else w) }

/-- The caravan is one that runs groups of the tile (R163). -/
def noteUnmasker (r : Round) (t cv : Nat) : Round :=
  let x := getTile r t
  setTile r t { x with unmaskers := insertNat cv x.unmaskers }

-- ------------------------------------------------------------------ chains (R102, R103)

/-- The works of a partition that a chain joins, with their caravans: chained, of one role, on one die (R102; one chain of a role on a
die: DESIGN CHOICE, assumption 90). -/
def chainWorks (s : State) (p role die : Nat) : List (Nat × Work) :=
  (liveWorks s p).filter (fun e => e.2.chained.isSome && decide (e.2.role = role ∧ dieOf e.1 = die))

/-- The chain to which a work belongs; the work alone when it is not chained. -/
def chainOf (s : State) (cv : Nat) (w : Work) : List (Nat × Work) :=
  if w.chained.isSome then chainWorks s w.part w.role (dieOf cv) else [(cv, w)]

/-- Position of a chained work. -/
def chainPos (w : Work) : Nat := w.chained.getD 0

/-- Bytes of a work's ring and elements that it holds at most (R102). -/
def ringBytes (w : Work) : Nat := w.ringUnits * 65536
def ringRoom (w : Work) : Nat := ringBytes w / max 1 w.ringLane

/-- Are the rings of a chain empty, and nothing waits to enter one (R103)? -/
def ringsEmpty (s : State) (cv : Nat) (w : Work) : Bool :=
  (chainOf s cv w).all (fun e => decide (e.2.ring = [] ∧ e.2.exitQ = []))

/-- Are they empty for the rest of the chain's step: no caravan before this one in the chain still runs its step? So the caravans of a
chain end their steps one behind the other, the first one first (R103). -/
def chainStill (s : State) (cv : Nat) (w : Work) : Bool :=
  ringsEmpty s cv w && (chainOf s cv w).all (fun e => decide (chainPos w ≤ chainPos e.2) || e.2.stopped || !(getCv s e.1).stepping)

/-- Units of the ring that a work writes: one for each link, so the last caravan of a chain has none (R102, R104). -/
def ringTaken (s : State) (cv : Nat) (w : Work) : Nat :=
  if w.linked && (chainOf s cv w).any (fun e => decide (chainPos w < chainPos e.2)) then w.ringUnits else 0

/-- Ring units in use on a die; the larder's chain-ring region holds 240, 15 MiB (R104). -/
def ringUnitsOn (s : State) (die : Nat) : Nat :=
  sumNat ((List.range 24).map (fun i =>
    match (getCv s (24 * die + i)).work with
    | none => 0
    | some w => ringTaken s (24 * die + i) w)
    ++ s.parts.map (fun e => sumNat ((e.2.saved.filter (fun v => decide (dieOf v.1 = die))).map (fun v => ringTaken s v.1 v.2))))

/-- The other regions of a die's 64 MiB larder, in bytes: admission staging, Porter ingest, tile transit, chain rings, bridge transit
(R104). -/
def larderRegions : List Nat := [9 * 2 ^ 20, 8 * 2 ^ 20, 24 * 2 ^ 20, 15 * 2 ^ 20, 8 * 2 ^ 20]

/-- WORK_START (R28, R37, R102, R159, R163, R225): a Steward's message starts a work on a caravan that holds none of the partition's;
where another partition's work stands there, the new one waits in the context area for a switch (R89, R98). An UNMASK whose tile
another caravan works on is the Steward's request that this work yields (R159, R227), void when its END waits (R246). -/
def execWorkStart (cv : Nat) (p : Nat) (role : Nat) (args : List W64) (chain : Option Nat) (s : State) :
    Host.Outcome State Fault Refusal :=
  .next (match getRound s p with
    | none => s
    | some r =>
      let x := getPart s p
      let t := argNat args 0
      match roleEntry x r role with
      | none => s
      | some (slot, entry, _) =>
        if cvServes s cv = false ∨ canStep s p = false ∨ r.lost ∨ roleDue r role = false ∨ hasWork s cv p
            ∨ (getCv s cv).switching.isSome ∨ chain.any (fun k => decide (3 < k)) ∨ (chain.isSome ∧ (getCv s cv).duty)
            ∨ (chain.any (fun k => (chainWorks s p role (dieOf cv)).any (fun e => decide (chainPos e.2 = k)))) = true
            ∨ reservedFree s (some p) = 0 then s
        else if role = 1 ∧ (unmaskHolder s p t).isSome = true ∧ t % 2 = dieOf cv then askYield s p t
        else if argsOk s p r cv role args = false then s
        else
          let w : Work := { part := p, setSlot := slot, role := role, args := args, batchW := r.batchW, batchNo := r.batchNo
                            regs := startRegs entry args, chained := chain }
          let s1 := placeKeys (if role = 1 then setRound s p (noteUnmasker r t cv) else s) cv p r
          let c := getCv s1 cv
          let here := decide (c.work = none) && (c.owner.isNone || decide (c.owner = some p))
          let c1 := askStep c x.steward (stepClass w) p
          if here then setCv s1 cv { c1 with work := some w, owner := some p }
          else
            let y := getPart s1 p
            setPart (setCv s1 cv c1) p { y with saved := Table.put y.saved cv w })

-- ------------------------------------------------------------------ steps

/-- The entry budget of a step: 3,200 beats on an admission-duty caravan, else 15,000 (R94, R226). -/
def entryBudget (c : Caravan) : Nat := if c.duty then 3200 else 15000

/-- The entry budget of the first caravan of a chain: 15,987 beats less its own fill and, for each link, 64 beats, the ring and the next
caravan's fill (R103); at least one TURN block of the widest lanes (DESIGN CHOICE, assumption 90). -/
def firstBudget (links : List Nat) : Nat := max 64 (15987 - 987 - sumNat (links.map (fun units => 64 + units * 256 + 987)))

/-- The budget of a work's step: the first caravan of a chain has a shortened one (R103). -/
def stepBudget (s : State) (cv : Nat) (w : Work) : Nat :=
  let l := chainOf s cv w
  if w.chained.isSome && l.all (fun e => decide (chainPos w ≤ chainPos e.2)) then
    firstBudget ((l.filter (fun e => l.any (fun o => decide (chainPos e.2 < chainPos o.2)))).map (fun e => e.2.ringUnits))
  else entryBudget (getCv s cv)

/-- Remove the first occurrence of a message. -/
def takeMail (m : MailMsg) (l : List (MailMsg)) : List (MailMsg) := l.erase m

/-- The step of a message begins: its budgets are full (R94, R226) and the message is out of the mailbox (R96). -/
def beginStep (s : State) (cv budget : Nat) (m : MailMsg) : State :=
  let c := getCv s cv
  let mail := prune s cv [] c.mailbox
  let waits3 := mail.any (fun y => decide (y.cls = Cls.p3))
  setCv s cv { c with
    stepping := true
    entryLeft := budget
    issued := 0
    mailbox := takeMail m mail
    mailTook := Table.put c.mailTook m.steward m.seq
    lastServed := Table.put c.lastServed m.cls.prio m.steward
    sinceP3 := if m.cls = Cls.p3 ∨ waits3 = false then 0 else c.sinceP3 + 1 }

/-- Can the steps of a chain begin together: two to four works, each loaded on a caravan that is free for the partition's step, which
is the next one there (R102, R103)? -/
def chainReady (s : State) (l : List (Nat × Work)) : Bool :=
  decide (2 ≤ l.length ∧ l.length ≤ 4)
    && l.all (fun e => freeForStep s e.1 && (getCv s e.1).work.any (fun w => decide (w.part = e.2.part)) && nextIs s e.1 e.2.part)

/-- The step of a library routine that ends: a REFRESH is so many beats further (R196, R246). -/
def stepLibrary (s : State) (w : Work) (beats : Nat) : State :=
  match w.library, getRound s w.part with
  | some h, some r => setPart s w.part (stepRefresh (getPart s w.part) r h beats)
  | _, _ => s

/-- The running step ends: the rest of its work waits for a step; QUIESCE and Doze hear of it (R94, R226, R275, R423). A work
that ABORT or the Keeper has dropped meanwhile ends here without END (R246). -/
def endStep (a : State) (cv : Nat) : State :=
  let c := getCv a cv
  match c.work with
  | none => settleQuiesce (setCv a cv { c with stepping := false })
  | some w =>
    let s := stepLibrary a w (entryBudget c)
    let gone : Bool := decide ((getPart s w.part).phase ≠ .live) || (match getRound s w.part with
      | none => true
      | some r => decide (r.state = .aborted ∨ r.state = .retired))
    let c1 := { c with stepping := false }
    let c2 := if gone then { c1 with work := none, openBuf := [], sealBuf := [] }
      else if wantsStep w = false then c1
      else askStep c1 (getPart s w.part).steward (stepClass w) w.part
    settleQuiesce (settleUnloads (setCv s cv c2))

/-- Has the running step's budget run out, or is there nothing left for it to issue: the work was dropped, has stopped on a fault, its
END waits, or its library routine cuts itself into steps (R226, R227, R245, R246)? A chained step ends only when its rings are empty
(R103). -/
def stepOver (s : State) (cv : Nat) : Bool :=
  let c := getCv s cv
  (decide (c.entryLeft = 0 ∨ 15000 ≤ c.issued) || c.work.all (fun w => w.stopped || w.library.isSome || w.ending.isSome))
    && c.work.all (fun w => w.stopped || chainStill s cv w)

/-- STEP_BUDGET_END (R103, R226, R246): the entry-beat or instruction budget has run out, and the work suspends with every register
unchanged and its stream positions recorded. -/
def execStepBudgetEnd (cv : Nat) (s : State) : Host.Outcome State Fault Refusal :=
  .next (if (getCv s cv).stepping && stepOver s cv then endStep s cv else s)

-- ------------------------------------------------------------------ context images

/-- Slots that an armed KS.FOLD names (R239). -/
def foldSlots (c : Chain) : List Nat :=
  match c.ks with
  | none => []
  | some a => (List.range (min a.xb.toNat 4096)).map (fun i => (a.xa.toNat + i) % 4096)

/-- Slots that the armed KS.FOLD and those of the sweeps in the chain name. -/
def liveSlots (w : Work) : List Nat :=
  foldSlots w.chain ++ (w.flow.map (fun i => match i with
    | .sweep c _ _ _ _ _ => foldSlots c
    | _ => [])).flatten

/-- A work as it is saved: the seed store is zeroed, and the slots that KS.FOLD names are to be loaded again (R86, R239). -/
def savedWork (w : Work) : Work :=
  { w with
    seeds := []
    loadQ := ((liveSlots w).filterMap (fun i => (Table.get? w.seeds i).map (fun e =>
      ({ first := e.1, slot := i, count := 1 } : SeedLoad)))) ++ w.loadQ }

/-- The first half of an image as it is saved, beginning with the stage and Sequencer state: all but ledger set B with its check store
and the row store (R101; where the half falls is DESIGN CHOICE, assumption 116). -/
def firstSaved (w : Work) : Work := { savedWork w with setB := {}, rowSums := [], rowMaxima := [] }

/-- The first half of an image as it is restored, which leaves the stage and Sequencer state to the last: ledger set A with its check
store (R101). -/
def firstRestored (w : Work) : Work :=
  { part := w.part, setSlot := w.setSlot, role := w.role, args := w.args, setA := w.setA, stopped := true }

/-- Load one queued seed load from the vault (R156, R239): none when a record is missing or its tag fails. -/
def fillSeeds (r : Round) (seeds : Table Nat (Nat × Bool × Bytes)) (q : SeedLoad) : Option (Table Nat (Nat × Bool × Bytes)) :=
  (List.range q.count).foldl (fun acc i =>
    acc.bind (fun t =>
      (Table.get? r.unmask.vault (q.first + i)).bind (fun v =>
        (unwrapRec r (q.first + i) v).map (fun key => Table.put t ((q.slot + i) % 4096) (q.first + i, v.negative, key))))) (some seeds)

/-- Every queued seed load completes (R162, R239): none on a tag failure. -/
def loadSeeds (r : Round) (w : Work) : Option Work :=
  (w.loadQ.foldl (fun acc q => acc.bind (fun t => fillSeeds r t q)) (some w.seeds)).map (fun t => { w with seeds := t, loadQ := [] })

/-- The check words of lane data in the round's lane format: residues, or the byte parities of GF128 elements (R117, R122, R123). -/
def setWords (d : RoundDesc) (parity : Bool) (data : List Nat) : List Nat :=
  checkWords (if parity then .gf128 else .ring 64) (laneBytes d.laneFormat) data

/-- Does a set agree with its check store: every group's word, recomputed from its lanes, is the stored one (R117, R118, R126)? An
EMPTY set holds nothing to compare. -/
def setAgrees (d : RoundDesc) (l : LedgerSet) : Bool :=
  decide (l.state = .empty) || decide (setWords d l.parity l.data = l.check)

/-- Does a restored image agree with its check words and its long-ledger residues (R126)? -/
def imageAgrees (d : RoundDesc) (w : Work) : Bool :=
  setAgrees d w.setA && setAgrees d w.setB && w.rowSums.all (fun e => longChecks e.2)

/-- Save the outgoing image in the context area and zero the stores (steps 2 and 3 of R99). -/
def saveOut (s : State) (cv : Nat) : State :=
  let c := getCv s cv
  let s1 := setCv s cv { c with work := none, owner := none, pages := 0, twiddle := none, openBuf := [], sealBuf := [] }
  match c.work with
  | none => s1
  | some w => setPart s1 w.part { getPart s1 w.part with saved := Table.put (getPart s1 w.part).saved cv (savedWork w) }

/-- Caravans of a die with a switch under way (R100). -/
def switchingOn (s : State) (die : Nat) : Nat :=
  ((List.range 24).filter (fun i => (getCv s (24 * die + i)).switching.isSome)).length

-- ------------------------------------------------------------------ the end of a work

/-- Where the staging slot of a work on a caravan lies in the partition's spaces: SCRATCH area 1 is the work's own (R230). -/
def stagingKey (cv : Nat) : Nat × Nat := (2, 80 + cv)

/-- The record that an APPLY work leaves to be STAGED (R212): that in its staging slot; where it has written none there, its tile's weight
record as it stands, which FIN.APPLY may write itself (R230; DESIGN CHOICE, assumption 124). -/
def stagedRecord (x : Partition) (r : Round) (cv t : Nat) : List W32 :=
  match Table.get? x.spaces (stagingKey cv), x.weights with
  | none, some w => (w.flat.drop (weightParts w.optimiser * tileFirst r.desc t)).take (weightParts w.optimiser * tileLen r.desc t)
  | m, _ => (pieces 4 (Memory.reads (m.getD []) 0 (stagingBytes r.desc t))).map (fun b => BitVec.ofNat 32 (leNat b))

/-- A work's staging slot is free again (R201). -/
def freeStaging (x : Partition) (cv : Nat) : Partition :=
  { x with spaces := Table.erase (Table.erase x.spaces (stagingKey cv)) ((stagingKey cv).1 + 16, (stagingKey cv).2) }

/-- What the Steward does with a work's progress word, and what an ended work of a round that is not lost leaves to commit: an UNMASK the groups done; an APPLY
the record in its staging slot; an EXPORT the segments that it has sealed; a VERIFY the share whose record is due; a CT_FINISH its
ciphertexts (R159, R198, R212, R249). -/
def commitProgress (s : State) (cv : Nat) (w : Work) (n : Nat) : State :=
  match getRound s w.part with
  | none => s
  | some r =>
    let t := argNat w.args 0
    if r.lost then s
    else if w.role = 1 ∧ r.state = .unmasking then
      let x := getTile r t
      setRound s w.part (setTile r t { x with groups := x.groups + min n (argNat w.args 2) })
    else if w.role = 3 ∧ r.state = .finishing then
      let r1 := setTile r t { getTile r t with staging := some (stagedRecord (getPart s w.part) r cv t) }
      setPart s w.part { freeStaging (getPart s w.part) cv with round := some r1 }
    else if w.role = 4 ∧ r.state = .finishing ∧ nextImage r = some t then
      setRound s w.part { r with finish := { r.finish with
        sealed := (List.range (argNat w.args 2)).foldl (fun l i => insertNat (argNat w.args 1 + i) l) r.finish.sealed } }
    else if w.role = 5 then
      setRound s w.part { r with share := { r.share with verified := insertNat (argNat w.args 1) r.share.verified } }
    else if w.role = 6 ∧ r.state = .finishing then
      setRound s w.part { r with finish := { r.finish with
        ctDone := (List.range (argNat w.args 1)).foldl (fun l i => insertNat (t + i) l) r.finish.ctDone } }
    else s

/-- WORK_END_COMPLETE (R227, R245): END has waited until everything the work issued is complete. It requires both sets EMPTY,
posts the progress word, and the work is over. -/
def execWorkEndComplete (cv : Nat) (s : State) : Host.Outcome State Fault Refusal :=
  .next (
    let c := getCv s cv
    match c.work with
    | none => s
    | some w =>
      match w.ending with
      | none => s
      | some word =>
        if w.flow ≠ [] ∨ w.shadowQ ≠ [] ∨ w.draining.isSome ∨ w.loadQ ≠ [] ∨ w.stopped ∨ w.ring ≠ [] ∨ w.exitQ ≠ []
            ∨ chainStill s cv w = false then s
        else if w.setA.state ≠ .empty ∨ w.setB.state ≠ .empty then stopWork s cv w .malformed
        else
          let s1 := setCv s cv { c with work := none, stepping := false
                                        faultedOn := if inReplay s cv w then none else c.faultedOn
                                        mailbox := c.mailbox.filter (fun m => decide (m.part ≠ w.part)) }
          settleQuiesce (settleUnloads (commitProgress s1 cv w word.toNat)))

end Sys2Proof.Machine
end

