-- ==== Sys2Proof/Machine/Operands.lean ====
section
/-! DEFINITION. Operand forms of the Falnyx word: scalar registers, immediates, ledger handles, stream descriptors and their
fields, templates (R223, R229, R233, R244). -/

namespace Sys2Proof.Machine

/-- Register Xi (R223). -/
def getX (r : SeqRegs) (i : BitVec 4) : W64 := r.x[i.toNat]'(by have := i.isLt; omega)

/-- Set register Xi. -/
def setX (r : SeqRegs) (i : BitVec 4) (v : W64) : SeqRegs := { r with x := r.x.set i.toNat v (by have := i.isLt; omega) }

/-- Register Si (R223). -/
def getS (r : SeqRegs) (i : BitVec 4) : StreamDesc := r.s[i.toNat]'(by have := i.isLt; omega)

/-- Set register Si. -/
def setS (r : SeqRegs) (i : BitVec 4) (v : StreamDesc) : SeqRegs := { r with s := r.s.set i.toNat v (by have := i.isLt; omega) }

/-- Register Ln: four of them, the index modulo 4 (R223). -/
def getL (r : SeqRegs) (i : BitVec 4) : W64 := r.l[i.toNat % 4]'(by omega)

/-- Set register Ln. -/
def setL (r : SeqRegs) (i : BitVec 4) (v : W64) : SeqRegs := { r with l := r.l.set (i.toNat % 4) v (by omega) }

/-- The immediate as a signed value (R233). -/
def sextImm (f : FWord) : W64 := f.imm.signExtend 64

/-- The second operand: Xb, or the immediate when modifier bit 0 selects it (R244). -/
def operandB (r : SeqRegs) (f : FWord) : W64 := if f.modif.getLsbD 0 then sextImm f else getX r f.srcB

/-- Tile of a ledger handle: bits 31 to 0 (R223). -/
def handleTile (l : W64) : Nat := l.toNat % 2 ^ 32

/-- Source bank of a ledger handle: bit 32 (R223). -/
def handleSource (l : W64) : Bool := l.getLsbD 32

-- ------------------------------------------------------------------ stream descriptors (R229)

/-- A field of a descriptor. -/
def descBits (d : StreamDesc) (lo w : Nat) : Nat := bits d.toNat lo w

def descBase (d : StreamDesc) : Nat := descBits d 0 48
def descSpace (d : StreamDesc) : Nat := descBits d 48 4
def descKind (d : StreamDesc) : Nat := descBits d 52 2
def descFormat (d : StreamDesc) : Nat := descBits d 54 2
def descPacked (d : StreamDesc) : Nat := descBits d 56 7
def descLength (d : StreamDesc) : Nat := descBits d 64 36
def descLimb (d : StreamDesc) : Nat := descBits d 100 6
def descVindex (d : StreamDesc) : Nat := descBits d 192 36
def descWindow (d : StreamDesc) : Nat := descBits d 228 20
/-- The stride, two's complement of 40 bits. -/
def descStride (d : StreamDesc) : Int := (BitVec.ofNat 40 (descBits d 128 40)).toInt

/-- A descriptor with the field at a place replaced. -/
def putDescBits (d : StreamDesc) (lo w v : Nat) : StreamDesc :=
  BitVec.ofNat 256 (d.toNat - descBits d lo w * 2 ^ lo + v % 2 ^ w * 2 ^ lo)

/-- Place and width of the field that SSET's modifier selects (R244). -/
def ssetField (m : Nat) : Nat × Nat :=
  if m = 0 then (0, 48) else if m = 1 then (64, 36) else if m = 2 then (128, 40) else if m = 3 then (192, 36)
  else if m = 4 then (228, 20) else (100, 6)

/-- The set from which a work runs (R225). -/
def workSet (x : Partition) (w : Work) : Option ItinSet := Table.get? x.itins w.setSlot

/-- The descriptor template of an id: 0 where the set has none (R251 lets none execute). -/
def templateOf (x : Partition) (w : Work) (id : Nat) : StreamDesc :=
  match (workSet x w).bind (fun t => constBody t 1 id) with
  | none => 0
  | some b => BitVec.ofNat 256 (leNat b)

/-- Are the descriptor's own fields legal: its space and kind defined, its lane format one of three, its packing 0 or from 8 to 64,
its reserved bits 0, a blocked one with a legal stride and length (R229, R241)? -/
def descOk (d : StreamDesc) : Bool :=
  decide (descSpace d ≤ 8) && decide (descKind d ≤ 2) && decide (descFormat d ≤ 2)
    && decide (descPacked d = 0 ∨ (8 ≤ descPacked d ∧ descPacked d ≤ 64))
    && decide (descBits d 63 1 = 0 ∧ descBits d 106 22 = 0 ∧ descBits d 168 24 = 0 ∧ descBits d 248 8 = 0)
    && decide (descKind d ≠ 1 ∨ (descStride d % 32 = 0 ∧ 32 ≤ (descStride d).natAbs ∧ descLength d % 1024 = 0))
    && decide (descLimb d ≤ 55)

/-- Lane bits of a descriptor's lane format. -/
def laneBits (d : StreamDesc) : Nat := 8 * laneBytes (descFormat d)

end Sys2Proof.Machine
end

