-- ==== Sys2Proof/Machine/Flags.lean ====
section
/-! DEFINITION. The predicates Q0 to Q7: their reads and writes, the conditions of CMP, the inversion of BR (R223, R244). -/

namespace Sys2Proof.Machine

/-- Read predicate Qi: Q0 always reads 1 (R223). -/
def getQ (r : SeqRegs) (i : Nat) : Bool := decide (i = 0) || r.q.getLsbD i

/-- Write predicate Qi: a write to Q0 is ignored (R223). -/
def setQ (r : SeqRegs) (i : Nat) (v : Bool) : SeqRegs :=
  if i = 0 then r else { r with q := (r.q &&& ~~~((1 : BitVec 8) <<< i)) ||| (if v then (1 : BitVec 8) <<< i else 0) }

/-- The conditions of CMP: 0 eq, 1 ne, 2 ltu, 3 geu, 4 lts, 5 ges (R244). -/
def cmpCond (c : Nat) (a b : W64) : Bool :=
  if c = 0 then decide (a = b)
  else if c = 1 then decide (a ≠ b)
  else if c = 2 then decide (a.toNat < b.toNat)
  else if c = 3 then decide (b.toNat ≤ a.toNat)
  else if c = 4 then decide (a.toInt < b.toInt)
  else decide (b.toInt ≤ a.toInt)

/-- The condition of BR: predicate src_a[2:0], inverted by src_a[3] (R244). -/
def brTaken (r : SeqRegs) (srcA : BitVec 4) : Bool := getQ r (srcA.toNat % 8) != srcA.getLsbD 3

end Sys2Proof.Machine
end

