-- ==== Sys2Proof/Machine/Streams.lean ====
section
/-! DEFINITION. Streams and the spaces that they address: bounds, access, element order, reads and writes, and reads that no
WAIT orders (R229 to R232, R239, R241). -/

namespace Sys2Proof.Machine

/-- What a stream is read or written for: the partition, its round, the caravan, its work, and the key slots of its stages. -/
structure Env where
  x  : Partition
  r  : Round
  cv : Nat
  w  : Work
  slots : Table (SlotStage × Nat × Nat) Bytes
  deriving DecidableEq, Repr

/-- The environment of a work on a caravan. -/
def envOf (s : State) (cv : Nat) (w : Work) (r : Round) : Env := ⟨getPart s w.part, r, cv, w, (getCv s cv).slots⟩

/-- The key that a stage finds in a slot of the work's partition: none for an empty slot (R29, R87). -/
def envKey (e : Env) (stage : SlotStage) (n : Nat) : Option Bytes := Table.get? e.slots (stage, e.w.part, n)

-- ------------------------------------------------------------------ places

/-- Unit of a space that a base selects: a SCRATCH area, a WEIGHTS tile, an OUTBUF buffer, a RING (R230). -/
def unitOf (d : StreamDesc) : Nat :=
  let b := descBase d
  if descSpace d = 2 ∨ descSpace d = 8 then b / 2 ^ 44
  else if descSpace d = 3 then b / 2 ^ 24
  else if descSpace d = 6 then b % 4
  else 0

/-- Byte offset of a base within its unit (R230). -/
def offsetOf (d : StreamDesc) : Nat :=
  let b := descBase d
  if descSpace d = 2 ∨ descSpace d = 8 then b % 2 ^ 44
  else if descSpace d = 3 then b % 2 ^ 24
  else if descSpace d = 6 then 0
  else b

/-- The host buffer of an OUTBUF number: 0 and 1 by ROUND.OUTBUF, 2 by SHARE.OUTBUF (R230; the number of the last is DESIGN
CHOICE, assumption 41). -/
def hostBuffer (r : Round) (n : Nat) : Option (W64 × Nat × Port) :=
  if n = 2 then r.share.outbuf else Table.get? r.outbufs n

/-- The constant table of a set as bytes: the entries with their headers, each padded to 16 bytes (R247). -/
def constBytes (t : ItinSet) : Bytes :=
  (t.consts.map (fun c => toLe 2 c.1 ++ toLe 2 c.2.1 ++ toLe 4 c.2.2.length ++ zeroBytes 8
    ++ padTo (ceilDiv c.2.2.length 16 * 16) c.2.2)).flatten

/-- Bytes of the weight record of a tile (R211). -/
def recordBytes (e : Env) (t : Nat) : Nat :=
  match e.x.weights with
  | none => 0
  | some w => if (ownTiles e.r).contains t then 4 * weightParts w.optimiser * tileLen e.r.desc t else 0

/-- The bounds that the Steward sets on a unit of a space, in bytes (R230). Of CTSTORE no bound is stated: all the partition's granules
(DESIGN CHOICE, assumption 150). -/
def spaceBytes (e : Env) (space unit : Nat) : Nat :=
  if space = 2 then
    (if unit = 0 then 131072 * tileCount e.r.desc
     else if unit = 1 then stagingBytes e.r.desc (argNat e.w.args 0)
     else if unit = 2 then 12 * ceilDiv e.r.desc.vectorLength e.r.desc.rowLength
     else if unit = 3 then 2 ^ 24 else 0)
  else if space = 3 then recordBytes e unit
  else if space = 4 then (e.x.gran0.length + e.x.gran1.length) * 2 ^ 30
  else if space = 5 then (match workSet e.x e.w with
    | none => 0
    | some t => (constBytes t).length)
  else if space = 8 then (match hostBuffer e.r unit with
    | none => 0
    | some b => b.2.1)
  else 0

/-- Where a unit's bytes lie in the partition's spaces: the staging slot and the temporary area are the work's own. -/
def areaKey (e : Env) (space unit : Nat) : Nat × Nat :=
  if space = 2 ∧ (unit = 1 ∨ unit = 3) then (space, 16 + 64 * unit + e.cv) else (space, unit)

/-- The key of the record of which bytes of a unit have been written, and under which epoch's bit (R20, R297). -/
def writtenKey (k : Nat × Nat) : Nat × Nat := (k.1 + 16, k.2)

/-- The memory of a unit. -/
def spaceMem (x : Partition) (k : Nat × Nat) : Memory := Table.getD x.spaces k []

-- ------------------------------------------------------------------ element order

/-- Element offset of element i of a stream from its base: linear ones in order; blocked ones by blocks of 32 rows of 32
elements, in ascending order of their first elements (R229); those of a negative stride, for which the rule's condition has no meaning, in
the order of the stride's magnitude (DESIGN CHOICE, assumption 151). -/
def elemOffset (d : StreamDesc) (i : Nat) : Int :=
  if descKind d = 1 then
    let s := (descStride d).natAbs
    let per := s / 32
    let k := i / 1024
    let first := k / per * (32 * s) + 32 * (k % per)
    (first : Int) + ((i % 1024 / 32 : Nat) : Int) * descStride d + ((i % 32 : Nat) : Int)
  else (i : Int)

/-- Does every element of a stream lie in a unit's bounds? Elements of b bits. -/
def withinBounds (e : Env) (d : StreamDesc) (b : Nat) : Bool :=
  let bound := spaceBytes e (descSpace d) (unitOf d)
  let fits := fun (i : Nat) =>
    let o := elemOffset d i
    decide (0 ≤ o) && decide (offsetOf d + ceilDiv ((o.toNat + 1) * b) 8 ≤ bound)
  if descKind d = 1 then (List.range (descLength d / 32)).all (fun j => fits (32 * j) && fits (32 * j + 31))
  else decide (descLength d = 0) || fits (descLength d - 1)

-- ------------------------------------------------------------------ reading bytes

/-- What a byte of a unit reads as when nothing of the work space has been written over it: the row table, the weight records, the
ciphertext store (free: no layout is stated), the constant table, zeros elsewhere (R209, R211, R230, R247, R295). -/
def baseByte (free : Nat) (e : Env) (space unit a : Nat) : Byte :=
  if space = 2 ∧ unit = 2 then
    let t := Table.getD e.r.finish.rows (a / 12) {}
    BitVec.ofNat 8 (bits ([t.norm, t.factor, t.maxAbs].getD (a % 12 / 4) 0).toNat (8 * (a % 4)) 8)
  else if space = 3 then
    match e.x.weights with
    | none => 0
    | some w => BitVec.ofNat 8 (bits (w.flat.getD (weightParts w.optimiser * tileFirst e.r.desc unit + a / 4) 0).toNat
        (8 * (a % 4)) 8)
  else if space = 4 then Sys2Proof.Config.storeByte free a
  else if space = 5 then
    match workSet e.x e.w with
    | none => 0
    | some t => (constBytes t).getD a 0
  else 0

/-- A byte of a unit as it stands. -/
def standingByte (free : Nat) (e : Env) (space unit a : Nat) : Byte :=
  let k := areaKey e space unit
  if Memory.read (spaceMem e.x (writtenKey k)) a ≠ 0 then Memory.read (spaceMem e.x k) a else baseByte free e space unit a

/-- A byte as a stream reads it: of a 64-byte line that a write reached and no WAIT ordered, the whole old or the whole new line
(R239). -/
def readByte (free : Nat) (e : Env) (space unit a : Nat) : Byte :=
  let k := areaKey e space unit
  match e.w.unordered.find? (fun u => decide (u.2.1 = k.1 ∧ u.2.2.1 = k.2 ∧ u.2.2.2.1 = a / 64 * 64)) with
  | none => standingByte free e space unit a
  | some u => if Sys2Proof.Config.freeLine free (a / 64) then u.2.2.2.2.getD (a % 64) 0 else standingByte free e space unit a

/-- n bytes of a unit from an address. -/
def readBytes (free : Nat) (e : Env) (space unit a n : Nat) : Bytes :=
  (List.range n).map (fun i => readByte free e space unit (a + i))

/-- Byte offset, from a stream's base, of byte o of its elements in their order: where a blocked stream has it (R229). -/
def streamByte (d : StreamDesc) (o : Nat) : Nat :=
  let b := laneBytes (descFormat d)
  (elemOffset d (o / b)).toNat * b + o % b

/-- A little-endian word of a table that a descriptor names, at a byte offset from its base in the stream's order. -/
def tableWord (free : Nat) (e : Env) (d : StreamDesc) (o : Nat) : W32 :=
  BitVec.ofNat 32 (leNat (readBytes free e (descSpace d) (unitOf d) (offsetOf d + streamByte d o) 4))

/-- Element i of a stream, of b bits, read from its unit. -/
def streamElem (free : Nat) (e : Env) (d : StreamDesc) (b i : Nat) : Nat :=
  let at_ := (elemOffset d i).toNat * b
  bits (leNat (readBytes free e (descSpace d) (unitOf d) (offsetOf d + at_ / 8) (b / 8 + 2))) (at_ % 8) b

-- ------------------------------------------------------------------ rings (R102)

/-- The caravan that writes a ring of the work's chain: the chained work of the partition and die at that position (R102). -/
def ringWriter (s : State) (e : Env) (ring : Nat) : Option Nat :=
  ((List.range 24).map (fun i => 24 * dieOf e.cv + i)).find? (fun cv =>
    (getCv s cv).work.any (fun w => decide (w.part = e.w.part ∧ w.role = e.w.role ∧ w.chained = some ring) && w.linked))

/-- Elements waiting in a ring of the work's chain. -/
def ringElems (s : State) (e : Env) (ring : Nat) : List Nat :=
  match ringWriter s e ring with
  | none => []
  | some cv => match (getCv s cv).work with
    | none => []
    | some w => w.ring

/-- Everything on its way into a ring, in the order written: what the ring holds, then what a full ring makes wait at the exit (R88,
R102). -/
def ringAll (w : Work) : List Nat := w.ring ++ w.exitQ

/-- A work whose ring and exit hold a list of elements: as many as fit are in the ring (R102). -/
def fillRing (w : Work) (l : List Nat) : Work := { w with ring := l.take (ringRoom w), exitQ := l.drop (ringRoom w) }

/-- Take n elements from a ring: room is made, and what waits at its writer's exit moves up (R88, R102). -/
def takeRing (s : State) (e : Env) (ring n : Nat) : State :=
  match ringWriter s e ring with
  | none => s
  | some cv => match (getCv s cv).work with
    | none => s
    | some w => setWork s cv (fillRing w ((ringAll w).drop n))

-- ------------------------------------------------------------------ writing

/-- The lines of n bytes at an address of a unit that a write reaches and no WAIT has ordered, with what they held before (R239);
whether a LEDG.SAVE writes them says which WAIT orders them. -/
def oldLines (free : Nat) (e : Env) (bySave : Bool) (space unit a n : Nat) : List (Bool × Nat × Nat × Nat × Bytes) :=
  let k := areaKey e space unit
  let lines := (List.range (ceilDiv (a % 64 + n) 64)).map (fun i => a / 64 * 64 + 64 * i)
  let fresh := lines.filter (fun l => !e.w.unordered.any (fun u => decide (u.2.1 = k.1 ∧ u.2.2.1 = k.2 ∧ u.2.2.2.1 = l)))
  fresh.map (fun l => (bySave, k.1, k.2, l, (List.range 64).map (fun i => standingByte free e space unit (l + i))))

/-- The environment with lines recorded as not ordered. -/
def noteLines (free : Nat) (e : Env) (bySave : Bool) (space unit a n : Nat) : Env :=
  { e with w := { e.w with unordered := e.w.unordered ++ oldLines free e bySave space unit a n } }

/-- Write bytes at an address of a unit, and record the lines that no WAIT has ordered yet (R239). -/
def writeUnit (free : Nat) (e : Env) (bySave : Bool) (space unit a : Nat) (b : Bytes) : Env :=
  let k := areaKey e space unit
  let e1 := noteLines free e bySave space unit a b.length
  let m := Memory.writes (spaceMem e.x k) a b
  let n := Memory.writes (spaceMem e.x (writtenKey k)) a (List.replicate b.length currentMark)
  { e1 with x := { e.x with spaces := Table.put (Table.put e.x.spaces k m) (writtenKey k) n } }

/-- A list with the elements from a place on replaced. -/
def spliceAt {α : Type} (l : List α) (i : Nat) (new : List α) : List α := l.take i ++ new ++ l.drop (i + new.length)

/-- First word of a tile's weight record in the image (R211). -/
def recordFirst (e : Env) (w : Weights) (t : Nat) : Nat := weightParts w.optimiser * tileFirst e.r.desc t

/-- The image with bytes written at an offset of a tile's weight record. -/
def overRecord (e : Env) (t a : Nat) (b : Bytes) (w : Weights) : Weights :=
  let old := wordsLe ((w.flat.drop (recordFirst e w t)).take (recordBytes e t / 4))
  let new := (pieces 4 (spliceAt old a b)).map (fun v => (BitVec.ofNat 32 (leNat v) : W32))
  { w with flat := spliceAt w.flat (recordFirst e w t) new }

/-- Write bytes at an offset of a tile's weight record, as FIN.APPLY does in role APPLY (R211, R230). -/
def writeRecord (free : Nat) (e : Env) (t a : Nat) (b : Bytes) : Env :=
  { noteLines free e false 3 t a b.length with x := { e.x with weights := e.x.weights.map (overRecord e t a b) } }

/-- A byte string cut into the pieces that a stream's elements take, each at its place: one piece for a linear stream, 32 elements a
piece for a blocked one; no more than the stream holds (R229, R230). -/
def streamRuns (d : StreamDesc) (b : Bytes) : List (Nat × Bytes) :=
  let w := laneBytes (descFormat d)
  let m := b.take (descLength d * w)
  if descKind d = 1 then
    let runs := pieces (32 * w) m
    (List.range runs.length).map (fun j => (offsetOf d + (elemOffset d (32 * j)).toNat * w, runs.getD j []))
  else [(offsetOf d, m)]

/-- The partition and work of an environment go back to the state; the work's own round is unchanged by streams. -/
def putEnv (s : State) (e : Env) : State := setWork (setPart s e.w.part e.x) e.cv e.w

-- ------------------------------------------------------------------ checks of R241 on descriptors

/-- Is a descriptor valid as the source of a SWEEP: space, kind and fields (first check of R241)? -/
def sourceOk (d : StreamDesc) : Bool :=
  descOk d && decide (descSpace d ≠ 7)
    && decide (descSpace d ≠ 2 ∨ unitOf d ≤ 3)
    && (if descSpace d = 1 then decide (descKind d = 2 ∧ 1 ≤ descWindow d ∧ descWindow d ≤ 524288) else decide (descKind d ≠ 2))

/-- Is a descriptor valid as a destination: space, kind and reserved fields (first check of R241)? -/
def destOk (d : StreamDesc) : Bool :=
  descOk d && decide (descSpace d ≠ 7 ∧ descSpace d ≠ 0 ∧ descKind d ≠ 2)
    && decide (descSpace d ≠ 2 ∨ unitOf d ≤ 3)

/-- Does a destination in the ciphertext store touch an evaluation key, which is read-only (R230)? -/
def touchesKey (x : Partition) (d : StreamDesc) : Bool :=
  decide (descSpace d = 4) && x.keySets.any (fun k => decide (k.2.evalKeys ≠ []))
    && (List.range (descLength d * laneBytes (descFormat d))).any (fun o => Sys2Proof.Config.evalKeyByte (offsetOf d + streamByte d o))

/-- May a stage's side stream write the space (R230)? Not a host buffer: nothing leaves the package but through SEAL (R1, R39). -/
def sideWritable (x : Partition) (d : StreamDesc) : Bool :=
  decide (descSpace d = 2 ∨ descSpace d = 4 ∨ descSpace d = 6) && !touchesKey x d

/-- May HASH write the space: a host buffer too, since what it sends there are digests (R230, R244)? -/
def digestWritable (x : Partition) (d : StreamDesc) : Bool := sideWritable x d || decide (descSpace d = 8)

/-- May the exit of a SWEEP write the space (R230)? A host buffer only behind an armed SEAL (R1, R39). -/
def writable (x : Partition) (seals : Bool) (d : StreamDesc) : Bool :=
  sideWritable x d || (decide (descSpace d = 8) && seals)

/-- The journal record of a sequence number. -/
def journalAt (r : Round) (n : Nat) : Option JournalRec := r.journal.find? (fun j => decide (j.seq = n))

/-- Bits of an element as it enters: packed input where UNPACK is armed, else the lane width; two 64-bit words make an element of a
field above 2^64 (R108, R229). In F64, FP and RNS a packed_bits that is not the table's width is taken as unsigned elements of that width
(DESIGN CHOICE, assumption 138). -/
def entryBits (d : StreamDesc) (unpacks wide : Bool) : Nat :=
  if unpacks then (if wide then 128 else if descPacked d = 0 then laneBits d else descPacked d) else laneBits d

/-- Segments of an envelope that hold an element of a window (R231). -/
def windowSegs (d : StreamDesc) (b : Nat) : List Nat :=
  let lo := descVindex d * b / 8388608
  let hi := ((descVindex d + descWindow d) * b - 1) / 8388608
  (List.range (hi - lo + 1)).map (fun i => lo + i)

/-- Does a source's whole extent lie in its space (second check of R241)? The round's contributions for a slice stream, with
the segments that hold the window; the elements for others. -/
def sourceInside (e : Env) (q : Option Proof) (d : StreamDesc) (b : Nat) : Bool :=
  if descSpace d = 0 then true
  else if descSpace d = 6 then e.w.linked && decide (e.w.chained ≠ some (unitOf d))
  else if descSpace d = 1 then
    decide ((descVindex d + descWindow d) * b ≤ 8 * payloadLen e.r.desc q)
      && (windowSegs d b).all (fun i => (ownSegs e.r q).contains i)
      && (List.range (descLength d)).all (fun i => (journalAt e.r (descBase d + i)).isSome)
  else withinBounds e d b

/-- Does a destination's extent lie in its space? A ring is the one that the work writes, after its LINK (R102, R230, R244). -/
def destInside (e : Env) (d : StreamDesc) : Bool :=
  if descSpace d = 6 then e.w.linked && decide (e.w.chained = some (unitOf d)) else withinBounds e d (laneBits d)

end Sys2Proof.Machine
end

