-- ==== Sys2Proof/Machine/Stages.lean ====
section
/-! DEFINITION. The stages of a caravan on the slices of a SWEEP or of a routed drain: OPEN, UNPACK, KEYSTREAM, COMBINE, LEDGER,
TURN, NTT, FINISH, SEAL (R82 to R91, R107 to R116, R146 to R148, R184, R185, R202 to R221, R236 to R244). -/

namespace Sys2Proof.Machine

-- ------------------------------------------------------------------ domains of a chain

/-- The computing domain that a domain code names in a round: k from ring_k, p from field_prime, a limb's prime from the key set
(R107, R234); none where the round gives it no parameter, and for FLT. -/
def domainOf (x : Partition) (d : RoundDesc) (code limb : Nat) : Option Domain :=
  if code = 1 then (if d.ringK = 0 then none else some (.ring d.ringK))
  else if code = 2 then some (.field f64Prime)
  else if code = 3 then (if d.mode = 1 then some (.field (roundPrime d)) else none)
  else if code = 4 then
    if d.mode = 2 then (roundKeySet x d).bind (fun k => (k.primes[limb]?).map Domain.field) else none
  else if code = 5 then some .gf128
  else none

/-- Does a lane format hold a domain's elements (R107)? A lane quad holds no ring element. -/
def formatHolds (code fmt : Nat) (dom : Domain) : Bool :=
  match dom with
  | .ring k => decide (fmt = 1 ∨ (fmt = 0 ∧ k ≤ 32))
  | .gf128 => decide (fmt = 2)
  | .field p => if code = 3 then decide (fmt = 2 ∨ (fmt = 1 ∧ p < 2 ^ 64) ∨ (fmt = 0 ∧ p < 2 ^ 32)) else decide (1 ≤ fmt)

/-- Is an optional arm there with a modifier? -/
def armIs (a : Option Arm) (op m : Nat) : Bool := a.any (fun x => decide (x.op = op ∧ x.word.modif.toNat = m))

/-- OPEN multiplies in GF(2^128) (R244, modifier 3). -/
def opensGf (c : Chain) : Bool := armIs c.openS 0x20 3

/-- OPEN unwraps journal records (R231, modifier 2). -/
def opensJournal (c : Chain) : Bool := armIs c.openS 0x20 2

/-- The domain codes of the armed stages that carry one. -/
def chainDomains (c : Chain) : List Nat :=
  ([c.unpack, c.ks, c.comb, c.ntt].filterMap (fun a => a.map (fun x => x.word.domain.toNat)))
    ++ (if opensGf c then [5] else [])

/-- LEDGER accumulates, or emits (R244). -/
def accumulates (c : Chain) : Bool := armIs c.ledger 0x50 0
def emits (c : Chain) : Bool := armIs c.ledger 0x50 1

/-- Does COMBINE name a selector as an operand (R242)? -/
def combUses (c : Chain) (sel : Nat) : Bool :=
  c.comb.any (fun a => decide (a.word.srcA.toNat = sel ∨ a.word.srcB.toNat = sel))

/-- COMBINE writes the active set. -/
def combToLedger (c : Chain) : Bool := c.comb.any (fun a => decide (a.word.dst = 2))

/-- The broadcast scalars of COMBINE, read when its marker issued (R237, R242). -/
def broadcasts (c : Chain) : List Nat :=
  match c.comb with
  | none => []
  | some a => (if 8 ≤ a.word.srcA.toNat then [a.xa.toNat] else []) ++ (if 8 ≤ a.word.srcB.toNat then [a.xb.toNat] else [])

/-- Does an armed stage consume bus B (fourth check of R241)? -/
def usesBusB (c : Chain) : Bool := combUses c 1 || opensGf c

/-- The domain in which FINISH reads the round's ledger (R110, R202): the ring, or the field. -/
def ledgerDomain (d : RoundDesc) : Domain := if d.mode = 0 then .ring d.ringK else .field (roundPrime d)

/-- Fifth check of R241: every armed stage supports the stream's domain and lane format. The armed stages agree on one domain;
broadcast scalars are canonical in it; NTT takes 64-bit moduli; FINISH converts from RING, F64 and FP; GF128 adds only. -/
def domainsOk (x : Partition) (d : RoundDesc) (c : Chain) (fmt limb : Nat) : Bool :=
  (match chainDomains c with
    | [] => true
    | code :: rest => rest.all (fun y => decide (y = code)) &&
      (match domainOf x d code limb with
        | none => false
        | some dom => formatHolds code fmt dom
            && (broadcasts c).all (fun v => decide (v < dom.modulus))
            && (c.ntt.isNone || decide (dom.modulus ≤ 2 ^ 64))
            && (code ≠ 5 || !(c.comb.any (fun a => decide (a.op = 0x42))))))
    && ((c.noise.isNone && !armIs c.scale 0x82 0) || decide (d.mode ≤ 1))

-- ------------------------------------------------------------------ the exit (sixth check of R241)

/-- The stages of a chain in order, each as (consumes bus A into a store, produces bus A). -/
def stageRoles (c : Chain) : List (Bool × Bool) :=
  [ (false, c.openS.isSome), (false, c.unpack.isSome)
  , (combToLedger c, c.comb.isSome && !combToLedger c)
  , (false, emits c), (false, c.turn.isSome), (false, c.ntt.isSome)
  , (false, c.noise.isSome || c.scale.isSome || c.clip.isSome)
  , (c.apply.isSome || c.rows.isSome, false)
  , (c.hash.isSome, false), (false, c.sealS.isSome) ]

/-- Does a stage after the last armed consumer produce bus A (R241; DEDUCED, assumption 42)? -/
def exitDue : List (Bool × Bool) → Bool
  | [] => false
  | (k, p) :: l => if l.any (fun e => e.1) then exitDue l else (if k then l.any (fun e => e.2) else p || l.any (fun e => e.2))

/-- An exit descriptor must be given. -/
def needsExit (c : Chain) : Bool := exitDue (stageRoles c)

-- ------------------------------------------------------------------ slices

/-- The OPEN slot of an armed OPEN: the journal key's is slot 0, whatever the immediate says (R231, R232, R244). -/
def openSlot (a : Arm) : Nat := if a.word.modif = 2 then 0 else a.word.imm.toNat

/-- Does an armed OPEN, FINISH noise or SEAL stage find its slot empty or foreign: it writes no output and returns AUTH_FAIL (R29)? -/
def slotsEmpty (e : Env) (c : Chain) : Bool :=
  c.openS.any (fun a => decide (a.word.modif ≠ 3) && (envKey e .opens (openSlot a)).isNone)
    || c.noise.any (fun a => (envKey e .finish a.word.imm.toNat).isNone)
    || c.sealS.any (fun a => (envKey e .seals a.word.imm.toNat).isNone)

/-- Cut a list into pieces of k elements. -/
def cutList {α : Type} : Nat → Nat → List α → List (List α)
  | 0, _, _ => []
  | n + 1, k, l => l.take k :: cutList n k (l.drop k)

/-- Cut a list into pieces of k elements, all of them. -/
def cutAll {α : Type} (k : Nat) (l : List α) : List (List α) := cutList (ceilDiv l.length k) k l

/-- What OPEN and the entry deliver: a detected fault (row of R371, 0 for UNPACK's RANGE), or elements. -/
abbrev Detected (α : Type) := Except Nat α

/-- UNPACK of one packed value of b bits (R108): signed reading extends below k bits; a value at or above a modulus is
refused with RANGE. -/
def unpackElem (dom : Domain) (b : Nat) (isSigned : Bool) (v : Nat) : Option Nat :=
  match dom with
  | .ring k => some (if b < k ∧ isSigned = true ∧ 2 ^ (b - 1) ≤ v then (v + 2 ^ k - 2 ^ b) % 2 ^ k else v % 2 ^ k)
  | .field p => if v < p then some v else none
  | .gf128 => some v

/-- UNPACK of a slice, or its elements unchanged. -/
def unpackSlice (dom : Option Domain) (c : Chain) (b : Nat) (l : List Nat) : Detected (List Nat) :=
  match c.unpack, dom with
  | some a, some dm =>
    match allSome (l.map (unpackElem dm b (a.word.modif.getLsbD 0))) with
    | none => .error 0
    | some m => .ok m
  | _, _ => .ok l

/-- The lanes of b bits that a byte string spells from a bit position on, n of them (R109). -/
def lanesOf (b n skip : Nat) (bytes : Bytes) : List Nat :=
  (List.range n).map (fun i => bits (field bytes ((skip + i * b) / 8) (b / 8 + 2)) ((skip + i * b) % 8) b)

/-- One contribution of a slice stream: OPEN unwraps the record's key under the journal key of its slot and opens the segments that
hold the window again, whole; UNPACK keeps the window's elements, and while it is bypassed the whole segments travel on (R91, R109,
R231). A share whose verdict is REJECT counts as the zero vector in a SWEEP (R176). -/
def contribution (e : Env) (q : Option Proof) (c : Chain) (d : StreamDesc) (b n : Nat) : Detected (List Nat) :=
  match journalAt e.r n with
  | none => .ok []
  | some j =>
    let idx := ownSegs e.r q
    let win := windowSegs d b
    let keys := (c.openS.bind (fun a => envKey e .opens (openSlot a))).bind (fun k => unwrapKeyBlock k e.r.desc.roundId j.block)
    match keys with
    | none => .error 8
    | some (key, base) =>
      match allSome (win.map (fun i => openEnvelopeSeg key base j.header i (j.segs.getD (idx.idxOf i) []))) with
      | none => .error 8
      | some ps =>
        let bytes := ps.flatten
        let zeroed := decide (e.r.desc.mode = 1 ∧ e.w.role = 0 ∧ verdictOf e.r j.client ≠ .accept)
        let l := if c.unpack.isSome then lanesOf b (descWindow d) (descVindex d * b - (win.headD 0) * 8388608) bytes
          else lanesOf b (8 * bytes.length / b) 0 bytes
        .ok (if zeroed then List.replicate l.length 0 else l)

/-- Packed elements of b bits as bytes, counted from the least significant bit (R109). -/
def packBits (b : Nat) (l : List Nat) : Bytes :=
  toLe (ceilDiv (l.length * b) 8) (l.foldr (fun v acc => v % 2 ^ b + 2 ^ b * acc) 0)

/-- Elements of a linear or blocked stream of n elements as OPEN delivers them: zeros from NONE, a ring's elements, memory;
decrypted under the key of OPEN's slot where OPEN is armed for a segment AEAD (R29, R244; nonce and additional data: DESIGN CHOICE,
assumption 43). -/
def plainStream (free : Nat) (e : Env) (c : Chain) (got : List Nat) (d : StreamDesc) (b n : Nat) : Detected (List Nat) :=
  if descSpace d = 0 then .ok (List.replicate n 0)
  else if descSpace d = 6 then .ok (got.take n)
  else
    let raw := (List.range n).map (streamElem free e d b)
    match c.openS with
    | none => .ok raw
    | some a =>
      let aead := a.word.modif.toNat
      if 2 ≤ aead then .ok raw
      else
        let k := (envKey e .opens (openSlot a)).getD []
        let nonce := if 32 < k.length then envelopeNonce (k.drop 32) else segmentNonce
        match openSegments aead (k.take 32) nonce [] a.xa.toNat (pieces 1048592 (packBits b raw)) with
        | none => .error 8
        | some m => .ok (lanesOf b (8 * m.length / b) 0 m)

/-- GF(2^128) product of OPEN on 16-byte elements (R85, R114). -/
def gfProduct (a b : Nat) : Nat := leNat (ghashOut (gfMul (ghashIn (toLe 16 a)) (ghashIn (toLe 16 b))))

/-- The parity that OPEN predicts for a product of 16-byte elements (R123). -/
def predictProduct (a b : Nat) : Nat := predictGf (ghashIn (toLe 16 a)) (ghashIn (toLe 16 b))

/-- The folded keystream at an element position: the signed sum of the slots' elements; an empty position contributes zero (R147,
R148). -/
def foldAt (e : Env) (a : Arm) (dom : Domain) (fmt pos : Nat) : Nat :=
  let w := match dom with
    | .ring _ => laneBytes fmt
    | _ => 2 * laneBytes fmt
  (List.range (min a.xb.toNat 4096)).foldl (fun acc i =>
    match Table.get? e.w.seeds ((a.xa.toNat + i) % 4096) with
    | none => acc
    | some slot =>
      let v := keystreamElem a.word.modif.toNat slot.2.2 e.r.desc.roundId w dom.modulus pos
      if slot.2.1 then domSub dom acc v else domAdd dom acc v) 0

/-- Does an armed KS.FOLD name a slot of the seed store that is empty: KEYSTREAM then writes no output and returns AUTH_FAIL (R29)? -/
def foldsEmpty (w : Work) (c : Chain) : Bool := (foldSlots c).any (fun i => !(Table.has w.seeds i))

/-- Bus B at an element position: the fold, or a broadcast scalar (R83, R242). -/
def busB (e : Env) (c : Chain) (dom : Domain) (fmt pos : Nat) : Nat :=
  match c.ks with
  | some a => foldAt e a dom fmt pos
  | none => (broadcasts c).headD 0

/-- A COMBINE operand (R242). -/
def combOperand (sel : Nat) (x : Nat) (a b fb : Nat) : Nat :=
  if sel = 0 then a else if sel = 1 then b else if sel = 2 then fb else if sel = 3 then 0 else x

/-- COMBINE on one pair of operands (R107, R111, R112, R244). -/
def combElem (dom : Domain) (fmt : Nat) (m : Arm) (u v : Nat) : Nat :=
  if m.op = 0x40 then domAdd dom u v
  else if m.op = 0x41 then domSub dom u v
  else if m.word.modif.getLsbD 0 then domMont dom (8 * laneBytes fmt) u v
  else domMul dom u v

/-- The check words that COMBINE predicts for a slice from its operands' residues, or from their byte parities in GF128 (R122, R123). -/
def predictWords (dom : Domain) (fmt : Nat) (m : Arm) (ops : List (Nat × Nat)) : List Nat :=
  let w := laneBytes fmt
  match dom with
  | .gf128 => ops.map (fun o => predictParity (checkWord .gf128 [o.1]) (checkWord .gf128 [o.2]))
  | _ => (cutAll (groupElems w) (ops.map (fun o =>
      predictElem dom m.op (m.word.modif.getLsbD 0) (8 * w) o.1 o.2))).map (fun g => sumNat g % 65535)

/-- A slice on a bus: its elements, and the check word that each 128-bit group carries (R122, R123). -/
structure BusSlice where
  elems : List Nat
  words : List Nat
  deriving DecidableEq, Repr

/-- Values enter the arithmetic, at UNPACK's output or at that of the KEYSTREAM fold: their check words are generated (R122). -/
def onBus (dom : Domain) (fmt : Nat) (l : List Nat) : BusSlice := ⟨l, checkWords dom (laneBytes fmt) l⟩

/-- Do the words that a slice carries agree with its elements? -/
def BusSlice.agrees (b : BusSlice) (dom : Domain) (fmt : Nat) : Bool := decide (checkWords dom (laneBytes fmt) b.elems = b.words)

/-- What a slice leaves: the active set's elements, bus A, and whether every check word that a stage produced is the one that it
predicted (R122, R123, R125). -/
structure SliceOut where
  set  : List Nat
  bus  : List Nat
  good : Bool
  deriving DecidableEq, Repr

/-- One slice through OPEN's multiplier, KEYSTREAM, COMBINE and LEDGER, with the check words that both buses carry to COMBINE (R122). The
slice meets the set's slots from the first one on (R116; DEDUCED, assumption 44); lanes past the tile's end stay zero (R116). -/
def combineSlice (e : Env) (c : Chain) (dom : Option Domain) (fmt pos : Nat) (set : List Nat) (l : List Nat) : SliceOut :=
  match dom with
  | none => ⟨set, l, true⟩
  | some dm =>
    let b := onBus dm fmt (if usesBusB c then (List.range l.length).map (fun i => busB e c dm fmt (pos + i)) else [])
    let busb := fun (i : Nat) => b.elems.getD i 0
    let l1 := if opensGf c then (List.range l.length).map (fun i => gfProduct (l.getD i 0) (busb i)) else l
    let a := onBus dm fmt l1
    let good1 := a.agrees dm fmt && b.agrees dm fmt && (!opensGf c || (List.range l.length).all (fun i =>
      decide (gfParity (l1.getD i 0) = predictProduct (l.getD i 0) (busb i))))
    match c.comb with
    | none => ⟨set, l1, good1⟩
    | some m =>
      let ops := (List.range l1.length).map (fun i =>
        (combOperand m.word.srcA.toNat m.xa.toNat (l1.getD i 0) (busb i) (set.getD i 0),
         combOperand m.word.srcB.toNat m.xb.toNat (l1.getD i 0) (busb i) (set.getD i 0)))
      let out := ops.map (fun o => combElem dm fmt m o.1 o.2)
      let good := good1 && decide (predictWords dm fmt m ops = checkWords dm (laneBytes fmt) out)
      if m.word.dst = 2 then ⟨out.take set.length ++ set.drop out.length, l1, good⟩ else ⟨set, out, good⟩

/-- Slices one after the other (R90): the set at the end, what travels on, and whether every check word agreed. -/
def combineSlices (e : Env) (c : Chain) (dom : Option Domain) (fmt pos : Nat) :
    List (List Nat) → List Nat → List Nat × List (List Nat) × Bool
  | [], set => (set, [], true)
  | l :: ls, set =>
    let a := combineSlice e c dom fmt pos set l
    let b := combineSlices e c dom fmt pos ls a.set
    (b.1, a.bus :: b.2.1, a.good && b.2.2)

/-- Lane data of one format read in another: the same bytes, cut anew (R116). -/
def regroupLanes (fmtFrom fmtTo : Nat) (l : List Nat) : List Nat :=
  if fmtFrom = fmtTo then l
  else (pieces (laneBytes fmtTo) ((l.map (toLe (laneBytes fmtFrom))).flatten)).map leNat

-- ------------------------------------------------------------------ TURN and NTT

/-- TURN, modifier 0: each 32 × 32 block transposed (R85); a rest shorter than a block has no stated result. -/
def transposeBlocks (l : List Nat) : List Nat :=
  let whole := l.length / 1024 * 1024
  (List.range whole).map (fun i => l.getD (i / 1024 * 1024 + i % 32 * 32 + i % 1024 / 32) 0)
    ++ (if whole < l.length then
          let rest := l.drop whole
          let out := Sys2Proof.Config.unstatedStage 0 rest
          (List.range rest.length).map (fun i => out.getD i 0)
        else [])

/-- A result that the spec does not state, of as many elements as the operands. -/
def unstated (what : Nat) (l : List Nat) : List Nat :=
  let out := Sys2Proof.Config.unstatedStage what l
  (List.range l.length).map (fun i => out.getD i 0)

/-- TURN (R244); which permutation the regrouping of modifier 1 is, the spec does not state (assumption 45). -/
def turnStage (c : Chain) (l : List Nat) : List Nat :=
  match c.turn with
  | none => l
  | some a => if a.word.modif = 0 then transposeBlocks l else unstated (1 + a.word.imm.toNat % 32) l

/-- The root of order 2^n of a domain and limb, and psi of a limb: the round's own (R166, R179, R184), in share-sum the proof
profile's in F64 too; none where the round gives no root of that order. -/
def nttRoots (x : Partition) (r : Round) (code limb n : Nat) : Option (Nat × Option Nat) :=
  let p := roundPrime r.desc
  let profile := (proofOf x r).bind (fun q =>
    if powMod (proofRoot r.desc q) (2 ^ 19) p = p - 1 then some (powMod (proofRoot r.desc q) (2 ^ (20 - n)) p) else none)
  if code = 4 then
    (roundKeySet x r.desc).bind (fun k => if k.log2n = n then (k.roots[limb]?).bind (fun psi =>
      (k.primes[limb]?).map (fun q => (psi * psi % q, some psi))) else none)
  else if 20 < n then none
  else if code = 2 then
    if r.desc.mode = 1 ∧ p = f64Prime ∧ profile.isSome = true then profile.map (fun w => (w, none))
    else some (powMod 7 ((f64Prime - 1) / 2 ^ n) f64Prime, none)
  else profile.map (fun w => (w, none))

-- ------------------------------------------------------------------ the twiddle store (R186)

/-- The first k powers of a base, from a factor on. -/
def powersFrom (p x : Nat) : Nat → Nat → List Nat
  | 0, _ => []
  | k + 1, acc => acc :: powersFrom p x k (acc * x % p)

/-- The first k powers of a base modulo p. -/
def powers (p x k : Nat) : List Nat := powersFrom p x k (1 % p)

/-- The store for a transform of length 2^n: the direct layout when its powers take at most 65,536 words, else the factored one, whose
low part holds the first 2^⌈e/2⌉ powers (R186; e is log2 of the values the rule counts: n - 1 for omega of a field, n for psi and omega
of a limb). -/
def twiddleOf (p w : Nat) (psi : Option Nat) (code limb n : Nat) : Twiddle :=
  let direct := decide (2 ^ n / 2 + (if psi.isSome then 2 ^ n else 0) ≤ 65536)
  let low := fun (e x : Nat) => powers p x (2 ^ ((e + 1) / 2))
  let high := fun (e x : Nat) => powers p (powMod x (2 ^ ((e + 1) / 2)) p) (2 ^ (e / 2))
  let e := if psi.isSome then n else n - 1
  { code := code, limb := limb, n := n, prime := p, root := w, direct := direct
    omega := if direct then powers p w (2 ^ n / 2) else low e w
    omegaHi := if direct then [] else high e w
    psi := match psi with
      | none => []
      | some y => if direct then powers p y (2 ^ n) else low n y
    psiHi := match psi with
      | none => []
      | some y => if direct then [] else high n y }

/-- The power at an exponent as the NTT stage forms it: a word of the store, or the product of one word of each part. -/
def Twiddle.entry (t : Twiddle) (lo hi : List Nat) (i : Nat) : Nat :=
  if t.direct then lo.getD i 1 else lo.getD (i % lo.length) 1 * hi.getD (i / lo.length) 1 % t.prime

/-- omega^i: the store's, and its negative from half the order on, since omega^(M/2) = -1. -/
def Twiddle.omegaPow (t : Twiddle) (i : Nat) : Nat :=
  let h := 2 ^ t.n / 2
  let u := i % 2 ^ t.n
  if t.n = 0 then 1 else if u < h then t.entry t.omega t.omegaHi u else (t.prime - t.entry t.omega t.omegaHi (u - h)) % t.prime

/-- psi^i of a limb, likewise, with psi^N = -1. -/
def Twiddle.psiPow (t : Twiddle) (i : Nat) : Nat :=
  let u := i % 2 ^ (t.n + 1)
  if u < 2 ^ t.n then t.entry t.psi t.psiHi u else (t.prime - t.entry t.psi t.psiHi (u - 2 ^ t.n)) % t.prime

/-- The store that a transform needs: the standing one when it holds the same limb or field at that length, else a reload (R186). -/
def twiddleFor (old : Option Twiddle) (p w : Nat) (psi : Option Nat) (code limb n : Nat) : Twiddle :=
  match old with
  | none => twiddleOf p w psi code limb n
  | some t => if t.code = code ∧ t.limb = limb ∧ t.n = n ∧ t.prime = p ∧ t.root = w then t else twiddleOf p w psi code limb n

/-- The store that an armed NTT.F or NTT.I needs for a stream's limb; none where no transform is stated (R184, R186). -/
def chainTwiddle (x : Partition) (r : Round) (c : Chain) (limb : Nat) (old : Option Twiddle) : Option Twiddle :=
  c.ntt.bind (fun a =>
    let code := a.word.domain.toNat
    let n := bits a.word.imm.toNat 3 5
    if a.op = 0x72 then none
    else match domainOf x r.desc code limb, nttRoots x r code limb n with
      | some (.field p), some (w, psi) => some (twiddleFor old p w psi code limb n)
      | _, _ => none)

/-- An element in the NTT stage, with the residue that the stage predicts for it (R122). -/
abbrev Carried := Nat × Nat

/-- An operand as it enters: its own residue. -/
def carry (x : Nat) : Carried := (x, residue x)

/-- A product modulo p: res(a) × res(b) − res(q) × res(p), q being the quotient with the final subtractions (R122). -/
def mulCarried (p : Nat) (a b : Carried) : Carried :=
  (a.1 * b.1 % p, residueInt ((a.2 : Int) * b.2 - residue (a.1 * b.1 / p) * residue p))

/-- A sum modulo p: res(a) + res(b) − w × res(p) (R122). -/
def addCarried (p : Nat) (a b : Carried) : Carried :=
  ((a.1 + b.1) % p, residueInt ((a.2 : Int) + b.2 - (if p ≤ a.1 + b.1 then (residue p : Int) else 0)))

/-- One forward pass on a sequence of length 2^n (R185): psi^i first in the pass whose groups span the whole, the transform of each
group of 2^L elements at stride s, then the twiddle multiplication unless this is the last pass. Powers come from the store, and every
element carries its predicted residue (R122). -/
def forwardPass (t : Twiddle) (lg ls : Nat) (last : Bool) (a : List Carried) : List Carried :=
  let p := t.prime
  let s := 2 ^ ls
  let g := 2 ^ lg
  let blk := s * g
  let b := if t.psi ≠ [] ∧ blk = 2 ^ t.n then (List.range a.length).map (fun i => mulCarried p (a.getD i (0, 0)) (carry (t.psiPow i)))
    else a
  (List.range a.length).map (fun i =>
    let r := i % s
    let dgt := i % blk / s
    let base := i / blk * blk
    let v := (List.range g).foldl (fun acc k =>
      addCarried p acc (mulCarried p (b.getD (base + k * s + r) (0, 0)) (carry (t.omegaPow (2 ^ t.n / g * (k * dgt)))))) (0, 0)
    if last then v else mulCarried p v (carry (t.omegaPow (r * dgt * (2 ^ t.n / blk)))))

/-- omega^(-i) and psi^(-i). -/
def Twiddle.omegaInv (t : Twiddle) (i : Nat) : Nat := t.omegaPow (2 ^ t.n - i % 2 ^ t.n)
def Twiddle.psiInv (t : Twiddle) (i : Nat) : Nat := t.psiPow (2 ^ (t.n + 1) - i % 2 ^ (t.n + 1))

/-- One inverse pass: the twiddle multiplication undone, the inverse transform of each group without its factor, and in the pass whose
groups span the whole the factor of the length and psi^(-i) (R184). -/
def inversePass (t : Twiddle) (lg ls : Nat) (last : Bool) (a : List Carried) : List Carried :=
  let p := t.prime
  let s := 2 ^ ls
  let g := 2 ^ lg
  let blk := s * g
  let b := if last then a else (List.range a.length).map (fun i =>
    mulCarried p (a.getD i (0, 0)) (carry (t.omegaInv (i % s * (i % blk / s) * (2 ^ t.n / blk)))))
  (List.range a.length).map (fun i =>
    let r := i % s
    let k := i % blk / s
    let base := i / blk * blk
    let v := (List.range g).foldl (fun acc dgt =>
      addCarried p acc (mulCarried p (b.getD (base + dgt * s + r) (0, 0)) (carry (t.omegaInv (2 ^ t.n / g * (k * dgt)))))) (0, 0)
    if blk = 2 ^ t.n then
      let v1 := mulCarried p v (carry (invMod p (2 ^ t.n % p)))
      if t.psi = [] then v1 else mulCarried p v1 (carry (t.psiInv i))
    else v)

/-- The two orders of R184: natural from digit-reversed, and back. -/
def toNatural (n : Nat) (a : List Carried) : List Carried := (List.range a.length).map (fun j => a.getD (digitPos n j) (0, 0))
def toReversed (n : Nat) (a : List Carried) : List Carried := (List.range a.length).map (fun q => a.getD (digitIndex n q) (0, 0))

/-- NTT.F, NTT.I or AUTO on bus A, sequence by sequence, a position being the place in the stream (R184, R185; DEDUCED, assumption
46), with the twiddle store's powers; a length, stride or modulus for which no transform is stated has no stated result. With the elements
comes whether every residue that the stage produced is the one that it predicted (R122). -/
def nttStage (r : Round) (c : Chain) (tw : Option Twiddle) (l : List Nat) : List Nat × Bool :=
  match c.ntt with
  | none => (l, true)
  | some a =>
    if a.op = 0x72 then
      let n := r.desc.log2n
      (if l.length % 2 ^ n = 0 then autoBody n a.word.imm.toNat l else unstated 40 l, true)
    else
      let i := a.word.imm.toNat
      let lg := i % 8
      let ls := bits i 8 5
      let last := bitAt i 13
      match tw with
      | none => (unstated (64 + i) l, true)
      | some t =>
        if t.n < lg + ls ∨ l.length % 2 ^ t.n ≠ 0 then (unstated (64 + i) l, true)
        else
          let one := fun (q : List Carried) =>
            if a.op = 0x70 then
              let y := forwardPass t lg ls last q
              if a.word.modif.getLsbD 0 then toNatural t.n y else y
            else inversePass t lg ls last (if a.word.modif.getLsbD 0 then toReversed t.n q else q)
          let out := ((cutList (l.length / 2 ^ t.n) (2 ^ t.n) (l.map carry)).map one).flatten
          (out.map (fun e => e.1), out.all (fun e => decide (e.2 = residue e.1)))

-- ------------------------------------------------------------------ FINISH

/-- Entry of a row table at a descriptor: the clip factor, or the maximum (R208, R209, R218): the 12-byte rows of the row table
in SCRATCH area 2, 4-byte words elsewhere. -/
def rowWord (free : Nat) (e : Env) (d : StreamDesc) (row o : Nat) : W32 :=
  if descSpace d = 2 ∧ unitOf d = 2 then tableWord free e d (12 * row + o) else tableWord free e d (4 * row)

/-- The noise of an element under the key of FINISH's slot; none without a key (R29, R203, R204). -/
def noiseOf (e : Env) (c : Chain) (pos : Nat) : Int :=
  match c.noise.bind (fun a => envKey e .finish a.word.imm.toNat) with
  | some k => noiseAt k pos e.r.desc.dpSigma
  | none => 0

/-- Dequantisation step of the round's finish profile (R200). -/
def dequant (e : Env) : W32 :=
  match (namedItin e.x e.r.desc.itinDigest).bind (fun t => constBody t.2 4 0) with
  | none => 0
  | some b => BitVec.ofNat 32 (field b 4 4)

/-- Noise, scaling and clipping of one element at a vector position (R202, R206, R209, R214, R244). -/
def finishElem (free : Nat) (e : Env) (c : Chain) (pos v : Nat) : Nat :=
  let row := pos / e.r.desc.rowLength
  let dm := ledgerDomain e.r.desc
  let u := match c.scale with
    | none => if c.noise.isSome then
        ((v : Int) + noiseOf e c pos).emod dm.modulus |>.toNat else v
    | some a =>
      if a.word.modif = 0 then (updateValue (dequant e) a.xb.toNat (centred dm v + noiseOf e c pos)).toNat
      else broadcastElem (BitVec.ofNat 32 v) (rowWord free e a.sa row 8)
  match c.clip with
  | none => u
  | some a => (clippedValue (BitVec.ofNat 32 u) (rowWord free e a.sa row 4)).toNat

/-- The optimiser that FIN.APPLY's modifier names, with the round's values (R210, R244). -/
def applyDesc (e : Env) (a : Arm) : RoundDesc := { e.r.desc with optimiser := a.word.modif.toNat }

/-- FIN.APPLY on n elements: the new weights, moments and second moments, from the record at Sa (R210, R211). -/
def applyAll (free : Nat) (e : Env) (a : Arm) (l : List Nat) : List (W32 × W32 × W32) :=
  let n := l.length
  (List.range n).map (fun i =>
    applyElem (applyDesc e a) (BitVec.ofNat 32 (l.getD i 0)) (tableWord free e a.sa (4 * i))
      (if 1 ≤ a.word.modif.toNat then tableWord free e a.sa (4 * (n + i)) else 0)
      (if a.word.modif.toNat = 2 then tableWord free e a.sa (4 * (2 * n + i)) else 0))

/-- The words of a new record: W', then M' and V' as the optimiser keeps them (R211). -/
def recordWords (a : Arm) (out : List (W32 × W32 × W32)) : List W32 :=
  out.map (fun o => o.1) ++ (if 1 ≤ a.word.modif.toNat then out.map (fun o => o.2.1) else [])
    ++ (if a.word.modif.toNat = 2 then out.map (fun o => o.2.2) else [])

/-- The rows that a stream touches, ascending, each with its elements in order (R207). -/
def rowsTouched (a : Arm) (l : List (Nat × Nat)) : List (Nat × List W32) :=
  (sortNat (l.map (fun e => e.1 / a.xa.toNat))).map (fun row =>
    (row, (l.filter (fun e => decide (e.1 / a.xa.toNat = row))).map (fun e => BitVec.ofNat 32 e.2)))

/-- The long-ledger word of a row's elements: of x, |x| or x² (R132, R207). -/
def rowWordOf (m : Nat) (vs : List W32) : LongWord :=
  vs.foldl (fun w v => longAdd w (if m = 0 then v else if m = 1 then v &&& 0x7FFFFFFF else fpMul v v)) {}

/-- Rows that the FINISH row store holds open at most (R86). -/
def rowLimit : Nat := 3072

/-- Has FIN.ROWS no stated result: a row length of 0, or more rows than the store holds (R86, R207)? -/
def rowsUnstated (a : Arm) (l : List (Nat × Nat)) : Bool :=
  decide (a.xa = 0) || decide (rowLimit < (sortNat (l.map (fun e => e.1 / a.xa.toNat))).length)

/-- The FINISH row store at the end of a SWEEP: sums by row, or maxima (R86, R207). -/
def rowStore (a : Arm) (l : List (Nat × Nat)) : Table Nat LongWord × Table Nat W32 :=
  if rowsUnstated a l then ([], [])
  else if a.word.modif.toNat = 3 then ([], (rowsTouched a l).map (fun e => (e.1, e.2.foldl maxAbsStep 0)))
  else ((rowsTouched a l).map (fun e => (e.1, rowWordOf a.word.modif.toNat e.2)), [])

/-- The row partials that FIN.ROWS sends to Sd: one for each row touched, 40 bytes for sums, 4 for maxima (R132, R207, R208). -/
def rowPartials (a : Arm) (l : List (Nat × Nat)) : List Bytes :=
  if rowsUnstated a l then [(Sys2Proof.Config.unstatedStage 41 (l.map (fun e => e.2))).map (BitVec.ofNat 8)]
  else (rowStore a l).1.map (fun e => longBytes e.2) ++ (rowStore a l).2.map (fun e => toLe 4 e.2.toNat)

-- ------------------------------------------------------------------ SEAL

/-- Bytes of bus A as SEAL sees them: 2-byte elements after the bf16 scaling, whole lanes otherwise. -/
def busBytes (c : Chain) (fmt : Nat) (l : List Nat) : Bytes :=
  (l.map (toLe (if armIs c.scale 0x82 1 then 2 else laneBytes fmt))).flatten

/-- SEAL encryption from segment index Xa onward, under the key of the image kind that the slot holds, with its header as additional
data (R216, R217, R244; the slot's number is the image kind: DESIGN CHOICE, assumption 47). -/
def sealBytes (e : Env) (a : Arm) (b : Bytes) : Bytes :=
  let kind := a.word.imm.toNat
  let body := (imageBody e.x e.r kind).length
  let h := imageHeader e.r.desc kind (exportAead e.x e.r) body (e.r.finish.salt.getD [])
  let segs := pieces 1048576 b
  ((List.range segs.length).map (fun i =>
    Sys2Proof.Config.aeadSeal a.word.modif.toNat ((envKey e .seals kind).getD []) (segmentNonce (a.xa.toNat + i)) h
      (segs.getD i []))).flatten

/-- What HASH writes: the leaf of the SWEEP's piece, or SHA-256 of each contribution, or of the whole stream (R221, R244). -/
def hashBytes (a : Arm) (contribs : List Bytes) : Bytes :=
  if a.word.modif = 0 then leafDigest contribs.flatten else (contribs.map Sys2Proof.Config.sha256).flatten

end Sys2Proof.Machine
end

