-- ==== Sys2Proof/Machine/Chain.lean ====
section
/-! DEFINITION. The chain of a caravan: the ledger sets and the shadow port, a SWEEP's entry beat by beat and its effect, rings, and the
work faults that let the chain empty (R82 to R95, R102, R103, R226, R236 to R241, R245). -/

namespace Sys2Proof.Machine

-- ------------------------------------------------------------------ sets (R240)

/-- Does a work hold a tile in a set or in its drain (R90)? -/
def holdsTile (w : Work) (t : Nat) : Bool :=
  (decide (w.setA.state ≠ .empty) && decide (w.setA.tile = t)) || (decide (w.setB.state ≠ .empty) && decide (w.setB.tile = t))
    || w.draining.any (fun d => decide (d.1 = t))

/-- Is a tile of the partition held on another caravan, in a saved image included (R90)? -/
def heldElsewhere (s : State) (p cv t : Nat) : Bool :=
  s.caravans.any (fun e => decide (e.1 ≠ cv) && e.2.work.any (fun w => decide (w.part = p) && holdsTile w t))
    || (getPart s p).saved.any (fun e => decide (e.1 ≠ cv) && holdsTile e.2 t)

/-- The state that the active set will have for the next SWEEP: behind the last swap in the chain, HELD, or EMPTY after a final one. -/
def comingActive (w : Work) : SetState :=
  w.flow.foldl (fun st i => match i with
    | .swap final => if final then .empty else .held
    | _ => st) (activeSet w).state

-- ------------------------------------------------------------------ islands (R84, R361, R426)

/-- The voltage islands of a caravan: its front chain, OPEN to LEDGER, and the back chain, TURN to SEAL, that it shares with the other
caravan of its pair (R426). -/
def frontIsland (cv : Nat) : Nat := 48 * dieOf cv + cv % 24
def backIsland (cv : Nat) : Nat := 48 * dieOf cv + 24 + cv % 24 / 2

/-- Is a stage of the back chain armed (R85)? -/
def backArmed (c : Chain) : Bool :=
  c.turn.isSome || c.ntt.isSome || c.rows.isSome || c.noise.isSome || c.scale.isSome || c.clip.isSome || c.apply.isSome
    || c.sealS.isSome || c.hash.isSome

/-- Are the stages of the back chain that are armed at operating voltage (R84, R426)? -/
def backReady (s : State) (cv : Nat) (c : Chain) : Bool := !backArmed c || islandUp s (backIsland cv)

/-- Do the HBM controllers of a die's stacks run? A transfer to one whose clock stands still stalls until it returns (R88, R361). -/
def hbmRuns (s : State) (die : Nat) : Bool := (stacksOf die).all (fun k => !clockStopped s (4 + k))

-- ------------------------------------------------------------------ what leaves the chain

/-- Deliver one run of bytes at a byte offset of the unit that a descriptor names: to a host buffer within its length, to a weight record,
or to a work space (R230, R244). -/
def deliverRun (s : State) (cv : Nat) (bySave : Bool) (d : StreamDesc) (at_ : Nat) (b : Bytes) : State :=
  match (getCv s cv).work with
  | none => s
  | some w =>
    match getRound s w.part with
    | none => s
    | some r =>
      let e := envOf s cv w r
      if descSpace d = 8 then
        match hostBuffer r (unitOf d) with
        | none => s
        | some h => if at_ + b.length ≤ h.2.1 then emit s (.data (outPort e.x) (h.1 + BitVec.ofNat 64 at_) b) else s
      else if descSpace d = 3 then putEnv s (writeRecord s.freeCount e (unitOf d) at_ b)
      else putEnv s (writeUnit s.freeCount e bySave (descSpace d) (unitOf d) at_ b)

/-- Deliver bytes at a descriptor: to the ring that the work writes as elements, waiting at the exit where it is full; elsewhere at the
places of its elements, and no more than it holds (R88, R102, R229, R230). -/
def deliver (s : State) (cv : Nat) (bySave : Bool) (d : StreamDesc) (b : Bytes) : State :=
  let lane := laneBytes (descFormat d)
  if descSpace d = 6 then
    match (getCv s cv).work with
    | none => s
    | some w =>
      let w1 := { w with ringLane := lane }
      setWork s cv (fillRing w1 (ringAll w1 ++ (pieces lane (b.take (descLength d * lane))).map leNat))
  else (streamRuns d b).foldl (fun a x => deliverRun a cv bySave d x.1 x.2) s

/-- What the stages from TURN on make of bus A: its elements and its bytes at the exit, the bytes that ROWS, APPLY and HASH send to their
own descriptors, the row store, and whether NTT's predictions came true (R122). -/
structure LateOut where
  elems  : List Nat
  good   : Bool
  exit   : Bytes
  sides  : List (StreamDesc × Bytes)
  rows   : Option (Table Nat LongWord × Table Nat W32)
  deriving DecidableEq, Repr

/-- TURN to SEAL. Elements carry lane format fmt; position i of the vector belongs to place i; contribs cuts the stream for HASH. -/
def lateStages (free : Nat) (e : Env) (c : Chain) (fmt : Nat) (tw : Option Twiddle) (pos : Nat → Nat) (contribs : Nat)
    (l : List Nat) : LateOut :=
  let n := nttStage e.r c tw (turnStage c l)
  let a := n.1
  let f := (List.range a.length).map (fun i => finishElem free e c (pos i) (a.getD i 0))
  let ap := c.apply.map (fun m => (m, recordWords m (applyAll free e m f)))
  let g := match ap with
    | none => f
    | some x => x.2.map (fun v => v.toNat)
  let placed := (List.range f.length).map (fun i => (pos i, g.getD i 0))
  let side1 := match ap with
    | none => []
    | some x => [(x.1.sd, wordsLe x.2)]
  let side2 := match c.rows with
    | none => []
    | some m => [(m.sd, (rowPartials m placed).flatten)]
  let side3 := match c.hash with
    | none => []
    | some m => [(m.sd, hashBytes m ((cutList contribs (ceilDiv g.length contribs) g).map (busBytes c fmt)))]
  let bytes := busBytes c fmt g
  { elems := g
    good := n.2
    exit := match c.sealS with
      | none => bytes
      | some m => sealBytes e m bytes
    sides := side1 ++ side2 ++ side3
    rows := c.rows.map (fun m => rowStore m placed) }

/-- The row store, the twiddle store and SEAL's buffer after the late stages. -/
def putLate (s : State) (cv : Nat) (c : Chain) (tw : Option Twiddle) (o : LateOut) : State :=
  let k := getCv s cv
  setCv s cv { k with
    twiddle := if tw.isSome then tw else k.twiddle
    sealBuf := if c.sealS.isSome then o.exit.drop (o.exit.length - 131072) else k.sealBuf
    work := k.work.map (fun w => match o.rows with
      | none => w
      | some t => { w with rowSums := t.1, rowMaxima := t.2 }) }

-- ------------------------------------------------------------------ a SWEEP's effect

/-- Elements of a stream that a SWEEP enters: the whole of it, or its first count slots (R244). -/
def sweepLen (d : StreamDesc) (count : Nat) : Nat :=
  if count = 0 then descLength d else min (descLength d) (count * (64 / 2 ^ descFormat d))

/-- Does an element take two 64-bit words of packed input: a field above 2^64 (R108)? -/
def wideField (dom : Option Domain) : Bool :=
  match dom with
  | some (.field p) => decide (2 ^ 64 < p)
  | _ => false

/-- The domain of a chain for a stream, and the bits of an element as it enters. -/
def sweepDomain (e : Env) (c : Chain) (d : StreamDesc) : Option Domain := domainOf e.x e.r.desc ((chainDomains c).headD 0) (descLimb d)
def sweepBits (e : Env) (c : Chain) (d : StreamDesc) : Nat := entryBits d c.unpack.isSome (wideField (sweepDomain e c d))

/-- What stops a SWEEP: a status of a stage, or a detected fault by its row of R371 (0 for UNPACK's RANGE). -/
inductive SweepFault where
  | status (st : Status)
  | detected (mechanism : Nat)
  deriving DecidableEq, Repr

/-- Every part, or the first fault. -/
def allDetected : List (Detected (List Nat)) → Detected (List (List Nat))
  | [] => .ok []
  | x :: l => x.bind (fun a => (allDetected l).map (fun m => a :: m))

/-- The slices of a stream as UNPACK delivers them, contribution by contribution. -/
def enteredSlices (free : Nat) (e : Env) (c : Chain) (d : StreamDesc) (count : Nat) (got : List Nat) : Detected (List (List Nat)) :=
  let b := sweepBits e c d
  let raw := if descSpace d = 1 then
      (List.range (descLength d)).map (fun i => contribution e (proofOf e.x e.r) c d b (descBase d + i))
    else [plainStream free e c got d b (sweepLen d count)]
  allDetected (raw.map (fun x => x.bind (unpackSlice (sweepDomain e c d) c b)))

/-- The mechanism that guards a domain's results: the residue, or GF128's byte parity (R122, R123, R371). -/
def checkMechanism (dom : Option Domain) : Nat := if dom = some .gf128 then 6 else 5

/-- One SWEEP whose last beat has entered (R82 to R91): the slices in order through the stages, the active set with its check store, the
stores of the stages, and what leaves. A stage that needs an empty seed or key slot writes nothing and returns AUTH_FAIL (R29); a tag, an
element or a check word that fails is a detected fault (R91, R125, R245). -/
def sweepEffect (s : State) (cv : Nat) (w : Work) (r : Round) (c : Chain) (d : StreamDesc) (dst : Option StreamDesc) (count : Nat)
    (got : List Nat) : Except SweepFault State :=
  let e := envOf s cv w r
  let dom := sweepDomain e c d
  let fmt := descFormat d
  let act := activeSet w
  if foldsEmpty w c || slotsEmpty e c then .error (.status .authFail)
  else if (combUses c 2 || emits c) && !setAgrees r.desc act then .error (.detected (if act.parity then 6 else 5))
  else match enteredSlices s.freeCount e c d count got with
    | .error m => .error (.detected m)
    | .ok slices =>
      let set0 := regroupLanes r.desc.laneFormat fmt ((List.range (tileLen r.desc act.tile)).map (bankElem act.data))
      let out := combineSlices e c dom fmt (descVindex d) slices set0
      if out.2.2 = false then .error (.detected (checkMechanism dom))
      else
        let data := regroupLanes fmt r.desc.laneFormat out.1
        let parity := decide (dom = some .gf128)
        let w1 := if combToLedger c then
            putActive w { act with data := data, parity := parity, check := setWords r.desc parity data } else w
        let n := sweepLen d count
        let isSlice := decide (descSpace d = 1)
        let bus := if emits c then (List.range n).map (bankElem out.1) else out.2.1.flatten
        let pos := fun (i : Nat) => descVindex d + (if isSlice then i % max 1 (descWindow d) else i)
        let tw := chainTwiddle e.x r c (descLimb d) (getCv s cv).twiddle
        let late := lateStages s.freeCount e c fmt tw pos (if isSlice then descLength d else 1) bus
        if late.good = false then .error (.detected 5)
        else
        let opened := if c.openS.isSome then busBytes c fmt (slices.getLastD []) else []
        let k := getCv s cv
        let s1 := setCv s cv { k with
          work := some w1, openBuf := if c.openS.isSome then opened.drop (opened.length - 131072) else k.openBuf }
        let s2 := putLate (bumpFree s1) cv c tw late
        let s3 := late.sides.foldl (fun a x => deliver a cv false x.1 x.2) s2
        .ok (match dst with
          | none => s3
          | some t => deliver s3 cv false t late.exit)

-- ------------------------------------------------------------------ the shadow port (R240)

/-- Descriptors of the armed stages with their checks: FIN.SCALE, FIN.CLIP and FIN.APPLY read Sa, FIN.ROWS and HASH write Sd. -/
def stageReads (c : Chain) : List StreamDesc :=
  ((c.scale.filter (fun a => decide (a.word.modif = 1))).map (fun a => a.sa)).toList
    ++ (c.clip.map (fun a => a.sa)).toList ++ (c.apply.map (fun a => a.sa)).toList
def stageWrites (c : Chain) : List StreamDesc := (c.rows.map (fun a => a.sd)).toList ++ (c.hash.map (fun a => a.sd)).toList

/-- The descriptor to which FIN.APPLY writes: WEIGHTS too (R230). -/
def applyWrites (c : Chain) : List StreamDesc := (c.apply.map (fun a => a.sd)).toList

/-- Forms of the descriptors that the stages read and write (first check of R241): a stage reads no NONE, JOURNAL or RING. -/
def stageForms (c : Chain) : Bool :=
  (stageWrites c ++ applyWrites c).all destOk
    && (stageReads c).all (fun x => sourceOk x && decide (descSpace x ≠ 0 ∧ descSpace x ≠ 1 ∧ descSpace x ≠ 6))

/-- Access of the stages (second check of R241): no read of a host buffer, no write of a read-only space, none of a host buffer but HASH's
digests; WEIGHTS only by FIN.APPLY (R1, R230). -/
def stageAccess (x : Partition) (c : Chain) : Bool :=
  (stageReads c).all (fun d => decide (descSpace d ≠ 8)) && ((c.rows.map (fun a => a.sd)).toList).all (sideWritable x)
    && ((c.hash.map (fun a => a.sd)).toList).all (digestWritable x)
    && (applyWrites c).all (fun d => sideWritable x d || decide (descSpace d = 3))

/-- Extents of the stages' streams (second check of R241); of WEIGHTS an APPLY work reaches with FIN.APPLY the record of its tile alone
(R212, R230). -/
def stageExtents (e : Env) (c : Chain) : Bool :=
  (stageReads c).all (fun d => withinBounds e d (laneBits d)) && (stageWrites c ++ applyWrites c).all (destInside e)
    && (applyWrites c).all (fun d => decide (descSpace d ≠ 3 ∨ unitOf d = argNat e.w.args 0))

/-- The stages that a routed drain passes: TURN to SEAL (R244). -/
def routedChain (c : Chain) : Chain := { c with openS := none, unpack := none, ks := none, comb := none, ledger := none }

/-- The checks of a routed LEDG.SAVE's stages, as R241 makes them of a SWEEP's. -/
def routedFault (e : Env) (c : Chain) : Option Status :=
  if stageForms c = false then some .malformed
  else if stageAccess e.x c = false then some .policyDenied
  else if stageExtents e c = false then some .range
  else none

/-- What a drain writes, what its stages send elsewhere, and their stores. A routed one passes the armed TURN to SEAL stages; NTT there
takes limb 0, since a LEDG.SAVE names no stream descriptor (DESIGN CHOICE, assumption 119) (R113, R244). -/
def routedData (s : State) (cv : Nat) (e : Env) (op : ShadowOp) (l : List Nat) : List Nat × Option (Option Twiddle × LateOut) :=
  if op.routed then
    let fmt := e.r.desc.laneFormat
    let c := routedChain op.chain
    let tw := chainTwiddle e.x e.r c 0 (getCv s cv).twiddle
    let out := lateStages s.freeCount e c fmt tw (fun i => tileFirst e.r.desc op.tile + i) 1 l
    (if c.sealS.isSome then (pieces (laneBytes fmt) out.exit).map leNat else out.elems, some (tw, out))
  else (l, none)

/-- The head of the shadow-port queue, when its swaps are done and its set allows it: a load reads the bank named into the shadow set with
fresh check words, once no other caravan holds the tile (R90, R118); a save verifies the set's check words and starts the drain, a routed one
with the keys of its stages in their slots (R29). None while it waits. -/
def shadowHead (s : State) (cv : Nat) (w : Work) (r : Round) : Option (Except SweepFault State) :=
  match w.shadowQ with
  | [] => none
  | op :: rest =>
    let w0 := settleLoad w
    let sh := shadowSet w0
    let w1 := { w0 with shadowQ := rest }
    if w.swapsDone < op.swaps then none
    else if op.isLoad then
      if sh.state = .draining ∨ heldElsewhere s w.part cv op.tile then none
      else if (ownTiles r).contains op.tile = false ∨ op.tile % 2 ≠ dieOf cv then some (.error (.status .range))
      else if (activeSet w).state ≠ .empty ∧ (activeSet w).tile = op.tile then some (.error (.status .malformed))
      else
        let pc := (getTile r op.tile).prim
        let data := bankFull r.desc op.tile (pc.bankOf (pc.bank != op.source))
        some (.ok (setWork s cv (putShadow w1
          { state := .loading, tile := op.tile, data := data, check := setWords r.desc false data })))
    else if sh.state = .held then
      if setAgrees r.desc sh = false then some (.error (.detected (if sh.parity then 6 else 5)))
      else if op.routed && slotsEmpty (envOf s cv w r) (routedChain op.chain) then some (.error (.status .authFail))
      else if (routedData s cv (envOf s cv w r) op sh.data).2.any (fun o => !o.2.good) then some (.error (.detected 5))
      else
        let out := routedData s cv (envOf s cv w r) op sh.data
        let s1 := setWork s cv { putShadow w1 { sh with state := .draining } with draining := some (op.tile, out.1) }
        some (.ok (match out.2 with
          | none => s1
          | some late => late.2.sides.foldl (fun a x => deliver a cv true x.1 x.2)
              (putLate (bumpFree s1) cv (routedChain op.chain) late.1 late.2)))
    else if sh.state = .draining then none
    else some (.error (.status .malformed))

/-- The sets exchange (R93). -/
def exchange (w : Work) (rest : List ChainItem) : Work :=
  { w with activeA := !w.activeA, swapsDone := w.swapsDone + 1, flow := rest }

-- ------------------------------------------------------------------ faults let the chain empty (R245)

/-- The shadow port of a work that has stopped: its operations end, and nothing that they write is committed. -/
def emptyShadow (cv : Nat) : Nat → State → State
  | 0, s => s
  | k + 1, s =>
    match (getCv s cv).work with
    | none => s
    | some w =>
      let w1 := if w.draining.isSome then { putShadow w {} with draining := none } else settleLoad w
      match getRound s w.part with
      | none => s
      | some r =>
        match shadowHead (setWork s cv w1) cv w1 r with
        | some (.ok t) => emptyShadow cv k t
        | _ => setWork s cv w1

/-- The chain of a stopped work empties: what has issued runs to its end, in order, until a swap or a ring holds it for good; a SWEEP that
meets a fault of its own leaves nothing (R245). -/
def emptyChain (cv : Nat) : Nat → State → State
  | 0, s => s
  | k + 1, s =>
    match (getCv s cv).work with
    | none => s
    | some w =>
      match getRound s w.part, w.flow with
      | some r, .sweep c d dst n _ got :: rest =>
        let w1 := { w with flow := rest }
        let s1 := setWork s cv w1
        if descSpace d = 6 ∧ got.length < sweepLen d n then s1
        else emptyChain cv k (match sweepEffect s1 cv w1 r c d dst n got with
          | .ok t => t
          | .error _ => s1)
      | some r, .load q :: rest =>
        emptyChain cv k (setWork s cv { w with flow := rest, seeds := (fillSeeds r w.seeds q).getD w.seeds })
      | some _, .swap final :: rest =>
        let s1 := emptyShadow cv 9 s
        match (getCv s1 cv).work with
        | none => s1
        | some w1 => if swapReady w1 final then emptyChain cv k (setWork s1 cv (exchange w1 rest)) else s1
      | _, _ => s

/-- The chain of a caravan's work empties. -/
def drainChain (s : State) (cv : Nat) : State :=
  match (getCv s cv).work with
  | none => s
  | some w => emptyChain cv w.flow.length s

/-- A work fault with a status (R245): the Sequencer issues nothing further, the chain empties, both sets are discarded, and an event
carries the status. -/
def raise (s : State) (cv : Nat) (st : Status) : State :=
  let s1 := drainChain s cv
  match (getCv s1 cv).work with
  | none => s1
  | some w => stopWork s1 cv w st

/-- Drop the works of a chain's other caravans: a chain is replayed as a whole (R103, R377). -/
def dropPeers (s : State) (cv : Nat) (w : Work) : State :=
  ((chainOf s cv w).filter (fun e => decide (e.1 ≠ cv))).foldl (fun a e =>
    let x := getPart a w.part
    let b := forgetWork (setPart a w.part { x with saved := if (getCv a e.1).work = some e.2 then x.saved else Table.erase x.saved e.1 }) e.1 e.2
    let c := getCv b e.1
    let mail := c.mailbox.filter (fun m => decide (m.part ≠ w.part))
    setCv b e.1 (if c.work = some e.2 then { c with work := none, stepping := false, mailbox := mail } else { c with mailbox := mail })) s

/-- A detected fault in a work (R91, R125, R245, R377): the chain empties, and the work is discarded and replayed from its committed
inputs, with the whole of its chain. -/
def raiseDetected (s : State) (cv mechanism : Nat) : State :=
  let s1 := drainChain s cv
  match (getCv s1 cv).work with
  | none => s1
  | some w => detectedInWork (dropPeers s1 cv w) cv w mechanism

/-- Either fault of a SWEEP or a drain. -/
def raiseSweep (s : State) (cv : Nat) : SweepFault → State
  | .status st => raise s cv st
  | .detected m => raiseDetected s cv m

/-- KEY_MISMATCH in KSW or REFRESH (R245): the work issues nothing further, the chain empties, and a round event carries both
fingerprints. -/
def libraryMismatch (s : State) (cv : Nat) (cipherFp keyFp : Nat) : State :=
  let s1 := drainChain s cv
  match (getCv s1 cv).work with
  | none => s1
  | some w => roundStatusEvent (setWork s1 cv (faultWork w)) w.part .keyMismatch cipherFp keyFp

-- ------------------------------------------------------------------ stream entry

/-- Beats of stream entry that a SWEEP takes: its slots; for a slice stream, for each contribution, the greater of the window's slots and
of 256 B of payload a beat in whole segments (R94, R448). -/
def entryBeats (e : Env) (c : Chain) (d : StreamDesc) (count : Nat) : Nat :=
  let per := 64 / 2 ^ descFormat d
  if descSpace d = 1 then
    let bytes := sumNat ((windowSegs d (sweepBits e c d)).map (fun i =>
      min 1048576 (payloadLen e.r.desc (proofOf e.x e.r) - 1048576 * i)))
    descLength d * max (ceilDiv (descWindow d) per) (ceilDiv bytes 256)
  else ceilDiv (sweepLen d count) per

/-- Beats of a TURN block: 32 × 32 elements (R85, R94). -/
def blockBeats (d : StreamDesc) : Nat := 16 * 2 ^ descFormat d

/-- The ring that a SWEEP reads gives what enters, until the SWEEP has taken n elements (R102). -/
def pullRing (s : State) (cv : Nat) (w : Work) (r : Round) (d : StreamDesc) (n : Nat) (got : List Nat) : State × List Nat :=
  let e := envOf s cv w r
  let more := (ringElems s e (unitOf d)).take (n - got.length)
  if descSpace d = 6 then (takeRing s e (unitOf d) more.length, got ++ more) else (s, got)

/-- Beats of a SWEEP for which its elements are there: all of them, or for a ring the whole TURN blocks that have come (R94, R102). -/
def beatsHere (s : State) (cv : Nat) (w : Work) (r : Round) (c : Chain) (d : StreamDesc) (count : Nat) (got : List Nat) : Nat :=
  let have_ := got.length + (ringElems s (envOf s cv w r) (unitOf d)).length
  if descSpace d = 6 ∧ have_ < sweepLen d count then have_ / 1024 * blockBeats d else entryBeats (envOf s cv w r) c d count

/-- Elements that a SWEEP has taken once so many of its beats have entered: no more leave a ring than enter the chain (R86, R102). -/
def elemsTaken (d : StreamDesc) (count total entered : Nat) : Nat :=
  if total ≤ entered then sweepLen d count else entered * (64 / 2 ^ descFormat d)

/-- The head SWEEP of a caravan's chain enters as far as its ring, its exit and the step's budget allow: whole at its last beat, else up to
a TURN block boundary, and when the budget holds no further block the step has none left (R88, R94, R102, R226). None when it
stays. -/
def enterSweep (s : State) (cv : Nat) (w : Work) (r : Round) (c : Chain) (d : StreamDesc) (dst : Option StreamDesc) (count entered : Nat)
    (got : List Nat) (rest : List ChainItem) : State × Bool :=
  let total := entryBeats (envOf s cv w r) c d count
  let here := beatsHere s cv w r c d count got
  let left := (getCv s cv).entryLeft
  let whole := decide (here = total ∧ total - entered ≤ left)
  let go := if whole then total - entered else min (here - entered) left / blockBeats d * blockBeats d
  let pulled := pullRing s cv w r d (elemsTaken d count total (entered + go)) got
  let k := getCv pulled.1 cv
  let w1 := { w with flow := rest }
  if whole then
    let s1 := setCv pulled.1 cv { k with entryLeft := k.entryLeft - (total - entered), work := some w1 }
    match sweepEffect s1 cv w1 r c d dst count pulled.2 with
    | .ok t => (t, true)
    | .error f => (raiseSweep s1 cv f, true)
  else
    let spent := decide (left < here - entered)
    (setCv pulled.1 cv { k with
      entryLeft := if spent then 0 else k.entryLeft - go
      work := some { w with flow := .sweep c d dst count (entered + go) pulled.2 :: rest } }, false)

/-- Everything in the chain ahead of the next swap runs, in order, while a step runs, the exit takes what leaves, and the islands that it
uses are up (R84, R88, R94, R236, R238, R239, R361). -/
def runFlow (cv : Nat) : Nat → State → State
  | 0, s => s
  | k + 1, s =>
    match (getCv s cv).work with
    | none => s
    | some w =>
      match getRound s w.part, w.flow with
      | some r, .sweep c d dst n entered got :: rest =>
        if (getCv s cv).stepping = false ∨ w.stopped ∨ w.exitQ ≠ [] ∨ backReady s cv c = false ∨ hbmRuns s (dieOf cv) = false then s
        else
          let o := enterSweep s cv w r c d dst n entered got rest
          if o.2 then runFlow cv k o.1 else o.1
      | some r, .load q :: rest =>
        match fillSeeds r w.seeds q with
        | none => raiseDetected (setWork s cv { w with flow := rest }) cv 8
        | some t => runFlow cv k (setWork s cv { w with flow := rest, seeds := t })
      | _, _ => s

/-- The caravan's chain runs as far as it goes. -/
def runOne (s : State) (cv : Nat) : State :=
  match (getCv s cv).work with
  | none => s
  | some w => runFlow cv w.flow.length s

/-- The caravans of a chain in the order of their positions (R102). -/
def chainCaravans (s : State) (cv : Nat) (w : Work) : List Nat :=
  (List.range 4).flatMap (fun k => ((chainOf s cv w).filter (fun e => decide (chainPos e.2 = k))).map (fun e => e.1))

/-- The caravans of a chain in turn, again and again: a consumer makes room in a ring, and its producer goes on (R88, R102). -/
def runChain (cvs : List Nat) : Nat → State → State
  | 0, s => s
  | k + 1, s => runChain cvs k (cvs.foldl runOne s)

/-- Run what the chain of a caravan holds, with the caravans chained to it. A step's entry fills a ring of 64 KiB at most 59 times, so 64
turns are enough. -/
def pumpFlow (s : State) (cv : Nat) : State :=
  match (getCv s cv).work with
  | none => s
  | some w => if w.chained.isNone then runOne s cv else runChain (chainCaravans s cv w) 64 s

/-- Run the shadow-port queue as far as it goes. -/
def runShadow (cv : Nat) : Nat → State → State
  | 0, s => s
  | k + 1, s =>
    match (getCv s cv).work with
    | none => s
    | some w =>
      match getRound s w.part with
      | none => s
      | some r =>
        match shadowHead s cv w r with
        | none => s
        | some (.ok t) => runShadow cv k t
        | some (.error f) => raiseSweep s cv f

/-- The shadow-port queue holds at most four operations (R238). -/
def pumpShadow (s : State) (cv : Nat) : State := runShadow cv 4 s

end Sys2Proof.Machine
end

