-- ==== Sys2Proof/Machine/Links.lean ====
section
/-! DEFINITION. The failure of a Porush link or lane, and what is resent (R394, R396, R408 to R410). -/

namespace Sys2Proof.Machine

/-- A saturating count of resent flits (R410). -/
def addReplays (w : W32) (n : Nat) : W32 := BitVec.ofNat 32 (min (2 ^ 32 - 1) (w.toNat + n))

/-- Resend every flit of the replay buffer, byte for byte (R394, R408). -/
def resendFlits (s : State) (l : Nat) : State :=
  let k := getLink s l
  let s1 := k.replay.foldl (fun a e => emit a (.flit l e.2)) s
  setLink s1 l { getLink s1 l with replays := addReplays k.replays k.replay.length }

/-- Does a partition lead a circuit with a member toward which no link is open? -/
def leadCutOff (s : State) (x : Partition) : Bool :=
  match x.round.bind (fun r => r.circuit) with
  | none => false
  | some c => decide (c.self = 0) && (List.range c.members.length).any (fun d => decide (d ≠ c.self) && (routeLink s c d).isNone)

/-- The pending admissions of a lead with a destination that has no route (R409). -/
def cutAdmissions (s : State) : List Taken :=
  s.cmd.taken.filter (fun t => decide (t.desc.opcode = 0x0301) && (match t.part with
    | none => false
    | some p => leadCutOff s (getPart s p)))

/-- An admission ends with RETRY_LATER and a hint of 1,000,000 us; nothing of its flight remains (R409). -/
def cutAdmission (s : State) (t : Taken) : State :=
  match t.part with
  | none => s
  | some p =>
    complete (dropFlight s p t.ref false) t .retryLater (retryHint 1000000)

/-- A link that is down: its unacknowledged messages leave by the alternate route or wait; what waited in its queues is among
them or is forwarded traffic, which its source resends (R399, R409). -/
def reroute (s : State) (l : Nat) : State :=
  let mine := s.porush.unacked.filter (fun e => decide (e.1 = l))
  let s1 := { s with porush := { s.porush with unacked := s.porush.unacked.filter (fun e => decide (e.1 ≠ l)) } }
  let s2 := mine.foldl (fun a e => sendVia a e.2.1 e.2.2) s1
  (cutAdmissions s2).foldl cutAdmission s2

/-- An open link goes down (R409, R410). -/
def downLink (s : State) (l : Nat) (training : Bool) (cause : Nat) : State :=
  let k := getLink s l
  let k1 := { k with up := false, training := training, cause := cause, partner := 0, key := [], txq := [], partials := [], replay := []
                     narrow := false, version := 0 }
  let s1 := setLink s l k1
  if k.up then reroute (setLinkEvent s1 l) l else s1

/-- Is every lane of a half of the link good (R391)? -/
def halfGood (failed : BitVec 8) (high : Bool) : Bool := if high then decide (failed >>> 4 = 0) else decide (failed &&& 15 = 0)

/-- A lane of an open link has failed: the link goes on at x4 on its good half, with its key, counters and replay buffer; with
no good half it fails (R396 cause 7, R408). -/
def laneFails (s : State) (l lane : Nat) : State :=
  let k := getLink s l
  let k1 := { k with failed := k.failed ||| (1 <<< lane) }
  if k.up = false then setLink s l k1
  else if halfGood k1.failed false || halfGood k1.failed true then
    let s1 := setLink s l { k1 with narrow := true }
    resendFlits (if k.narrow then s1 else setLinkEvent s1 l) l
  else downLink (setLink s l k1) l true 7

end Sys2Proof.Machine
end

