-- ==== Sys2Proof/Machine/Tamper.lean ====
section
/-! DEFINITION. The response to a tamper alarm in its three phases (R328 to R331). -/

namespace Sys2Proof.Machine

/-- A session without its secrets; its number stays (R330). -/
def zeroSession (x : Session) : Session := { number := x.number }

/-- A round without its keys: the round secret and what the engines hold of it, K_noise and the image keys (R330). -/
def zeroRound (r : Round) : Round :=
  let f := { r.finish with kNoise := none, imgKeys := [] }
  { r with secret := [], engineKeys := none, finish := f }

/-- A partition without any key: key slots, epochs, session and binding secrets, round keys; work that held keys ends. -/
def zeroPartition (x : Partition) : Partition :=
  { x with
    oldLive := false, held := false, keeperHold := false, session := zeroSession x.session, cmdKey := none, keys := [], drains := [], flights := []
    plains := [], saved := [], round := x.round.map zeroRound, opening := none }

/-- A caravan whose operation has aborted: no key in its slots and seed store, no work, and no output or intermediate of one in its sets and
buffers (R329, R330). -/
def zeroCaravan (c : Caravan) : Caravan := { duty := c.duty, mailSent := c.mailSent, mailTook := c.mailTook, lastServed := c.lastServed }

/-- A Porush link whose key is zeroed goes down (R442). -/
def zeroLink (k : Link) : Link :=
  { k with up := false, training := false, key := [], partner := 0, txq := [], partials := [], replay := [] }

/-- The links that a zeroing takes down report it: up changed (R410). -/
def reportLinks (s : State) : State :=
  (List.range 4).foldl (fun a l => if (getLink a l).up then setLinkEvent (setLink a l (zeroLink (getLink a l))) l
    else setLink a l (zeroLink (getLink a l))) s

/-- Zero every derived key of the device (R330): key slots, epochs, session and binding secrets, round keys, the identity
cache, the memory epochs in the controllers, the 65 DRBG instances and the seed buffer, the link keys. -/
def zeroKeys (s : State) : State :=
  let s1 := uninstantiateAll s
  let s2 := { s1 with
    entropy := { s1.entropy with seeds := [], window := [], syncing := true, erased := true }
    parts := Table.mapVals s1.parts (fun _ x => zeroPartition x)
    caravans := Table.mapVals s1.caravans (fun _ c => zeroCaravan c)
    keeper := { s1.keeper with pendingEk := [], pf0 := zeroSession s1.keeper.pf0, pf1 := zeroSession s1.keeper.pf1, identity := false, cache := [] }
    hbm := { s1.hbm with xts := [] } }
  reportLinks s2

/-- The lock, TAMPER_OUT, the cause and phase, and the count of OTP (R330). -/
def lockTamper (s : State) (cause phase : Nat) : State :=
  realert { s with
    keeper := { s.keeper with locked := true, lastCause := cause, lastPhase := phase, tamperCount := min 1023 (s.keeper.tamperCount + 1) }
    pins := { s.pins with tamperOut := true } }

/-- Start-up: the Keeper halts in tamper hold before any key is derived, and no link is up or trains; what stands of an earlier life is zeroed all the same (R329, R330,
R415 cause 6). -/
def startupAlarm (s : State) (cause : Nat) : State :=
  let s1 := lockTamper (zeroKeys s) cause 1
  realert { s1 with
    cmd := { s1.cmd with port0 := { s1.cmd.port0 with linkUp := false, training := false }
                         port1 := { s1.cmd.port1 with linkUp := false, training := false } }
    keeper := { s1.keeper with tamperHold := true }
    hub := { s1.hub with bootState := 4, cause := 6, causeGroup := 0 } }

/-- A boot that finds a source still asserted which has raised its alarm goes to tamper hold, and counts nothing (R329, R331). -/
def tamperHold (s : State) (cause : Nat) : State :=
  let s1 := startupAlarm s cause
  { s1 with keeper := { s1.keeper with tamperCount := s.keeper.tamperCount } }

/-- Sleep: the retention-domain keys are zeroed, and the next wake is a cold boot (R329, R424). -/
def sleepAlarm (s : State) (cause : Nat) : State :=
  let s1 := lockTamper (zeroKeys s) cause 2
  { s1 with keeper := { s1.keeper with retentionLost := true } }

/-- Every pending command, a waiting FENCE as well, completes with one status. -/
def endAll (s : State) (st : Status) : State := s.cmd.taken.foldl (fun a t => completeOne a t st) s

/-- The running steps end before the Keeper acts (R36); what they would still have issued in the time that R36 leaves them, they do not
(DESIGN CHOICE, assumption 148). -/
def endSteps (s : State) : State :=
  { s with caravans := Table.mapVals s.caravans (fun _ c => { c with stepping := false }) }

/-- Operation: the running steps end, every pending command completes with TAMPER, and every key is zeroed (R36, R329, R330). -/
def operationAlarm (s : State) (cause : Nat) : State :=
  lockTamper (zeroKeys (endAll (endSteps s) .tamper)) cause 3

/-- A source has raised its alarm, and is asserted until a boot check finds it clear (R331). -/
def noteSource (s : State) (cause : Nat) : State :=
  { s with keeper := { s.keeper with asserted := insertNat cause s.keeper.asserted } }

/-- TAMPER_ALARM (R328 to R331, R439, R440): an alarm as R331 raises it, so the debounce lies before this event; aon says of cause 3 that
the rail is VAON. While PWRGOOD is low cause 3 is ignored, and another cause that meets the power loss leaves its count to the next boot
(R331). Start-up lasts until the Keeper's first key derivation (R329); Sleep watches neither cause 4 nor any other rail (R328). -/
def execTamperAlarm (source : AlarmSource) (s0 : State) : Host.Outcome State Fault Refusal :=
  .next (
    let cause := source.cause
    let s := noteSource s0 cause
    if s.keeper.armed = false ∨ cause = 0 ∨ 4 < cause then s0
    else if s.pins.pwrgood = false then
      if cause = 3 then s0
      else { s with keeper := { s.keeper with owedCount := true, lastCause := cause, lastPhase := 3 } }
    else if s.power.state = .sleep then (if cause = 4 ∨ (cause = 3 ∧ source.aon = false) then s0 else sleepAlarm s cause)
    else if s.keeper.derived then operationAlarm s cause
    else startupAlarm s cause)

end Sys2Proof.Machine
end

