-- ==== Sys2Proof/Machine/Reliability.lean ====
section
/-! DEFINITION. Detected faults: containment, retirement, replay, the failure of parts, tile repair, Steward rebuild, canaries
and ageing (R368 to R390). A containment is one step of the model, so REL.STATUS.containing reads 0 between steps
(assumption 50). -/

namespace Sys2Proof.Machine

-- ------------------------------------------------------------------ rounds that lose data (R380, R384)

/-- Partitions with a round that R380 can destroy. -/
def allParts (s : State) : List Nat := (List.range 64).filter (fun p => partExists s p)

/-- Does a journal record above the latest complete mirror W hold a segment of a die (R38, R384)? -/
def journalOn (r : Round) (die : Nat) : Bool :=
  r.journal.any (fun j => decide (r.lastW < j.seq) &&
    (List.range j.segs.length).any (fun i => decide (segDie r.desc i = die) && !(j.segs.getD i []).isEmpty))

/-- Does a weight image have a tile on a die (R37, R211)? How records lie on the stacks of a die is not stated: an image with
a tile on the die counts as lying on each of the partition's stacks there (assumption 51). -/
def weightsOn (x : Partition) (die : Nat) : Bool :=
  match x.weights with
  | none => false
  | some _ =>
    match x.round with
    | some r => (ownTiles r).any (fun t => decide (t % 2 = die))
    | none => true

/-- Is a round in a state that a lost structure can destroy? -/
def roundLive (r : Round) : Bool :=
  decide (r.state = .opened ∨ r.state = .closing ∨ r.state = .unmasking ∨ r.state = .finishing)

/-- What a failed stack does to one partition with granules on it: its image is torn, its lost granules are replaced where the
round keeps running, and otherwise R380 applies (R384). Answers whether the round is lost. -/
def stackHits (die : Nat) (s : State) (p : Nat) : State × Bool :=
  let x := getPart s p
  let torn := weightsOn x die
  let s1 := setPart s p { x with weights := x.weights.map (fun w => { w with torn := w.torn || torn }) }
  match x.round with
  | none => (s1, false)
  | some r =>
    if roundLive r = false then (s1, false)
    else
      let gone := journalOn r die || (torn && needsWeights r.desc)
      let s2 := if gone then s1 else replaceDie s1 p die
      let y := getPart s2 p
      (s2, gone || (if die = 0 then y.gran0 else y.gran1).any (granLost s2))

/-- Partitions with granules on a stack. -/
def partsOn (s : State) (k : Nat) : List Nat :=
  (allParts s).filter (fun p => ((getPart s p).gran0 ++ (getPart s p).gran1).any (fun g => decide (g.1 = k)))

/-- Granules of a stack are marked unavailable (R384). -/
def markGranules (s : State) (k : Nat) (l : List Nat) : State := l.foldl (fun a g => setGran a (k, g) .unavailable) s

/-- A stack's granules are marked unavailable (R384, R390). -/
def markStack (s : State) (k : Nat) : State :=
  let s1 := markGranules s k (List.range 56)
  { s1 with rel := { s1.rel with lostStacks := s1.rel.lostStacks ||| (1 <<< k) } }

/-- The failure of a stack in operation, or in the training of a warm boot (R384, R386). -/
def failStack (s : State) (k : Nat) : State :=
  if s.rel.lostStacks.getLsbD k then s
  else
    let hit := partsOn s k
    let out := hit.foldl (fun (a : State × List Nat) p =>
      let b := stackHits (k / 4) a.1 p
      (b.1, if b.2 then a.2 ++ [p] else a.2)) (markStack s k, [])
    if out.2 = [] then { out.1 with rel := { out.1.rel with degraded := true } } else outsideModel out.1 out.2

-- ------------------------------------------------------------------ retirement (R374, R382, R385, R426)

/-- ADMITs in flight on a unit that the device has restarted or given up are done again, and so marked (R81, R377, R379). -/
def markReplayed (s : State) (r : CmdRef) : State :=
  match fnPart r.fn with
  | none => s
  | some p =>
    let x := getPart s p
    match Table.get? x.flights r with
    | none => s
    | some fl => setPart s p { x with flights := Table.put x.flights r { fl with replayed := true } }

/-- The commands whose descriptors a failed Steward's successor, or the restarted Steward, takes again: their work is done again, and their
completions say so (R379, R382). -/
def markTaken (s : State) (n : Nat) : State :=
  let mine := s.cmd.taken.filter (fun t => decide (stewardFor s t = some n) && (t.begun || t.waiting))
  let s1 := mine.foldl (fun a t => updTaken a { t with replayed := true }) s
  (mine.map (fun t => t.ref)).foldl markReplayed s1

/-- Retire a Steward. When none is left, R380 applies to every round of its partitions, and their commands end with
POLICY_DENIED (R382). -/
def retireSteward (s0 : State) (n : Nat) : State :=
  let s := markTaken s0 n
  let s1 := setRelError { s with rel := { s.rel with stewards := s.rel.stewards ||| (1 <<< n) } } 2
  if s1.rel.stewards = 0xFF then
    let ps := allParts s1
    let s2 := s1.cmd.taken.foldl (fun a t => if t.part.isSome then completeOne a t .policyDenied else a) s1
    outsideModel s2 ps
  else s1

/-- Retire a Porter: the port's other Porters take its descriptors from the start of their envelopes (R381, R386). -/
def retirePorter (s : State) (n : Nat) : State :=
  setRelError { s with rel := { s.rel with porters := s.rel.porters ||| (1 <<< n) } } 2

/-- Retire an X25519 engine (R385). -/
def retireEngine (s : State) (n : Nat) : State :=
  setRelError { s with rel := { s.rel with x25519 := s.rel.x25519 ||| (1 <<< n) } } 2

/-- Caravans whose front or back chain lies in a voltage island (R426). -/
def islandCaravans (i : Nat) : List Nat :=
  let die := if i < 48 then 0 else 1
  let j := i % 48
  if 96 ≤ i then [] else if j < 24 then [24 * die + j] else if j < 36 then [24 * die + 2 * (j - 24), 24 * die + 2 * (j - 24) + 1] else []

/-- A caravan restarts: the work whose state its SRAM held is discarded, to be replayed from its committed inputs with the whole of its
chain, with its message, a switch under way, and the stores of the stages (R103, R161, R373, R377, R385). -/
def restartCaravan (s : State) (cv : Nat) : State :=
  let s0 := match (getCv s cv).work with
    | none => s
    | some w => dropPeers s cv w
  let c := getCv s0 cv
  let s1 := setCv s0 cv { c with
    work := none, stepping := false, switching := none, half := none, twiddle := none, openBuf := [], sealBuf := []
    faultedOn := if c.work.isSome then c.work.map callOf else c.faultedOn
    mailbox := c.mailbox.filter (fun m => !c.work.any (fun w => decide (w.part = m.part))) }
  match c.work with
  | none => s1
  | some w => forgetWork s1 cv w

/-- A caravan is given up: its work, those that wait for it in the context area, and the chains of all of them are replayed elsewhere, and
what was staged there is passed again (R81, R374, R377, R379). -/
def giveUp (s : State) (cv : Nat) : State :=
  let s1 := ((getCv s cv).staged.map (fun e => e.1)).foldl markReplayed s
  let s2 := (Table.keys s1.parts).foldl (fun a p =>
    match Table.get? (getPart a p).saved cv with
    | none => a
    | some w => dropPeers a cv w) s1
  retireCaravan (forgetSaved (restartCaravan s2 cv) cv) cv

/-- Retire every unit in a voltage island (R388, R426): caravans by chain, Stewards in 96 to 103, four Porters in each of 104 to
107, four X25519 engines in each of 114 and 115. -/
def retireIsland (s : State) (i : Nat) : State :=
  if i < 96 then (islandCaravans i).foldl giveUp s
  else if i < 104 then retireSteward s (i - 96)
  else if i < 108 then ((List.range 4).map (fun j => 4 * (i - 104) + j)).foldl retirePorter s
  else if i = 114 ∨ i = 115 then ((List.range 4).map (fun j => 4 * (i - 114) + j)).foldl retireEngine s
  else s

-- ------------------------------------------------------------------ detection and containment (R371 to R374, R386)

/-- Does a retirement condition of R374 hold? That a caravan faults again in a replay stands in the state; what depends on the times of
earlier faults the event says. -/
def faultRetires (s : State) (f : FaultInfo) : Bool :=
  f.inReplay || f.thirdInTen || f.watchdogAgain
    || (decide (f.kind = .caravan) && (getCv s f.index).work.any (inReplay s f.index))

/-- Partitions with work on a caravan: its work, the staged segments, and what waits for it in the context area (R372). -/
def partsOnCaravan (s : State) (cv : Nat) : List Nat :=
  ((getCv s cv).work.map (fun w => w.part)).toList ++ (getCv s cv).staged.filterMap (fun e => fnPart e.1.fn)
    ++ (Table.keys s.parts).filter (fun p => Table.has (getPart s p).saved cv)

/-- The affected partitions of a fault: those with work on the failing unit (R372), by what the state holds of it, and the partition that the
detection names. -/
def affected (s : State) (f : FaultInfo) : List Nat :=
  sortNat (f.partition.toList ++ match f.kind with
    | .caravan => partsOnCaravan s f.index
    | .steward => (allParts s).filter (fun p => decide ((getPart s p).steward = f.index))
    | .porter => (s.cmd.taken.filter (fun t => decide (t.desc.opcode = 0x0301
        ∧ f.index = 8 * portNat (fnPort t.ref.fn) + t.order % 8))).filterMap (fun t => t.part)
    | .hbm | .stack => partsOn s f.index
    | .porush => (s.porush.unacked.filter (fun e => decide (e.1 = f.index))).map (fun e => e.2.1)
    | .port => (allParts s).filter (fun p => decide ((getPart s p).serving = some (portOf f.index)))
    | .x25519 => (allParts s).filter (fun p => decide ((getPart s p).flights ≠ []))
    | .island => (islandCaravans f.index).flatMap (partsOnCaravan s)
    | .bridge | .crossBridge | .die | .keeper => allParts s)

/-- The partition byte of a log entry: the affected partition, or 0xFF where none or more than one is (R390; DESIGN CHOICE, assumption
145). -/
def affectedByte (s : State) (f : FaultInfo) : Nat :=
  match affected s f with
  | [p] => p
  | _ => 0xFF

/-- Count a contained fault and write its log entry (R373 step 5, R390). -/
def contained (s : State) (f : FaultInfo) (part outcome : Nat) : State :=
  logFault (countFault s false) (unitCode f.kind) f.index f.mechanism part outcome f.values

/-- A caravan's fault: it restarts, or is retired, and its staged segments are passed again (R373, R374, R377, R385). -/
def caravanFault (s : State) (f : FaultInfo) : State :=
  let s1 := ((getCv s f.index).staged.map (fun e => e.1)).foldl markReplayed s
  settleQuiesce (settleUnloads (if faultRetires s f then giveUp s1 f.index else restartCaravan s1 f.index))

/-- The granules of a stack that lie on a fenced pseudo-channel: which ones is a free value (R386; DESIGN CHOICE, assumption 140). -/
def channelGranules (s : State) : List Nat := (List.range 56).filter (Sys2Proof.Config.channelGranule s.freeCount)

/-- A pseudo-channel is fenced: its granules are marked unavailable, and a partition's are replaced by free ones of the same die, with
the lines on them repaired or rebuilt; R380 applies to a round for which no free granule is left (R378, R384, R386). -/
def fenceChannel (s : State) (k : Nat) : State :=
  let gs := channelGranules s
  let hit := (allParts s).filter (fun p =>
    ((getPart s p).gran0 ++ (getPart s p).gran1).any (fun g => decide (g.1 = k) && gs.contains g.2))
  let s1 := hit.foldl (fun a p => replaceDie a p (k / 4)) (markGranules (bumpFree s) k gs)
  let lost := hit.filter (fun p => (getRound s1 p).any roundLive && ((getPart s1 p).gran0 ++ (getPart s1 p).gran1).any (fun g =>
    decide (g.1 = k) && gs.contains g.2))
  let s2 := setRelError { s1 with rel := { s1.rel with pseudo := min 255 (s1.rel.pseudo + 1) } } 2
  if lost = [] then s2 else outsideModel s2 lost

/-- The failing unit is fenced and restarted, or retired (R373, R374, R383, R385, R386). -/
def inModel (s : State) (f : FaultInfo) : State :=
  match f.kind with
  | .caravan => if f.index < 48 then caravanFault s f else s
  | .steward => if 8 ≤ f.index then s else if faultRetires s f then retireSteward s f.index else markTaken s f.index
  | .porter =>
    let s1 := pointerMismatchOp s (.porter f.index)
    if faultRetires s f && decide (f.index < 16) then retirePorter s1 f.index else s1
  | .hbm =>
    if faultRetires s f && decide (f.index < 8) then fenceChannel s f.index else s
  | .bridge => { s with rel := { s.rel with bridgeLanes := Table.put s.rel.bridgeLanes f.index (Table.getD s.rel.bridgeLanes f.index 0 + 1) } }
  | .porush => if f.index < 4 then downLink s f.index true 0 else s
  | .port => linkDownOp s (portOf f.index) 1
  | .x25519 => if faultRetires s f && decide (f.index < 8) then retireEngine s f.index else s
  | .island => if faultRetires s f then retireIsland s f.index else s
  | _ => s

/-- A fault outside the model (R380, R384, R386): a stack; the AD0-AD1 bridge, without which nothing is mirrored; a die or its bridge to
HD; the Keeper. A bridge that has failed is down (R357). -/
def beyondModel (s : State) (f : FaultInfo) : State :=
  match f.kind with
  | .stack => if f.index < 8 then failStack s f.index else s
  | .die => outsideModel ((stacksOf (f.index % 2)).foldl markStack { s with rel := { s.rel with
      diesDown := s.rel.diesDown ||| (1 <<< (f.index % 2)), bridgesUp := s.rel.bridgesUp &&& ~~~((1 : BitVec 3) <<< (f.index % 2)) } })
      (allParts s)
  | .crossBridge => outsideModel { s with rel := { s.rel with crossDown := true, bridgesUp := s.rel.bridgesUp &&& 3 } } (allParts s)
  | .keeper => outsideModel { s with rel := { s.rel with keeperDown := true } } (allParts s)
  | _ => outsideModel s (allParts s)

/-- Does a unit's failure lie outside the fault model (R368)? -/
def outsideKind : UnitKind → Bool
  | .stack | .die | .crossBridge | .keeper => true
  | _ => false

/-- FAULT_DETECTED (R371 to R374, R380, R386): an error that a mechanism corrects is counted in place; a fault outside the
model destroys what R386 says; every other is contained, and its unit restarts or is retired. -/
def execFaultDetected (f : FaultInfo) (s : State) : Host.Outcome State Fault Refusal :=
  .next (
    if f.corrected then
      logFault (countFault s true) (unitCode f.kind) f.index f.mechanism (affectedByte s f) 0 f.values
    else if outsideKind f.kind then
      logFault (beyondModel s f) (unitCode f.kind) f.index f.mechanism (affectedByte s f) 3 f.values
    else contained (inModel s f) f (affectedByte s f) (if faultRetires s f then 2 else 1))

/-- The unit on which a queue of the cell pool lies, for the log: the port of a host queue or a P0 slot, the caravan that takes from the
mailbox, the Porter; no code fits the others (R381, R390; DESIGN CHOICE, assumption 145). -/
def queueUnit : QueueId → Nat × Nat
  | .sq f _ | .cq f _ | .p0Slots f => (7, portNat (fnPort f))
  | .mailbox cv => (1, cv)
  | .keeperMail _ => (0, 0)
  | .porter p => (3, p)
  | .drbg _ | .events _ => (0, 0)

/-- The partition that a queue of the cell pool serves, for the log. -/
def queuePart (s : State) : QueueId → Nat
  | .sq f _ | .cq f _ | .p0Slots f => (fnPart f).getD 0xFF
  | .mailbox cv => logPart ((getCv s cv).work.map (fun w => w.part))
  | .keeperMail _ | .porter _ => 0xFF
  | .drbg n => if n < 64 then n else 0xFF
  | .events p => p

/-- QUEUE_POINTER_MISMATCH (R371, R373, R381): the two copies of a queue's pointers disagree: a detected fault, contained by the queue's
reset. -/
def execQueuePointerMismatch (q : QueueId) (s : State) : Host.Outcome State Fault Refusal :=
  .next (logFault (countFault (pointerMismatchOp s q) false) (queueUnit q).1 (queueUnit q).2 9 (queuePart s q) 1 0)

-- ------------------------------------------------------------------ tile repair (R378)

/-- The primary copy after its repair: what the mirror's bank and the replay of later batches give goes to the bank that the
entry does not name (R377, R378). A tile whose unmasked bank was lost returns to the mirror's bank, and its unmask is redone
(R161), and so is that of a tile whose groups have gone to a bank that no entry names (R159). A finish pass that is redone gives a FINISHED
tile what it held (R222). -/
def repairPrimary (x : Tile) : Tile :=
  if x.prim.phase = .accumulating then { x with prim := x.prim.commit x.prim.committed, groups := 0, unmaskers := [] }
  else if x.mirrored ∨ x.prim.phase = .finished then { x with prim := x.prim.commit x.prim.committed }
  else { x with
    prim := { x.prim.commit x.mirr.committed with watermark := x.mirr.watermark, phase := x.mirr.phase, batch := x.mirr.batch }
    groups := 0, unmaskers := [] }

/-- The mirror copy after its repair: the primary's committed bank is copied again (R121, R378). A tile that the checkpoint in
progress has mirrored and the primary has since passed keeps what it mirrored (R66). -/
def repairMirror (r : Round) (tile : Nat) (x : Tile) : Tile :=
  if r.ckpt.any (fun c => c.mirrored.contains tile && decide (x.prim.watermark ≠ c.w)) then
    { x with mirr := x.mirr.commit x.mirr.committed }
  else mirrorTile x

/-- The UNMASK work of a partition on a tile is dropped where it stands, for the tile's unmask is redone (R161). -/
def dropUnmask (s : State) (p tile : Nat) : State :=
  match unmaskHolder s p tile with
  | none => s
  | some cv =>
    let x := getPart s p
    let c := getCv s cv
    let here := c.work.any (fun w => decide (w.part = p))
    let s1 := setPart s p { x with saved := if here then x.saved else Table.erase x.saved cv }
    setCv s1 cv { c with
      work := if here then none else c.work, stepping := c.stepping && !here
      mailbox := c.mailbox.filter (fun m => decide (m.part ≠ p)) }

/-- TILE_REPAIR (R378, R380): a failed line of the primary record, of the mirror record, or of both. With both no copy of the
tile survives, and the round can only be aborted. -/
def execTileRepair (p : Nat) (tile : Nat) (primary mirror : Bool) (s : State) : Host.Outcome State Fault Refusal :=
  .next (match getRound s p with
    | none => s
    | some r =>
      if (ownTiles r).contains tile = false then s
      else if primary && mirror then outsideModel s [p]
      else if primary then settleQuiesce (dropUnmask (setRound s p (setTile r tile (repairPrimary (getTile r tile)))) p tile)
      else if mirror then setRound s p (setTile r tile (repairMirror r tile (getTile r tile)))
      else s)

/-- STEWARD_REBUILD (R382): a partition of a retired Steward moves to the next one that is not retired, which posts its steps on mailboxes
of its own; nothing of its round changes. -/
def execStewardRebuild (p : Nat) (s : State) : Host.Outcome State Fault Refusal :=
  let x := getPart s p
  .next (if x.phase = .absent ∨ s.rel.stewards.getLsbD x.steward = false ∨ s.rel.stewards = 0xFF then s
    else
      let st := stewardOf s p
      let s1 := setPart s p { x with steward := st }
      repost { s1 with caravans := Table.mapVals s1.caravans (fun _ c =>
          { c with mailbox := c.mailbox.filter (fun m => decide (m.part ≠ p)) }) } p)

-- ------------------------------------------------------------------ ageing (R387 to R389)

/-- An island's voltage in mV: 850 without a readable record (R389). -/
def islandVolt (s : State) (i : Nat) : Nat := Table.getD s.islands.volts i 850

/-- Set an island's voltage and its run of high readings. -/
def setVolt (s : State) (i v run : Nat) : State :=
  { s with islands := { s.islands with volts := Table.put s.islands.volts i v, highRuns := Table.put s.islands.highRuns i run } }

/-- The margin of an island over the floor, in M beats/s (R390). -/
def islandMargin (fp : Nat) : Nat := min 1023 (fp - 2100)

/-- The island with the smallest margin among those read (R390). -/
def worstOf : List (Nat × Nat) → Option (Nat × Nat)
  | [] => none
  | e :: es =>
    match worstOf es with
    | none => some e
    | some b => if islandMargin e.2 ≤ islandMargin b.2 then some e else some b

/-- REL.AGEING after a reading (R390). -/
def showAgeing (s : State) : State :=
  match worstOf s.islands.lastProj with
  | none => s
  | some e => { s with rel := { s.rel with worstIsland := e.1, worstMargin := islandMargin e.2, worstVolt := islandVolt s e.1 - 500 } }

/-- What R388 does with the slowest projection of an island. -/
def steerVoltage (s : State) (i fp : Nat) : State :=
  let v := islandVolt s i
  if fp < 2205 then
    if v < 850 then setVolt s i (v + 5) 0
    else
      let s1 := setRelError { setVolt s i v 0 with rel := { s.rel with exhausted := true } } 8
      let s2 := logFault s1 9 i 0 0xFF 0 0
      if fp < 2100 then retireIsland s2 i else s2
  else if fp ≤ 2310 then setVolt s i v 0
  else
    let run := Table.getD s.islands.highRuns i 0 + 1
    if 3 ≤ run then setVolt s i (if 650 < v then v - 5 else v) 0 else setVolt s i v run

/-- The 120 voltages of the islands in order. -/
def allVolts (s : State) : List Nat := (List.range 120).map (islandVolt s)

/-- The canary history of the record, and the readings since added to it (R389). -/
def addHistory (h r : Table Nat (List Nat)) : Table Nat (List Nat) :=
  (Table.keys r).foldl (fun a i => Table.put a i (Table.getD h i [] ++ Table.getD r i [])) h

/-- The ageing record is written: the chosen voltages, and the readings since the last write added to its history (R389). -/
def writeAgeing (s : State) : State :=
  { s with
    flash := { s.flash with ageing := some (allVolts s), canaries := addHistory s.flash.canaries s.islands.readings }
    islands := { s.islands with recorded := some (allVolts s), readings := [] } }

/-- The voltage of an island in the record, 850 mV where there is none. -/
def recordedVolt (s : State) (i : Nat) : Nat := (s.islands.recorded.getD []).getD i 850

/-- Has an island's voltage moved 20 mV or more from its record: the record is then due at once (R389)? -/
def recordDue (s : State) (i : Nat) : Bool := decide (20 ≤ max (islandVolt s i) (recordedVolt s i) - min (islandVolt s i) (recordedVolt s i))

/-- The projections of an island's canaries to 105 C (R388). -/
def projections (island : Nat) (rates : List Nat) (junction : Int) : List Nat :=
  rates.map (fun q => Sys2Proof.Config.canaryAt105 island q junction)

/-- f_p: the slowest of the projections (R388). -/
def slowest : List Nat → Nat
  | [] => 0
  | q :: qs => qs.foldl min q

/-- What the power manager does with f_p of an island: it joins the history, it steers the voltage, and a change of 20 mV or more is recorded
at once (R388 to R390). -/
def takeProjection (s : State) (island fp : Nat) : State :=
  let s1 := { s with islands := { s.islands with
    lastProj := Table.put s.islands.lastProj island fp
    readings := Table.put s.islands.readings island (Table.getD s.islands.readings island [] ++ [fp]) } }
  let s2 := steerVoltage s1 island fp
  showAgeing (if recordDue s2 island then writeAgeing s2 else s2)

/-- CANARY_READING (R387 to R390, R433): the four rates of an island's canaries and its junction temperature. Readings are taken in D0, by the
power manager while its own clock runs. -/
def execCanaryReading (island : Nat) (c : CanaryRates) (s : State) : Host.Outcome State Fault Refusal :=
  .next (if c.rates = [] ∨ s.power.state ≠ .d0 ∨ s.pins.pwrgood = false ∨ 120 ≤ island ∨ clockStopped s 37 then s
    else takeProjection s island (slowest (projections island c.rates c.junction)))

/-- AGEING_RECORD_WRITE (R389): the write of every 24 h. -/
def execAgeingRecordWrite (s : State) : Host.Outcome State Fault Refusal :=
  .next (if s.pins.pwrgood = false ∨ clockStopped s 37 ∨ clockStopped s 36 then s else writeAgeing s)

end Sys2Proof.Machine
end

