-- ==== Sys2Proof/Machine/Crossings.lean ====
section
/-! DEFINITION. Clocked islands and their crossings: watchdogs, clock returns, resynchronisation, wakes (R352 to R367, R425). A
transfer over a crossing whose island's clock runs is part of the step that makes it; what meets a stopped clock waits in the crossing's
stores (assumption 52). -/

namespace Sys2Proof.Machine

/-- The four kinds of crossing (R354). -/
inductive CrossingKind where
  | stream | counted | level | value
  deriving DecidableEq, Repr

/-- The crossings of an island to the fabric: a PHY has none (R352). -/
def crossingKinds (i : Nat) : List CrossingKind :=
  if i = 2 ∨ i = 3 ∨ (4 ≤ i ∧ i ≤ 11) ∨ (20 ≤ i ∧ i ≤ 23) ∨ i = 30 then [.stream, .counted, .level, .value]
  else if (24 ≤ i ∧ i ≤ 29) ∨ (31 ≤ i ∧ i ≤ 34) then [.stream, .counted, .level]
  else if i = 35 then [.stream, .value]
  else if i = 36 then [.stream]
  else if i = 37 then [.stream, .level, .value]
  else if i = 38 then [.level]
  else if i = 39 then [.value]
  else []

/-- The ready indication of a clocked island, and of a self-timed one, which cross as LEVEL: it neither stands still nor is held at
retention (R357). -/
def clockedReady (s : State) (i : Nat) : Bool := !clockStopped s i
def selfTimedReady (s : State) (n : Nat) : Bool := islandUp s n

/-- The islands that one PLL clocks: a PHY and its controller share one (R352). -/
def clockGroup (i : Nat) : List Nat :=
  if i < 2 then [i, i + 2] else if i < 4 then [i - 2, i] else if i < 12 then [i, i + 8]
  else if i < 20 then [i - 8, i] else [i]

/-- A 40-bit mask of a list of islands. -/
def islandMask (l : List Nat) : BitVec 40 := l.foldl (fun m i => m ||| (1 <<< i)) 0

/-- Set REL.ISLAND_STALL and REL.ISLAND_STALLED: vector 51 signals when a bit of the first goes from 0 to 1 (R362, R367). -/
def stallIslands (s : State) (m : BitVec 40) : State :=
  let fresh := m &&& ~~~s.islands.seen
  let s1 := { s with islands := { s.islands with seen := s.islands.seen ||| m, stalled := s.islands.stalled ||| m } }
  if fresh = 0 then s1 else signalPfs s1 51

/-- WATCHDOG_EXPIRY (R362, R363, R371): a crossing's watchdog expires: STALLED_ISLAND of the island, and of its PHY as well when the PLL that
they share has stopped; a detected fault; and for a PCI Express controller a data-link-down condition of its port. An island with no
crossing has no watchdog; it is off for JTAG and for a parked island. -/
def execWatchdogExpiry (clock : StoppedClock) (s : State) : Host.Outcome State Fault Refusal :=
  .next (
    let island := clock.island
    if crossingKinds island = [] ∨ island = 39 ∨ s.islands.parked.getLsbD island ∨ s.pins.pwrgood = false then s
    else
      let s1 := stallIslands s (islandMask (if clock.pll then clockGroup island else [island]))
      let s2 := logFault (countFault s1 false) 9 island 10 0xFF 1 0
      if island = 2 then linkDownOp s2 .p0 1
      else if island = 3 then linkDownOp s2 .p1 1 else s2)

/-- A crossing resumes when its clock returns: what waits passes in order, STREAM items and COUNTED events each in their own, and the value
held follows (R355, R358, R361). -/
def resumeCrossing (x : Crossing) : Crossing :=
  { delivered := x.delivered ++ x.inFifo ++ x.inWait ++ x.outFifo ++ x.counted ++ x.uncredited
    value := x.holding.getD x.value, lost := x.lost }

/-- The crossings of a list of islands resume. -/
def resumeAll (s : State) (g : List Nat) : State :=
  { s with crossings := Table.mapVals s.crossings (fun i x => if g.contains i then resumeCrossing x else x) }

/-- The Keeper answers the challenge that its crossing held, which is the latest one (R327, R358, R359). -/
def answerHeld (s : State) (x : Crossing) : State :=
  match x.holding with
  | none => s
  | some c => answerChallenge s c

/-- ISLAND_CLOCK_RETURN (R361): the crossings of the islands on that clock resume, and their STALLED bits clear. -/
def execIslandClockReturn (island : Nat) (s : State) : Host.Outcome State Fault Refusal :=
  let g := clockGroup island
  let s1 := resumeAll { s with islands := { s.islands with stalled := s.islands.stalled &&& ~~~islandMask g } } g
  .next (if island = 30 then answerHeld s1 (getCrossing s 30) else s1)

/-- Resynchronisation after a reset of one side (R364 to R366). The island was reset: what its FIFO had not passed is resent from the replay
copies, in order, with what waits at the source; the fabric delivers what its own FIFO holds. The fabric was reset: the island delivers
what its FIFO holds, the items at the source are lost, and the island resends its replay copies. COUNTED zeroes its counter and its events
are lost; VALUE ends at its latest value. -/
def resyncCrossing (x : Crossing) (islandSide : Bool) : Crossing :=
  let v := x.holding.getD x.value
  if islandSide then
    { delivered := x.delivered ++ x.inReplay ++ x.inWait ++ x.outFifo, value := v
      lost := x.lost ++ x.outReplay.drop x.outFifo.length ++ x.counted ++ x.uncredited }
  else
    { delivered := x.delivered ++ x.inFifo ++ x.outReplay, value := v, lost := x.lost ++ x.inWait ++ x.counted ++ x.uncredited }

/-- Both sides of a crossing re-initialise the pools of its COUNTED events: a Porush link's credits per class, and what it owes (R356, R366,
R398). The other pools have nothing outstanding between two steps. -/
def resetPools (s : State) (island : Nat) : State :=
  if 20 ≤ island ∧ island ≤ 23 then
    setLink s (island - 20) { getLink s (island - 20) with
      credits := List.replicate 3 (countedLimit .flitCredit), owed := [0, 0, 0] }
  else s

/-- CROSSING_RESYNC (R364 to R366): what is delivered is delivered before the crossing opens; the pools start afresh, and the island's
STALLED bit clears. -/
def execCrossingResync (island : Nat) (islandSide : Bool) (s : State) : Host.Outcome State Fault Refusal :=
  .next (
    if crossingKinds island = [] then s
    else
      let x := getCrossing s island
      let s1 := resetPools { s with
        islands := { s.islands with stalled := s.islands.stalled &&& ~~~islandMask [island] }
        crossings := Table.put s.crossings island (resyncCrossing x islandSide) } island
      if island = 30 then answerHeld s1 x else s1)

/-- ISLAND_WAKE (R425): an item wakes a parked clocked island (0 to 39) or a voltage island at retention (40 to 159 for 0 to
119), and what waited for it passes. A thermal trip is left only at a cold boot (R430), and Sleep only as R424 says. -/
def execIslandWake (island : Nat) (s : State) : Host.Outcome State Fault Refusal :=
  .next (
    if s.pins.thermtrip ∨ s.power.state = .sleep then s
    else if island < 40 then resumeAll { s with islands := { s.islands with parked := s.islands.parked &&& ~~~islandMask [island] } } [island]
    else { s with islands := { s.islands with retention := s.islands.retention &&& ~~~((1 : BitVec 120) <<< (island - 40)) } })

end Sys2Proof.Machine
end

