-- ==== Sys2Proof/Machine/Power.lean ====
section
/-! DEFINITION. Power states, duty and the thermal trip (R422 to R432). -/

namespace Sys2Proof.Machine

-- ------------------------------------------------------------------ Doze (R422, R423)

/-- Clocked islands that Doze parks: what R422 does not list as running, which is the HBM controllers and PHYs and the die
bridges (DEDUCED, assumption 53). -/
def dozeParked : BitVec 40 := islandMask ((List.range 16).map (fun i => 4 + i) ++ (List.range 6).map (fun i => 24 + i))

/-- Voltage islands that Doze holds at retention: those of AD0 and AD1 (R426; assumption 53). -/
def dozeRetention : BitVec 120 := BitVec.ofNat 120 (2 ^ 96 - 1)

/-- Begin entry into Doze: no new step is issued (R423). -/
def beginDoze (s : State) : State :=
  if s.power.state = .d0 then { s with power := { s.power with entering := true } } else s

/-- PWR_DOZE (R423): PWR.CTRL.doze is written 1. -/
def execPwrDoze (s : State) : Host.Outcome State Fault Refusal :=
  .next (beginDoze { s with power := { s.power with doze := true } })

/-- Caravans that hold a work. -/
def workingCaravans (s : State) : List Nat := (List.range 48).filter (fun cv => (getCv s cv).work.isSome)

/-- DOZE_ENTRY (R422, R423): once every running step has ended, the contexts are saved, a switch under way with them, and the device is in
Doze. -/
def execDozeEntry (s : State) : Host.Outcome State Fault Refusal :=
  .next (
    if s.power.entering = false ∨ s.caravans.any (fun e => e.2.stepping) then s
    else
      let s1 := (workingCaravans s).foldl saveOut s
      { s1 with
        caravans := Table.mapVals s1.caravans (fun _ c => { c with switching := none, half := none })
        power := { s1.power with state := .doze, entering := false }
        islands := { s1.islands with parked := s1.islands.parked ||| dozeParked, retention := s1.islands.retention ||| dozeRetention } })

/-- The device returns to D0: its islands wake, and the Stewards issue steps again (R26, R423, R425). -/
def leaveDoze (s : State) : State :=
  repostAll { s with
    power := { s.power with
      state := if s.power.state = .doze ∨ s.power.state = .waking then .d0 else s.power.state, entering := false }
    islands := { s.islands with parked := s.islands.parked &&& ~~~dozeParked, retention := s.islands.retention &&& ~~~dozeRetention } }

/-- DOZE_EXIT (R423): PWR.CTRL.doze written 0, a PF that returns to D0, or a command that needs a step. The 3 ms of the return
are not modelled, so PWR.STATUS never shows waking. -/
def execDozeExit (cause : DozeExitCause) (s : State) : Host.Outcome State Fault Refusal :=
  .next (
    if s.pins.thermtrip ∨ s.power.state = .sleep then s
    else match cause with
      | .ctrlWrite => leaveDoze { s with power := { s.power with doze := false } }
      | .d0Return port => leaveDoze (setPort s port { getPort s port with d3hot := false })
      | .command => if s.cmd.taken.isEmpty then s else leaveDoze s)

/-- D3HOT_ENTRY (R422, R423): the PF takes no command on its port's functions; entry into Doze begins when every PF whose link
is up is in D3hot. -/
def execD3hotEntry (port : Port) (s : State) : Host.Outcome State Fault Refusal :=
  .next (
    if (getPort s port).linkUp = false then s
    else
      let s1 := setPort s port { getPort s port with d3hot := true }
      if [Port.p0, Port.p1].all (fun q => !(getPort s1 q).linkUp || (getPort s1 q).d3hot) then beginDoze s1 else s1)

-- ------------------------------------------------------------------ Sleep (R422 to R424)

/-- Caravans with nothing in them: admission duty as at reset, passed on from retired caravans (R57, R385). -/
def freshCaravans (s : State) : State :=
  ((List.range 48).filter (cvRetired s)).foldl passDuty { s with caravans := State.reset.caravans }

/-- HBM with nothing in it: every granule free but those of unavailable stacks and those that
wait for a zero-fill (R310, R384, R415 cause 5). -/
def freshHbm (s : State) : State :=
  ((List.range 8).filter (fun k => s.rel.lostStacks.getLsbD k)).foldl markStack { s with hbm := { gran := s.hbm.gran.filter (fun e => isScrubbing e.2) } }

/-- A bank through a warm reset or Sleep: its failure count stays, RETIRED stays, every other state is TESTING (R335, R337). -/
def warmBank (k : Bank) : Bank :=
  { state := if k.state = .retired then .retired else .testing, failures := k.failures, lastRct := k.lastRct, lastApt := k.lastApt }

/-- The fields that Sleep keeps: identity keys and certificate, configuration, image digests, island voltages and the tamper
flag, with what lies outside the device's rails: flash, fuses, the pins and the model's own records (R422). Commands in flight
and everything in HBM are gone. -/
def enterSleep (s : State) : State :=
  let z := State.reset
  freshHbm (freshCaravans { z with
    pending := s.pending, outputs := s.outputs, freeCount := s.freeCount, flash := s.flash, rel := s.rel
    keeper := { s.keeper with counter := 0, ceiling := 0, pendingEk := [], pf0 := {}, pf1 := {} }
    hub := { s.hub with recState := 0, recI3c := false, recImage := [], recBuf := [], recI3cData := [] }
    pins := { s.pins with alert := false }
    i3c := s.i3c
    islands := { z.islands with volts := s.islands.volts, recorded := s.islands.recorded, parked := islandMask (List.range 35 ++ [36, 37, 39]),
                                retention := BitVec.allOnes 120 }
    cmd := { z.cmd with
      port0 := { s.cmd.port0 with autoFailover := true, lock := false, d3hot := false }
      port1 := { s.cmd.port1 with autoFailover := true, lock := false, d3hot := false } }
    entropy := { z.entropy with banks := s.entropy.banks.map (fun e => (e.1, warmBank e.2)) }
    power := { z.power with state := .sleep, throttled := s.power.throttled } })

/-- PWR.CTRL.sleep is written 1 (R422, R423): Sleep while no partition exists; otherwise the write is ignored with
sleep_refused. -/
def sleepWrite (s : State) : State :=
  if s.pins.thermtrip ∨ s.power.state = .sleep ∨ s.hub.bootState ≠ 3 then s
  else if s.parts.any (fun e => decide (e.2.phase ≠ .absent)) then setPwrError s 8
  else enterSleep s

/-- PWR_SLEEP (R422, R423). -/
def execPwrSleep (s : State) : Host.Outcome State Fault Refusal := .next (sleepWrite s)

-- ------------------------------------------------------------------ the thermal trip (R430)

/-- THERMAL_TRIP (R430, R442): THERMTRIP# is asserted, every voltage island is held at retention, and every clocked island but
the tamper monitor and the I3C target is parked, until a cold boot. -/
def execThermalTrip (s : State) : Host.Outcome State Fault Refusal :=
  .next (
    if s.pins.pwrgood = false then s
    else realert { s with
      pins := { s.pins with thermtrip := true }
      islands := { s.islands with retention := BitVec.allOnes 120, parked := ~~~islandMask [35, 38] } })

-- ------------------------------------------------------------------ duty (R427 to R429, R432)

/-- The power limits of the seven rails in watts: VIN_A0, VIN_A1, VIN_H, VHBM, VSER, VAON, VIO (R428). -/
def railLimits : List Nat := [330, 330, 110, 190, 60, 2, 2]

/-- The rails that feed a die: its own input and the HBM rails (R427, R428; DEDUCED, assumption 54). -/
def dieRails (die : Nat) : List Nat := [die, 3]

/-- PWR.LIMIT as it acts: 300 to 920 W (R433). -/
def limitInForce (s : State) : Nat := max 300 (min 920 s.power.limit.toNat)

/-- Is the package or a rail of the die above its limit (R429)? -/
def overPower (s : State) (r : DutyReadings) (die : Nat) : Bool :=
  decide (limitInForce s < r.package) || (dieRails die).any (fun i => decide (railLimits.getD i 0 < r.rails.getD i 0))

/-- Is everything below 95 % of its limit, and the junction below 97 C (R429)? -/
def calmDie (s : State) (r : DutyReadings) (die : Nat) : Bool :=
  decide (100 * r.package < 95 * limitInForce s)
    && (dieRails die).all (fun i => decide (100 * r.rails.getD i 0 < 95 * railLimits.getD i 0))
    && decide (r.temps.getD die 0 < 97)

/-- The next duty and run of calm evaluations of a die (R429): a lowering by 1/16 for any of the first two conditions, at most
4/16 from 105 C, and a raise by 1/16 after 100 calm evaluations, which is 1 ms. -/
def nextDuty (d calm : Nat) (power : Bool) (t : Int) (isCalm : Bool) : Nat × Nat :=
  let d1 := if power || decide (100 ≤ t) then max 1 (d - 1) else d
  let d2 := if 105 ≤ t then min d1 4 else d1
  if isCalm then (if 100 ≤ calm + 1 then (min 16 (d2 + 1), 0) else (d2, calm + 1)) else (d2, 0)

/-- The error bits of an evaluation of one die (R433): d fell for power, d fell for temperature. -/
def dutyErrors (d d' : Nat) (power : Bool) (t : Int) : BitVec 4 :=
  if d' < d then (if power then 1 else 0) ||| (if 100 ≤ t then 2 else 0) else 0

/-- DUTY_EVALUATION (R361, R428, R429, R432, R433): one evaluation of 10 us, while the power manager's clock runs: both duties, the temperature and power registers, the
error bits, the throttled time and ALERT#. -/
def execDutyEvaluation (r : DutyReadings) (s : State) : Host.Outcome State Fault Refusal :=
  .next (
    if s.pins.pwrgood = false ∨ s.power.state = .sleep ∨ clockStopped s 37 then s
    else
      let t := fun (i : Nat) => r.temps.getD i 0
      let a := nextDuty s.power.duty0 s.power.calm0 (overPower s r 0) (t 0) (calmDie s r 0)
      let b := nextDuty s.power.duty1 s.power.calm1 (overPower s r 1) (t 1) (calmDie s r 1)
      let hot := r.temps.any (fun x => decide (105 ≤ x))
      let errs := dutyErrors s.power.duty0 a.1 (overPower s r 0) (t 0) ||| dutyErrors s.power.duty1 b.1 (overPower s r 1) (t 1)
        ||| (if hot then 4 else 0)
      setPwrError { s with power := { s.power with
        duty0 := a.1, calm0 := a.2, duty1 := b.1, calm1 := b.2
        temp0 := BitVec.ofInt 8 (t 0), temp1 := BitVec.ofInt 8 (t 1), tempH := BitVec.ofInt 8 (t 2), power := min 1023 r.package
        throttled := if a.1 < 16 ∨ b.1 < 16 then min (2 ^ 64 * 100 - 1) (s.power.throttled + 1) else s.power.throttled } } errs)

end Sys2Proof.Machine
end

