-- ==== Sys2Proof/Machine/Boot.lean ====
section
/-! DEFINITION. Cold and warm boot, resets, recovery, group restarts and wakes (R73, R74, R289, R310, R337, R342, R384, R414 to
R424). -/

namespace Sys2Proof.Machine

-- ------------------------------------------------------------------ the boot checks (R414, R415)

/-- Boot stops at a check: the cause, the group of causes 2 and 3, and where the device goes: 1 recovery, 5 boot hold. -/
def bootStop (s : State) (cause group bootState : Nat) : State :=
  { s with hub := { s.hub with bootState := bootState, cause := cause, causeGroup := group } }

/-- The version that two bridge ends agree, when their ranges meet (R32). -/
def bridgeVersion (a b : W32) : Option Nat :=
  let v := min (a.toNat / 2 ^ 24) (b.toNat / 2 ^ 24)
  if max (a.toNat / 2 ^ 16 % 256) (b.toNat / 2 ^ 16 % 256) ≤ v then some v else none

/-- Built-in self-test retires the units that fail (R374, R390). -/
def selfTest (s : State) (b : BootInputs) : State :=
  let s0 := { s with rel := { s.rel with
    stewards := s.rel.stewards ||| b.stewards, porters := s.rel.porters ||| b.porters, x25519 := s.rel.x25519 ||| b.x25519 } }
  let s1 := if b.stewards = 0 ∧ b.porters = 0 ∧ b.x25519 = 0 then s0 else setRelError s0 2
  ((List.range 48).filter (fun i => b.caravans.getLsbD i)).foldl retireCaravan s1

/-- HBM training: stacks that fail are marked unavailable, with cause 5, and boot continues; with HBM contents kept, what lay on such a stack
is lost as in operation (R384, R415). -/
def trainHbm (s : State) (b : BootInputs) (kept : Bool) : State :=
  let bad := (List.range 8).filter (fun k => b.badStacks.getLsbD k)
  let s1 := bad.foldl (if kept then failStack else markStack) s
  if bad = [] then s1 else { s1 with hub := { s1.hub with cause := 5 } }

/-- The device-level counter at a cold boot: the ceiling, or 0x8000_0000_0000_0000 with new copies when none can be read
(R269). The copies
are unsealed once the configuration block is in force, since the device-area key depends on it (R290). -/
def bootCounter (s : State) : State :=
  let s1 := match flashCeiling s with
    | some c => { s with keeper := { s.keeper with ceiling := BitVec.ofNat 64 c } }
    | none => writeCeiling s 0x8000000000000000
  { s1 with keeper := { s1.keeper with counter := s1.keeper.ceiling } }

/-- The configuration block at a boot: one of the two slots verifies. The block takes effect at a cold boot alone; through a warm one the
running configuration stands (R304, R306, R414). -/
def bootConfig (s : State) (cold : Bool) : Option State := (loadConfig s).map (fun s0 => if cold then s0 else s)

/-- Steps 2 to 4 of R414 on a device whose Keeper runs, and then booting (boot_state 2) until a port's data link is up; cold
says whether built-in self-test runs. With the configuration known the Keeper derives its first keys, which ends the start-up phase (R290,
R329). -/
def laterBoot (s : State) (b : BootInputs) (cold : Bool) : State :=
  match bootConfig s cold with
  | none => bootStop s 2 5 1
  | some s00 =>
    let s0 := { s00 with keeper := { s00.keeper with derived := true } }
    let s1 := rederiveXts (if cold then bootCounter s0 else s0)
    match loadGroups [1, 2, 3, 4] [0] s1 with
    | (s2, some g) => bootStop s2 3 g 1
    | (s2, none) =>
      let vs := b.bridges.map (fun e => bridgeVersion e.1 e.2)
      if vs.contains none then bootStop s2 4 0 5
      else
        let s3 := { s2 with
          hub := { s2.hub with bridgeVer := if vs = [] then s2.hub.bridgeVer else vs.map (fun v => v.getD 0) }
          rel := { s2.rel with bridgesUp := 7 &&& ~~~(s2.rel.diesDown.setWidth 3) &&& (if s2.rel.crossDown then 3 else 7) } }
        let s4 := trainHbm (if cold then selfTest s3 b else s3) b (!cold)
        if s4.rel.stewards = 0xFF && cold then bootStop s4 7 0 5
        else { s4 with hub := { s4.hub with bootState := 2 } }

/-- The sources that the tamper check finds asserted: one that has raised an alarm and has been asserted since raises none (R331). -/
def freshSources (s : State) (b : BootInputs) : List Nat := b.tamper.filter (fun c => !s.keeper.asserted.contains c)

/-- The rest of a boot after the tamper check: fuses, Keeper image; a Keeper that has failed stops here (R386, R415). -/
def keeperBoot (s : State) (b : BootInputs) (cold : Bool) : State :=
  if b.keeperFault || s.rel.keeperDown then bootStop s 7 0 5
  else match loadGroup s 0 [] with
    | none => bootStop s 1 0 1
    | some s1 => laterBoot s1 b cold

/-- Step 1 of R414 and the rest. Before the first key derivation since PWRGOOD an asserted source leads to tamper hold, and only a boot with
every source clear leaves it; after it, which is at a warm boot, an alarm is answered as in operation (R329, R331, R415). -/
def bootSteps (s : State) (b : BootInputs) (cold : Bool) : State :=
  let s1 := { s with keeper := { s.keeper with asserted := b.tamper } }
  match freshSources s b, b.tamper with
  | [], [] => keeperBoot s1 b cold
  | c :: _, _ => if s.keeper.derived then keeperBoot (operationAlarm s1 c) b cold else startupAlarm s1 c
  | [], c :: _ => if s.keeper.derived then keeperBoot s1 b cold else tamperHold s1 c

/-- Island voltages at a boot: the ageing record's, or 850 mV (R389). -/
def bootVolts (s : State) : Table Nat Nat :=
  match s.flash.ageing with
  | none => []
  | some l => (List.range l.length).map (fun i => (i, l.getD i 850))

-- ------------------------------------------------------------------ cold boot and power loss (R416, R440)

/-- Does a granule wait for a zero-fill that a tamper lock stopped, in this boot or an earlier one (R310)? -/
def leftUnfilled (s : State) (e : (Nat × Nat) × GranState) : Bool :=
  match e.2 with
  | .scrubbing p => s.keeper.locked || decide ((getPart s p).phase ≠ .scrubbing)
  | _ => false

/-- What survives a loss of power: flash, the OTP counter and the always-on tamper monitor, the PERST# pins as they stand, the failures that
last until the device is replaced, or that the next boot check finds (R386), and the model's own records. A tamper lock's unfilled granules stay to be filled (R310, R331, R411). -/
def powerOff (s : State) : State :=
  let z := State.reset
  { z with
    pending := s.pending, outputs := s.outputs, freeCount := s.freeCount, flash := s.flash
    hbm := { gran := s.hbm.gran.filter (leftUnfilled s) }
    keeper := { z.keeper with tamperCount := s.keeper.tamperCount, lastCause := s.keeper.lastCause, lastPhase := s.keeper.lastPhase
                              armed := s.keeper.armed, owedCount := s.keeper.owedCount, asserted := s.keeper.asserted }
    rel := { z.rel with diesDown := s.rel.diesDown, keeperDown := s.rel.keeperDown }
    cmd := { z.cmd with port0 := { z.cmd.port0 with perst := s.cmd.port0.perst }, port1 := { z.cmd.port1 with perst := s.cmd.port1.perst } } }

/-- POWER_LOSS (R416, R440): HBM and with it every partition is gone. -/
def execPowerLoss (s : State) : Host.Outcome State Fault Refusal := .next (powerOff s)

/-- The count that a power loss left to this boot (R331). -/
def payOwed (s : State) : State :=
  if s.keeper.owedCount then
    { s with keeper := { s.keeper with owedCount := false, tamperCount := min 1023 (s.keeper.tamperCount + 1) } } else s

/-- Link training begins on each port whose PERST# is deasserted, where the boot got that far: both ports, or P0 alone in
recovery and boot hold, none in tamper hold (R329, R414 step 5, R415, R421). -/
def trainPorts (s : State) : State :=
  let go := fun (q : Port) (x : PortState) =>
    { x with training := !x.perst && !x.linkUp && (decide (s.hub.bootState = 2 ∨ s.hub.bootState = 3)
      || (decide (q = .p0) && decide (s.hub.bootState = 1 ∨ s.hub.bootState = 5))) }
  { s with cmd := { s.cmd with port0 := go .p0 s.cmd.port0, port1 := go .p1 s.cmd.port1 } }

/-- The device when PWRGOOD has risen: nothing runs, the tamper monitor is armed, and the island voltages are the record's. -/
def poweredUp (s : State) : State :=
  let s1 := powerOff s
  payOwed { s1 with
    pins := { s1.pins with pwrgood := true }
    keeper := { s1.keeper with armed := true }
    islands := { s1.islands with volts := bootVolts s1, recorded := s1.flash.ageing } }

/-- A cold boot (R414). -/
def coldBoot (s : State) (b : BootInputs) : State := trainPorts (bootSteps (poweredUp s) b true)

/-- PWRGOOD_ASSERT (R414, R439): a cold boot; nothing while PWRGOOD is high already. -/
def execPwrgoodAssert (boot : BootInputs) (s : State) : Host.Outcome State Fault Refusal :=
  .next (if s.pins.pwrgood then s else coldBoot s boot)

-- ------------------------------------------------------------------ ports come up (R414 steps 5 to 7)

/-- PERST_DEASSERT (R414 step 5): the port's controller trains; PERST# is ignored while PWRGOOD is low (R440). -/
def execPerstDeassert (port : Port) (s : State) : Host.Outcome State Fault Refusal :=
  .next (
    let s1 := setPort s port { getPort s port with perst := false }
    if s.pins.pwrgood ∧ s.power.state ≠ .sleep ∧ s.pins.thermtrip = false ∧ (getPort s port).linkUp = false then trainPorts s1 else s1)

/-- Porush links that are down begin training (R395: after reset). -/
def trainLinks (s : State) : State :=
  (List.range 4).foldl (fun a l => if (getLink a l).up then a else setLink a l { getLink a l with training := true }) s

/-- A lane count or rate that the partner negotiated: a free value (R252, R283; assumption 55). -/
def negotiated (s : State) (l : List Nat) : Nat := l.getD ((Sys2Proof.Config.freeWord s.freeCount).toNat % l.length) 0

/-- DATA_LINK_UP (R252, R263, R414): the data link of a port is up in flit mode, with the rate, width and VC1 that its partner
negotiated; a device that was booting is ready, and its Porush links train (steps 6 and 7). -/
def execDataLinkUp (port : Port) (s : State) : Host.Outcome State Fault Refusal :=
  .next (
    if s.pins.pwrgood = false ∨ s.pins.thermtrip ∨ (getPort s port).perst ∨ s.hub.bootState = 4 ∨ s.hub.bootState = 0
        ∨ (port = .p1 ∧ (s.hub.bootState = 1 ∨ s.hub.bootState = 5)) ∨ (getPort s port).linkUp then s
    else
      let speed := negotiated s [1, 2, 3, 4, 5, 6]
      let width := negotiated (bumpFree s) [1, 2, 4, 8, 16]
      let vc1 := negotiated (bumpFree (bumpFree s)) [0, 1]
      let s1 := bumpFree (bumpFree (bumpFree s))
      let s2 := setPort s1 port { getPort s1 port with
        linkUp := true, flitMode := true, training := false, speed := BitVec.ofNat 4 speed, width := BitVec.ofNat 5 width
        vc1 := decide (vc1 = 1) }
      if s2.hub.bootState = 2 then trainLinks { s2 with hub := { s2.hub with bootState := 3 } } else s2)

-- ------------------------------------------------------------------ warm reset (R73, R74)

/-- The events that a partition posts for its round after a warm reset, once its serving CQ0 is enabled (R74). -/
def resumeEvents (s : State) (p : Nat) : State :=
  match getRound s p with
  | none => s
  | some r =>
    let s1 := stateEvent s p r.state
    match r.lodgedW with
    | none => s1
    | some w => lodgedEvent s1 p w

/-- A round after a warm reset: the journal space of envelopes that were not admitted is free, a tile's unmask starts again from its
committed bank, an apply cut short before STAGED is redone, and the image that is due starts again (R73, R161, R212, R222). -/
def warmRound (flights : Table CmdRef Flight) (r : Round) : Round :=
  { r with
    jUse0 := r.jUse0 - sumNat (flights.map (fun e => e.2.jour0))
    jUse1 := r.jUse1 - sumNat (flights.map (fun e => e.2.jour1))
    tiles := Table.mapVals r.tiles (fun _ x =>
      let y := redoUnmask x
      if y.applyRec = .untouched then { y with staging := none } else y)
    finish := { r.finish with sealed := [] } }

/-- A partition after a warm reset: what lay in cells and in caravan SRAM is gone, ciphertexts being refreshed keep their
inputs, and DRAINING keys that no round uses are destroyed (R73, R74, R289, R301). Handles of private copies are those from
2^32 up. -/
def warmPartition (s : State) (p : Nat) : State :=
  let x := discardRefreshes (getPart s p)
  let y := { x with
    cellsUsed := 0, quiesced := false, held := false, keeperHold := false, flights := [], plains := [], opening := none, saved := []
    events := [], round := x.round.map (warmRound x.flights) }
  let s1 := setPart s p y
  resumeEvents (setPart s1 p { y with drains := y.drains.filter (drainInUse s1 p) }) p

/-- The scrub of a partition that a warm reset cut: steps 1 to 5 again under a fresh epoch, and the zero-fill from its first
granule (R310). -/
def warmScrub (s : State) (p : Nat) : State := eraseOp (setPart s p { getPart s p with events := [], cellsUsed := 0 }) p

/-- A port through a warm reset: the link is down, lock bit and RWL field stay (R15, R416). -/
def warmPort (x : PortState) : PortState :=
  { autoFailover := x.autoFailover, lock := x.lock, perst := x.perst }

/-- A Porush link through a warm reset: down, to be trained; the count since cold boot and the failed lanes stay (R395,
R410). -/
def warmLink (k : Link) : Link := { failed := k.failed, replays := k.replays }

/-- Every live key of a round returns to the stage slots that it held: the journal key, K_noise and the image keys. What slots of envelope
keys held is gone with the envelopes (R53, R73, R289). -/
def returnKeys (s old : State) : State :=
  { s with caravans := old.caravans.foldl (fun t e =>
      let keep := e.2.slots.filter (fun k => decide (k.1.1 ≠ .opens ∨ k.1.2.2 = 0))
      if keep = [] then t else Table.put t e.1 { Table.getD t e.1 {} with slots := keep }) s.caravans }

/-- The device as a warm reset leaves it, before its boot (R15, R18, R73, R289, R312, R323, R337, R342, R366, R390). -/
def warmState (s : State) : State :=
  let s0 := { s with
    cmd := { port0 := warmPort s.cmd.port0, port1 := warmPort s.cmd.port1 }
    keeper := { s.keeper with pendingEk := [] }
    entropy := { banks := s.entropy.banks.map (fun e => (e.1, warmBank e.2)), strict := s.entropy.strict, lock := s.entropy.lock
                 lastDraw := s.entropy.lastDraw }
    rel := { s.rel with containing := false, error := 0, errorMask := 0 }
    islands := { s.islands with seen := 0, stalled := 0, parked := 0, retention := 0 }
    crossings := []
    power := { limit := s.power.limit, lock := s.power.lock, throttled := s.power.throttled
               temp0 := s.power.temp0, temp1 := s.power.temp1, tempH := s.power.tempH, power := s.power.power }
    porush := { s.porush with links := s.porush.links.map (fun e => (e.1, warmLink e.2)) }
    hub := { s.hub with warm := true, cause := 0, causeGroup := 0, restartBusy := false, recState := 0, recI3c := false
                        recImage := [], recBuf := [], recI3cData := [] } }
  let s1 := returnKeys (freshCaravans s0) s
  let ps := Table.keys s.parts
  let s2 := (ps.filter (fun p => decide ((getPart s p).phase = .scrubbing))).foldl warmScrub s1
  realert ((ps.filter (fun p => decide ((getPart s p).phase = .live))).foldl warmPartition s2)

/-- Does the device take a warm reset: powered, not asleep, not tripped, not in tamper hold (R329, R416, R430, R431)? -/
def takesReset (s : State) : Bool :=
  s.pins.pwrgood && decide (s.power.state ≠ .sleep) && !s.pins.thermtrip && decide (s.hub.bootState ≠ 4)

/-- A warm reset and its boot (R416): as a cold boot, but HBM is kept and built-in self-test skipped. -/
def warmReset (s : State) (b : BootInputs) : State := trainPorts (bootSteps (warmState s) b false)

/-- The key of R416. -/
def resetKey : W32 := 0x5741524D

/-- A write of a reset register (R416): any other value is ignored. -/
def resetWrite (s : State) (v : W32) (b : BootInputs) : State := if v = resetKey ∧ takesReset s then warmReset s b else s

/-- HUB_RESET (R416). -/
def execHubReset (v : W32) (boot : BootInputs) (s : State) : Host.Outcome State Fault Refusal := .next (resetWrite s v boot)

/-- I3C_RESET (R416). -/
def execI3cReset (v : W32) (boot : BootInputs) (s : State) : Host.Outcome State Fault Refusal := .next (resetWrite s v boot)

-- ------------------------------------------------------------------ group restart (R419)

/-- A group restart under rolling: the newer slot when it verifies and is compatible with every running group; otherwise the
group keeps its image and stage_failed is set. -/
def restartGroup (s : State) (g : Nat) : State :=
  let b := firstSlot s g
  let x := getFw s g
  if b = x.slot then s
  else
    let i := parseImage (flashSlot s g b)
    let others := [0, 1, 2, 3, 4].filter (fun h => decide (h ≠ g))
    if imageVerifies g (flashSlot s g b) && others.all (fun h => compatible g i h (getFw s h)) then takeImage s g b false
    else setFw s g { x with stageFailed := true }

/-- GROUP_RESTART (R419): a write for group 0 or 5, or under reload-all, is ignored. A restart is one step, so restart_busy
reads 0 between steps. -/
def execGroupRestart (v : W32) (s : State) : Host.Outcome State Fault Refusal :=
  let g := v.toNat % 8
  .next (if s.hub.rolling = false ∨ s.hub.bootState ≠ 3 ∨ g = 0 ∨ 4 < g then s else restartGroup s g)

-- ------------------------------------------------------------------ recovery (R421)

/-- The transfer has failed and starts again at offset 0. -/
def recoveryFails (s : State) (i3c : Bool) : State :=
  { s with hub := { s.hub with recState := 3, recI3c := i3c, recImage := [] } }

/-- Does the received image verify for its group (R412, R413)? -/
def recoveryOk (g : Nat) (bs : Bytes) : Bool := if g = 5 then configVerifies bs else imageVerifies g bs

/-- One chunk of a recovery transfer (R421): the group that recovery asks for, ascending without gaps; after the last chunk the
image goes to both slots, and the device boots as from cold. -/
def recoveryChunk (s : State) (v : W64) (data : Bytes) (i3c : Bool) (b : BootInputs) : State :=
  let off := bits v.toNat 0 32
  let len := bits v.toNat 32 17
  let g := bits v.toNat 49 3
  if s.hub.bootState ≠ 1 then s
  else if (s.hub.recState = 1 ∨ s.hub.recState = 3) ∧ s.hub.recI3c ≠ i3c then s
  else if len = 0 ∨ 65536 < len ∨ g ≠ s.hub.causeGroup ∨ off ≠ s.hub.recImage.length then recoveryFails s i3c
  else
    let img := s.hub.recImage ++ padTo len data
    if bitAt v.toNat 52 = false then
      { s with hub := { s.hub with recState := 1, recI3c := i3c, recImage := img, recGroup := g } }
    else if recoveryOk g img then
      coldBoot (setFlashSlot (setFlashSlot { s with hub := { s.hub with recState := 2 } } g false img) g true img) b
    else recoveryFails s i3c

/-- RECOVERY_CTRL (R421): the chunk is in HUB.RECOVERY_BUF. -/
def execRecoveryCtrl (v : W64) (boot : BootInputs) (s : State) : Host.Outcome State Fault Refusal :=
  .next (recoveryChunk s v (Memory.reads s.hub.recBuf 0 (bits v.toNat 32 17)) false boot)

/-- I3C_RECOVERY_CTRL (R421, R431): the chunk came through RECOVERY_DATA. -/
def execI3cRecoveryCtrl (v : W64) (boot : BootInputs) (s : State) : Host.Outcome State Fault Refusal :=
  .next (
    if s.power.state = .sleep ∨ s.hub.bootState = 4 then s
    else recoveryChunk { s with hub := { s.hub with recI3cData := [] } } v (s.hub.recI3cData.take (bits v.toNat 32 17)) true boot)

/-- I3C_RECOVERY_DATA (R421, R431): 256 bytes for the next chunk, up to 64 KiB; not served in Sleep and in tamper hold. -/
def execI3cRecoveryData (data : Bytes) (s : State) : Host.Outcome State Fault Refusal :=
  .next (
    if s.power.state = .sleep ∨ s.hub.bootState ≠ 1 then s
    else { s with hub := { s.hub with recI3cData := (s.hub.recI3cData ++ padTo 256 data).take 65536 } })

-- ------------------------------------------------------------------ wakes (R424)

/-- Does the slot that a group ran before still hold the image whose digest Sleep kept (R424)? -/
def sameImage (s : State) (g : Nat) : Bool :=
  decide ((parseImage (flashSlot s g (getFw s g).slot)).digest = (getFw s g).digest)

/-- The images that run, put into the device area again (R21, R424). -/
def reloadImages (s : State) : State :=
  { s with hbm := { s.hbm with images := [0, 1, 2, 3, 4].map (fun g => (g, flashSlot s g (getFw s g).slot)) } }

/-- A wake from Sleep (R424): the images that ran before when their digests agree, HBM trained; otherwise a cold boot. The
device-level counter never goes back, so it returns as at a cold boot (R269; DEDUCED, assumption 56). -/
def wake (s : State) (b : BootInputs) : State :=
  if s.power.state ≠ .sleep then s
  else if s.keeper.retentionLost || !([0, 1, 2, 3, 4, 5].all (sameImage s)) then coldBoot s b
  else
    let s1 := rederiveXts (bootCounter (trainHbm s b false))
    trainLinks { reloadImages s1 with
      power := { s1.power with state := .d0 }
      islands := { s1.islands with parked := 0, retention := 0 } }

/-- SLEEP_WAKE (R424): a TLP to a PF or a link exit from L1. -/
def execSleepWake (boot : BootInputs) (s : State) : Host.Outcome State Fault Refusal := .next (wake s boot)

/-- I3C_WAKE (R424, R431): any value written to WAKE. -/
def execI3cWake (boot : BootInputs) (s : State) : Host.Outcome State Fault Refusal := .next (wake s boot)

end Sys2Proof.Machine
end

