-- ==== Sys2Proof/Machine/Falnyx.lean ====
section
/-! DEFINITION. The Falnyx instructions: issue, the Sequencer's own, the shadow port, the SWEEP and its checks, the markers, KSW and
REFRESH, the drain's acknowledgement and the swap at LEDGER (R223 to R246). -/

namespace Sys2Proof.Machine

-- ------------------------------------------------------------------ issue

/-- The words of a work's itinerary (R225). -/
def programOf (x : Partition) (w : Work) : List W64 :=
  match (workSet x w).bind (fun t => t.itins.find? (fun i => decide (i.1 = w.role))) with
  | none => []
  | some i => i.2.2

/-- Does an instruction arm a stage of the back chain? -/
def usesBack (op : Nat) : Bool := decide (0x60 ≤ op ∧ op ≤ 0x91)

/-- Does an instruction move lines of HBM: a SWEEP, a load of seeds, the shadow port, the library? -/
def usesHbm (op : Nat) : Bool := decide (op = 0x11 ∨ op = 0x30 ∨ op = 0x52 ∨ op = 0x53 ∨ op = 0xA0 ∨ op = 0xA1)

/-- Does the back chain work for an instruction: it arms a stage there, or it is a SWEEP with such a stage armed (R82, R84, R85)? -/
def worksBack (s : State) (cv op : Nat) : Bool := usesBack op || (decide (op = 0x11) && (getCv s cv).work.any (fun w => backArmed w.chain))

/-- Can the stages that an instruction uses, and the HBM controllers that it reaches, take it? Until they can, it waits within its step
(R84, R361). -/
def stagesUp (s : State) (cv op : Nat) : Bool :=
  islandUp s (frontIsland cv) && (!worksBack s cv op || islandUp s (backIsland cv)) && (!usesHbm op || hbmRuns s (dieOf cv))

/-- Does the word at the program counter spell the instruction, and may the Sequencer issue: a step runs, its budgets last, no library
routine runs, the work neither ended nor stopped, and the stages are at operating voltage (R84, R226, R227, R236, R245)? -/
def issues (s : State) (cv op : Nat) (f : FWord) (w : Work) : Bool :=
  let c := getCv s cv
  stagesUp s cv op && c.stepping && !w.stopped && w.ending.isNone && w.library.isNone && decide (c.issued < 15000 ∧ 0 < c.entryLeft)
    && decide ((programOf (getPart s w.part) w)[w.regs.pc.toNat]? = some (wordOf op f))

/-- The work after issue: the program counter at the next instruction (R223). -/
def advance (w : Work) : Work := { w with regs := { w.regs with pc := w.regs.pc + 1 } }

/-- Issue one instruction: it counts within the step and its page is filled (R224, R226); then its effect. An instruction that is not
ready waits and issues later. -/
def issue (s : State) (cv op : Nat) (f : FWord) (ready : Work → Round → Bool) (k : State → Work → Round → State) : State :=
  let c := getCv s cv
  match c.work with
  | none => s
  | some w =>
    match getRound s w.part with
    | none => s
    | some r =>
      if issues s cv op f w && ready w r then
        let w1 := advance w
        k (setCv s cv { c with
          issued := c.issued + 1
          pages := c.pages ||| ((1 : BitVec 16) <<< (w.regs.pc.toNat / 256))
          work := some w1 }) w1 r
      else s

/-- No condition. -/
def atOnce (_ : Work) (_ : Round) : Bool := true

/-- A Sequencer instruction on the registers alone (R236). -/
def seqOp (s : State) (cv op : Nat) (f : FWord) (k : SeqRegs → SeqRegs) : State :=
  issue s cv op f atOnce (fun a w _ => setWork a cv { w with regs := k w.regs })

/-- NOP. -/
def execNop (cv : Nat) (w : FWord) (s : State) : Host.Outcome State Fault Refusal := .next (seqOp s cv 0x00 w (fun r => r))

/-- SET: the sign-extended immediate, or the upper half (R244). -/
def execSet (cv : Nat) (w : FWord) (s : State) : Host.Outcome State Fault Refusal :=
  .next (seqOp s cv 0x01 w (fun r => setX r w.dst
    (if w.modif.getLsbD 0 then (w.imm ++ (getX r w.dst).setWidth 32) else sextImm w)))

/-- ADDX (R244). -/
def execAddx (cv : Nat) (w : FWord) (s : State) : Host.Outcome State Fault Refusal :=
  .next (seqOp s cv 0x02 w (fun r => setX r w.dst (getX r w.srcA + operandB r w)))

/-- SUBX (R244). -/
def execSubx (cv : Nat) (w : FWord) (s : State) : Host.Outcome State Fault Refusal :=
  .next (seqOp s cv 0x03 w (fun r => setX r w.dst (getX r w.srcA - operandB r w)))

/-- MULX: the low 64 bits (R244). -/
def execMulx (cv : Nat) (w : FWord) (s : State) : Host.Outcome State Fault Refusal :=
  .next (seqOp s cv 0x04 w (fun r => setX r w.dst (getX r w.srcA * operandB r w)))

/-- MINX: the unsigned minimum (R244). -/
def execMinx (cv : Nat) (w : FWord) (s : State) : Host.Outcome State Fault Refusal :=
  .next (seqOp s cv 0x05 w (fun r => setX r w.dst
    (if (getX r w.srcA).toNat ≤ (operandB r w).toNat then getX r w.srcA else operandB r w)))

/-- SHX: by b[5:0], left, or logically right under modifier bit 1 (R244). -/
def execShx (cv : Nat) (w : FWord) (s : State) : Host.Outcome State Fault Refusal :=
  .next (seqOp s cv 0x06 w (fun r => setX r w.dst
    (let n := (operandB r w).toNat % 64
     if w.modif.getLsbD 1 then getX r w.srcA >>> n else getX r w.srcA <<< n)))

/-- ANDX (R244). -/
def execAndx (cv : Nat) (w : FWord) (s : State) : Host.Outcome State Fault Refusal :=
  .next (seqOp s cv 0x07 w (fun r => setX r w.dst (getX r w.srcA &&& operandB r w)))

/-- CMP: Qd := Xa cond b (R244). -/
def execCmp (cv : Nat) (w : FWord) (s : State) : Host.Outcome State Fault Refusal :=
  .next (seqOp s cv 0x08 w (fun r => setQ r w.dst.toNat
    (cmpCond (w.modif.toNat / 2) (getX r w.srcA) (operandB r w))))

/-- BR: the program counter := target when the predicate, inverted or not, is 1 (R244). -/
def execBr (cv : Nat) (w : FWord) (s : State) : Host.Outcome State Fault Refusal :=
  .next (seqOp s cv 0x09 w (fun r => if brTaken r w.srcA then { r with pc := w.imm.setWidth 12 } else r))

/-- END: from now on the work waits for what it has issued (R227); WORK_END_COMPLETE ends it. A yield request is void (R246). -/
def execEndWork (cv : Nat) (w : FWord) (s : State) : Host.Outcome State Fault Refusal :=
  .next (issue s cv 0x0A w atOnce (fun a k _ => setWork a cv { k with ending := some (getX k.regs w.srcA) }))

/-- STEP, modifier 0: the step ends; a chained step only when every ring of the chain is empty and stays so (R103, R226, R227). -/
def execStep (cv : Nat) (w : FWord) (s : State) : Host.Outcome State Fault Refusal :=
  .next (if w.modif = 0 then issue s cv 0x0B w (fun k _ => chainStill s cv k) (fun a _ _ => endStep a cv) else s)

/-- STEP.yield: the predicate says whether the Steward asks for a yield (R227). -/
def execStepYield (cv : Nat) (w : FWord) (s : State) : Host.Outcome State Fault Refusal :=
  .next (if w.modif = 1 then
    issue s cv 0x0B w atOnce (fun a k _ => setWork a cv { k with regs := setQ k.regs w.dst.toNat k.yieldAsk })
  else s)

/-- SDESC: Sd := a descriptor template of the set (R244, R247). -/
def execSdesc (cv : Nat) (w : FWord) (s : State) : Host.Outcome State Fault Refusal :=
  .next (issue s cv 0x0C w atOnce (fun a k _ =>
    setWork a cv { k with regs := setS k.regs w.dst (templateOf (getPart a k.part) k w.imm.toNat) }))

/-- SSET: one field of Sd := Xa, truncated to the field's width (R244). -/
def execSset (cv : Nat) (w : FWord) (s : State) : Host.Outcome State Fault Refusal :=
  .next (seqOp s cv 0x0D w (fun r =>
    let g := ssetField w.modif.toNat
    setS r w.dst (putDescBits (getS r w.dst) g.1 g.2 (getX r w.srcA).toNat)))

/-- LSET: Ln.tile := Xa[31:0], Ln.source := Xb[0] (R244). -/
def execLset (cv : Nat) (w : FWord) (s : State) : Host.Outcome State Fault Refusal :=
  .next (seqOp s cv 0x0E w (fun r =>
    setL r w.dst (BitVec.ofNat 64 ((getX r w.srcA).toNat % 2 ^ 32 + 2 ^ 32 * bn ((getX r w.srcB).getLsbD 0)))))

/-- Size of the ring that a LINK names, in units of 64 KiB; 0 means 16 (R244; DEDUCED, assumption 90). -/
def linkUnits (f : FWord) : Nat := if bits f.imm.toNat 8 4 = 0 then 16 else bits f.imm.toNat 8 4

/-- A work that has joined its chain (R244). -/
def linkedAs (k : Work) (f : FWord) : Work :=
  { k with chained := some (f.imm.toNat % 4), linked := true, ringUnits := linkUnits f }

/-- LINK: joins the chain at a position with a ring of the size named; it waits while the rings would exceed the larder's region (R104).
MALFORMED in a work that was not started as chained, or after its first SWEEP (R102, R244). -/
def execLink (cv : Nat) (w : FWord) (s : State) : Host.Outcome State Fault Refusal :=
  .next (issue s cv 0x10 w
    (fun k _ => decide (k.chained.isNone ∨ ringUnitsOn (setWork s cv (linkedAs k w)) (dieOf cv) ≤ 240))
    (fun a k _ =>
      if k.chained.isNone ∨ k.swept then raise a cv .malformed
      else setWork a cv (linkedAs k w)))

-- ------------------------------------------------------------------ the shadow port (R240)

/-- Shadow-port operations not yet complete: queued, a drain that runs, a load in progress (R238). -/
def shadowCount (w : Work) : Nat := w.shadowQ.length + bn w.draining.isSome + bn (decide ((shadowSet w).state = .loading))

/-- Queue a shadow-port operation (R236, R237), for a routed save once the back chain that it passes is up (R84); its stages are checked as a
SWEEP's are (R230, R241). -/
def shadowOp (s : State) (cv op : Nat) (f : FWord) (isLoad routed : Bool) : State :=
  issue s cv op f (fun w _ => decide (shadowCount w < 4) && (!routed || backReady s cv w.chain)) (fun a w r =>
    let l := getL w.regs f.srcA
    let o : ShadowOp := ⟨isLoad, handleTile l, handleSource l, routed, w.swapsIssued, w.chain⟩
    match (if routed then routedFault (envOf a cv w r) (routedChain w.chain) else none) with
    | some st => raise a cv st
    | none => pumpShadow (setWork a cv { w with shadowQ := w.shadowQ ++ [o], loadSince := w.loadSince || isLoad }) cv)

/-- LEDG.LOAD (R240). -/
def execLedgLoad (cv : Nat) (w : FWord) (s : State) : Host.Outcome State Fault Refusal :=
  .next (shadowOp s cv 0x53 w true false)

/-- LEDG.SAVE (R240, R244). -/
def execLedgSave (cv : Nat) (w : FWord) (s : State) : Host.Outcome State Fault Refusal :=
  .next (shadowOp s cv 0x52 w false (w.modif.getLsbD 0))

/-- LEDG.SWAP: the marker enters the chain; MALFORMED without a LEDG.LOAD since the last swap, unless it is final (R240, R244). -/
def execLedgSwap (cv : Nat) (w : FWord) (s : State) : Host.Outcome State Fault Refusal :=
  .next (issue s cv 0x51 w atOnce (fun a k _ =>
    let final := w.modif.getLsbD 0
    if final = false ∧ k.loadSince = false then raise a cv .malformed
    else setWork a cv { k with flow := k.flow ++ [.swap final], swapsIssued := k.swapsIssued + 1, loadSince := false }))

/-- SWAP_AT_LEDGER (R93, R240): the sets exchange, once the shadow set has finished its load; what stands behind the marker runs, and the
shadow port goes on. -/
def execSwapAtLedger (cv : Nat) (s : State) : Host.Outcome State Fault Refusal :=
  .next (match (getCv s cv).work with
    | none => s
    | some w =>
      let w1 := settleLoad w
      match w1.flow with
      | .swap final :: rest =>
        if w.stopped = false ∧ swapReady w1 final = true then
          pumpShadow (pumpFlow (setWork s cv (exchange w1 rest)) cv) cv
        else s
      | _ => s)

/-- The uncommitted bank of a copy is written, and nothing else (R120, R159). -/
def writeSpare (c : TileCopy) (data : List Nat) : TileCopy :=
  if c.bank then { c with bank0 := data, old0 := false } else { c with bank1 := data, old1 := false }

/-- A copy after a drain of a work: role SWEEP commits the batch for a tile of its call that lacks it, role UPDATE the finished tile of its
call; other drains only write the bank (R66, R120, R228, R249). -/
def savedCopy (w : Work) (t : Nat) (c : TileCopy) (data : List Nat) : TileCopy :=
  if w.role = 0 ∧ c.watermark < w.batchW ∧ (runTiles w.args).contains t = true then
    { c.commit data with watermark := w.batchW, batch := w.batchNo, phase := .accumulating }
  else if w.role = 2 ∧ argNat w.args 0 = t then { c.commit data with phase := .finished }
  else writeSpare c data

/-- Must the drain of a tile wait for the mirror copy of a checkpoint (R92)? -/
def mirrorWaits (w : Work) (r : Round) (t : Nat) : Bool :=
  decide (w.role = 0) && r.ckpt.any (fun k => decide (k.w < w.batchW) && !k.mirrored.contains t)

/-- LEDG_SAVE_ACK (R92, R120, R228, R249, R380): the drain's last line is acknowledged; what the work's role commits is committed, unless the
round is lost, and the set is EMPTY. -/
def execLedgSaveAck (cv : Nat) (s : State) : Host.Outcome State Fault Refusal :=
  .next (match (getCv s cv).work with
    | none => s
    | some w =>
      match getRound s w.part, w.draining with
      | some r, some (t, data) =>
        if w.stopped ∨ r.state = .aborted ∨ mirrorWaits w r t then s
        else
          let x := getTile r t
          let r1 := setTile r t { x with prim := if r.lost then writeSpare x.prim data else savedCopy w t x.prim data }
          let w1 := { putShadow w {} with draining := none, savedTiles := w.savedTiles ++ [t] }
          let s1 := pumpShadow (setWork (setRound s w.part r1) cv w1) cv
          if w.role = 0 ∧ r.desc.mode = 1 then sendSums s1 w.part else s1
      | _, _ => s)

-- ------------------------------------------------------------------ SWEEP

/-- First check of R241. -/
def checkForms (c : Chain) (d : StreamDesc) (dst : Option StreamDesc) (count : Nat) : Bool :=
  sourceOk d && dst.all destOk && stageForms c
    && decide (descSpace d ≠ 1 ∨ count = 0) && (decide (descSpace d ≠ 1) || opensJournal c)
    && (!opensJournal c || decide (descSpace d = 1))

/-- Second check of R241, the extents; what LEDGER takes fits in a set (R116). -/
def checkExtents (e : Env) (c : Chain) (d : StreamDesc) (dst : Option StreamDesc) (count b : Nat) : Bool :=
  sourceInside e (proofOf e.x e.r) d b && dst.all (destInside e) && stageExtents e c
    && (c.ledger.isNone || decide ((if descSpace d = 1 then descWindow d else sweepLen d count) * laneBits d ≤ 8 * 2097152))

/-- Second check of R241, the access: no read of a host buffer, none written but through SEAL, no write of a read-only space, WEIGHTS only
by FIN.APPLY (R1, R39, R230). -/
def checkAccess (x : Partition) (c : Chain) (d : StreamDesc) (dst : Option StreamDesc) : Bool :=
  decide (descSpace d ≠ 8) && dst.all (writable x c.sealS.isSome) && stageAccess x c

/-- The checks of R241 in order: the first that fails. -/
def sweepFault (e : Env) (c : Chain) (d : StreamDesc) (dst : Option StreamDesc) (count : Nat) : Option Status :=
  if checkForms c d dst count = false then some .malformed
  else if checkAccess e.x c d dst = false then some .policyDenied
  else if checkExtents e c d dst count (sweepBits e c d) = false then some .range
  else if (combUses c 2 != accumulates c) || (combToLedger c != accumulates c)
      || (c.ledger.isSome && decide (comingActive e.w ≠ .held)) then some .malformed
  else if usesBusB c && c.ks.isNone && decide (broadcasts c = []) then some .malformed
  else if domainsOk e.x e.r.desc c (descFormat d) (descLimb d) = false then some .malformed
  else if needsExit c != dst.isSome then some .malformed
  else none

/-- SWEEPs in the chain that have not left it (R238). -/
def sweepsOut (w : Work) : Nat :=
  (w.flow.filter (fun i => match i with
    | .sweep _ _ _ _ _ _ => true
    | _ => false)).length

/-- SWEEP (R241, R244): at most eight are outstanding (R238); the checks; then the stream enters the chain behind what has issued, with
the stages armed now. -/
def execSweep (cv : Nat) (w : FWord) (s : State) : Host.Outcome State Fault Refusal :=
  .next (issue s cv 0x11 w (fun k _ => decide (sweepsOut k < 8)) (fun a k r =>
    let d := getS k.regs w.srcA
    let dst := if w.modif.getLsbD 0 then some (getS k.regs w.dst) else none
    let n := w.imm.toNat
    match sweepFault (envOf a cv k r) k.chain d dst n with
    | some st => raise a cv st
    | none => pumpFlow (setWork a cv { k with flow := k.flow ++ [.sweep k.chain d dst n 0 []], swept := true }) cv))

/-- WAIT (R239, R244): it issues when what it waits for has come. -/
def waitReady (m : Nat) (w : Work) : Bool :=
  if m = 0 then decide (sweepsOut w = 0 ∧ w.exitQ = [])
  else if m = 1 then decide (w.shadowQ = []) && w.draining.isNone
  else if m = 2 then decide (w.loadQ = []) && !(w.flow.any (fun i => match i with
    | .load _ => true
    | _ => false))
  else decide (w.ring = [] ∧ w.exitQ = [])

/-- WAIT; with modifier 0 the writes of every SWEEP are acknowledged and ordered, with modifier 1 those of every LEDG.SAVE. -/
def execWait (cv : Nat) (w : FWord) (s : State) : Host.Outcome State Fault Refusal :=
  .next (issue s cv 0x12 w (fun k _ => waitReady w.modif.toNat k) (fun a k _ =>
    setWork a cv (if w.modif = 0 then { k with unordered := k.unordered.filter (fun u => u.1) }
      else if w.modif = 1 then settleLoad { k with unordered := k.unordered.filter (fun u => !u.1) } else k)))

-- ------------------------------------------------------------------ markers

/-- What a marker arms: its word and the registers read at issue (R237). -/
def armOf (op : Nat) (f : FWord) (r : SeqRegs) : Arm :=
  { word := f, op := op, xa := getX r f.srcA, xb := getX r f.srcB, sa := getS r f.srcA, sd := getS r f.dst }

/-- A marker (R236): its own fault, or the stage armed for the SWEEPs after it. -/
def marker (s : State) (cv op : Nat) (f : FWord) (fault : State → Round → Work → Option Status)
    (arm : Chain → Arm → Chain) : State :=
  issue s cv op f atOnce (fun a w r =>
    match fault a r w with
    | some st => raise a cv st
    | none => setWork a cv { w with chain := arm w.chain (armOf op f w.regs) })

/-- A marker without own faults. -/
def noFault (_ : State) (_ : Round) (_ : Work) : Option Status := none

/-- BYP: the stage that the class names is bypassed (R84, R234). -/
def bypass (k : Nat) (c : Chain) : Chain :=
  if k = 1 then { c with openS := none }
  else if k = 2 then { c with unpack := none }
  else if k = 3 then { c with ks := none }
  else if k = 4 then { c with comb := none }
  else if k = 5 then { c with ledger := none }
  else if k = 6 then { c with turn := none }
  else if k = 7 then { c with ntt := none }
  else if k = 8 then { c with rows := none, noise := none, scale := none, clip := none, apply := none }
  else { c with sealS := none, hash := none }

/-- Does a caravan bypass all of them, for what it has issued and for what comes? -/
def backIdle (s : State) (cv : Nat) : Bool :=
  (getCv s cv).work.all (fun w => !backArmed w.chain && w.flow.all (fun i => match i with
    | .sweep c _ _ _ _ _ => !backArmed c
    | _ => true) && w.shadowQ.all (fun o => !o.routed))

/-- The power manager holds the back-chain island of a pair at retention once both of its caravans bypass all its stages (R84, R426; when
it does, the rules leave to it: DESIGN CHOICE, assumption 120). -/
def restBack (s : State) (cv : Nat) : State :=
  let pair := cv / 2 * 2
  if backIdle s pair && backIdle s (pair + 1) then
    { s with islands := { s.islands with retention := s.islands.retention ||| ((1 : BitVec 120) <<< backIsland cv) } }
  else s

/-- BYP. -/
def execByp (cv : Nat) (w : FWord) (s : State) : Host.Outcome State Fault Refusal :=
  .next (
    let s1 := marker s cv 0x13 w noFault (fun c _ => bypass w.cls.toNat c)
    if 6 ≤ w.cls.toNat ∧ (getCv s1 cv).issued ≠ (getCv s cv).issued then restBack s1 cv else s1)

/-- OPEN.AEAD (R29, R87, R232, R244): AUTH_FAIL for a slot that holds no key of the partition; the journal key is in slot 0. GF128 needs
none. -/
def execOpenAead (cv : Nat) (w : FWord) (s : State) : Host.Outcome State Fault Refusal :=
  .next (marker s cv 0x20 w
    (fun a _ k =>
      if w.modif ≠ 3 ∧ (slotKey a cv .opens k.part (openSlot (armOf 0x20 w k.regs))).isNone = true then some .authFail else none)
    (fun c a => { c with openS := some a }))

/-- UNPACK (R108, R244). -/
def execUnpack (cv : Nat) (w : FWord) (s : State) : Host.Outcome State Fault Refusal :=
  .next (marker s cv 0x28 w noFault (fun c a => { c with unpack := some a }))

/-- Must a KS.LOAD wait: the KS.FOLD of a SWEEP that has issued and is not complete names one of its slots, or an earlier KS.LOAD waits
(R236, R239)? -/
def slotsBusy (w : Work) (first n : Nat) : Bool :=
  w.flow.any (fun i => match i with
    | .sweep c _ _ _ _ _ => (foldSlots c).any (fun x => (List.range (min n 4096)).any (fun j => decide ((first + j) % 4096 = x)))
    | .load _ => true
    | .swap _ => false)

/-- KS.LOAD (R156, R236, R239, R244): vault records to seed slots, at once or behind what it waits for; a detected fault on a tag
failure. -/
def execKsLoad (cv : Nat) (w : FWord) (s : State) : Host.Outcome State Fault Refusal :=
  .next (issue s cv 0x30 w atOnce (fun a k r =>
    let d := getS k.regs w.srcA
    let q : SeedLoad := ⟨descBase d, (getX k.regs w.srcB).toNat, descLength d⟩
    if descOk d = false ∨ descSpace d ≠ 7 ∨ descKind d ≠ 0 then raise a cv .malformed
    else if r.unmask.vault.length < q.first + q.count then raise a cv .range
    else if slotsBusy k q.slot q.count then setWork a cv { k with flow := k.flow ++ [.load q] }
    else match fillSeeds r k.seeds q with
      | none => raiseDetected a cv 8
      | some t => setWork a cv { k with seeds := t }))

/-- KS.FOLD (R148, R244). -/
def execKsFold (cv : Nat) (w : FWord) (s : State) : Host.Outcome State Fault Refusal :=
  .next (marker s cv 0x31 w
    (fun _ _ k => if getX k.regs w.srcB = 0 ∨ 4096 < (getX k.regs w.srcB).toNat then some .malformed else none)
    (fun c a => { c with ks := some a }))

/-- The arm of a COMBINE marker: selectors 0x8 to 0xF broadcast X0 to X7 (R242). -/
def combArm (r : SeqRegs) (a : Arm) : Arm :=
  { a with xa := getX r (a.word.srcA - 8), xb := getX r (a.word.srcB - 8) }

/-- A COMBINE marker. -/
def combMarker (s : State) (cv op : Nat) (f : FWord) : State :=
  issue s cv op f atOnce (fun a w _ =>
    setWork a cv { w with chain := { w.chain with comb := some (combArm w.regs (armOf op f w.regs)) } })

/-- COMB.ADD (R242, R244). -/
def execCombAdd (cv : Nat) (w : FWord) (s : State) : Host.Outcome State Fault Refusal := .next (combMarker s cv 0x40 w)

/-- COMB.SUB (R242, R244). -/
def execCombSub (cv : Nat) (w : FWord) (s : State) : Host.Outcome State Fault Refusal := .next (combMarker s cv 0x41 w)

/-- COMB.MUL (R112, R242, R244). -/
def execCombMul (cv : Nat) (w : FWord) (s : State) : Host.Outcome State Fault Refusal := .next (combMarker s cv 0x42 w)

/-- LEDG.ACC (R244). -/
def execLedgAcc (cv : Nat) (w : FWord) (s : State) : Host.Outcome State Fault Refusal :=
  .next (marker s cv 0x50 w noFault (fun c a => { c with ledger := some a }))

/-- TURN (R85, R244). -/
def execTurn (cv : Nat) (w : FWord) (s : State) : Host.Outcome State Fault Refusal :=
  .next (marker s cv 0x60 w noFault (fun c a => { c with turn := some a }))

/-- NTT.F: one pass (R184, R185). -/
def execNttF (cv : Nat) (w : FWord) (s : State) : Host.Outcome State Fault Refusal :=
  .next (marker s cv 0x70 w noFault (fun c a => { c with ntt := some a }))

/-- NTT.I: one pass (R184, R185). -/
def execNttI (cv : Nat) (w : FWord) (s : State) : Host.Outcome State Fault Refusal :=
  .next (marker s cv 0x71 w noFault (fun c a => { c with ntt := some a }))

/-- AUTO (R184): MALFORMED for an even g or one of 2N and above. -/
def execAuto (cv : Nat) (w : FWord) (s : State) : Host.Outcome State Fault Refusal :=
  .next (marker s cv 0x72 w
    (fun _ r _ => if w.imm.toNat % 2 = 0 ∨ 2 ^ (r.desc.log2n + 1) ≤ w.imm.toNat then some .malformed else none)
    (fun c a => { c with ntt := some a }))

/-- FIN.ROWS (R207, R208). -/
def execFinRows (cv : Nat) (w : FWord) (s : State) : Host.Outcome State Fault Refusal :=
  .next (marker s cv 0x80 w noFault (fun c a => { c with rows := some a }))

/-- FIN.NOISE (R203, R204): FINISH's slot 0 holds K_noise once it is drawn; AUTH_FAIL for an empty slot (R29). -/
def execFinNoise (cv : Nat) (w : FWord) (s : State) : Host.Outcome State Fault Refusal :=
  .next (marker s cv 0x81 w
    (fun a _ k => if (slotKey a cv .finish k.part w.imm.toNat).isNone then some .authFail else none)
    (fun c a => { c with noise := some a }))

/-- FIN.SCALE (R202, R214). -/
def execFinScale (cv : Nat) (w : FWord) (s : State) : Host.Outcome State Fault Refusal :=
  .next (marker s cv 0x82 w noFault (fun c a => { c with scale := some a }))

/-- FIN.CLIP (R209). -/
def execFinClip (cv : Nat) (w : FWord) (s : State) : Host.Outcome State Fault Refusal :=
  .next (marker s cv 0x83 w noFault (fun c a => { c with clip := some a }))

/-- FIN.APPLY (R210): POLICY_DENIED outside role APPLY. -/
def execFinApply (cv : Nat) (w : FWord) (s : State) : Host.Outcome State Fault Refusal :=
  .next (marker s cv 0x84 w
    (fun _ _ k => if k.role ≠ 3 then some .policyDenied else none)
    (fun c a => { c with apply := some a }))

/-- SEAL.AEAD (R215, R217): AUTH_FAIL for a slot without an image key. -/
def execSealAead (cv : Nat) (w : FWord) (s : State) : Host.Outcome State Fault Refusal :=
  .next (marker s cv 0x90 w
    (fun a _ k => if (slotKey a cv .seals k.part w.imm.toNat).isNone then some .authFail else none)
    (fun c a => { c with sealS := some a }))

/-- HASH (R221). -/
def execHash (cv : Nat) (w : FWord) (s : State) : Host.Outcome State Fault Refusal :=
  .next (marker s cv 0x91 w noFault (fun c a => { c with hash := some a }))

-- ------------------------------------------------------------------ the library (R191 to R197, R244)

/-- Store key of the private copy that a work on channel 0 makes of another channel's ciphertext (R190). -/
def workCopyKey (cv h : Nat) : Nat := copyKey (2 ^ 40 + cv) h

/-- The ciphertext that a work on channel 0 reads: its private copy where it made one (R190). -/
def workKey (x : Partition) (cv h : Nat) : Nat := if Table.has x.store (workCopyKey cv h) then workCopyKey cv h else h

/-- KSW issues at once; it waits only for a REFRESH that runs on its operand (R187). -/
def libraryReady (s : State) (cv : Nat) (f : FWord) (w : Work) (_ : Round) : Bool :=
  let x := getPart s w.part
  !((Table.get? x.store (workKey x cv (getX w.regs f.srcA).toNat)).any (fun c => c.refreshing.isSome))

/-- KSW (R188, R190 to R192, R244), under the rules of channel 0: on a shortfall a REFRESH with the identity table comes first, and the
instruction issues again after its commit; then the key switch under evaluation key imm, with a new handle in Xd. -/
def runKsw (s : State) (cv : Nat) (f : FWord) (w : Work) (r : Round) : State :=
  let x := getPart s w.part
  let h := (getX w.regs f.srcA).toNat
  let key := workKey x cv h
  match (if r.desc.mode = 2 then roundKeySet x r.desc else none) with
  | none => raise s cv .malformed
  | some k =>
    match Table.get? x.store key with
    | none => raise s cv .range
    | some c =>
      let op := CtOp.rot h 1
      if shortfall k r.desc.refreshThreshold op c && !w.inserted then
        let at_ := if c.channel = 0 then h else workCopyKey cv h
        let s1 := setPart s w.part { x with store := Table.put x.store at_ { c with refreshing := some (startRefresh k 0 []) } }
        setWork s1 cv { w with library := some at_, regs := { w.regs with pc := w.regs.pc - 1 } }
      else
        let ek := k.evalKeys[f.imm.toNat]?
        let kind := (ek.map (fun e => e.1)).getD 0
        let g := (ek.map (fun e => e.2.1)).getD 0
        match keySwitch k c c.body kind g ek with
        | .mismatch cf kf _ => libraryMismatch s cv cf kf
        | .done body =>
          let n : Cipher := { level := c.level, ntt := true, channel := 0, fingerprint := c.fingerprint
                              budget := cappedBudget k c.level c.budget 2, body := body }
          let x1 := { x with store := Table.put (Table.erase x.store (workCopyKey cv h)) x.nextHandle n
                             nextHandle := x.nextHandle + 1 }
          setWork (setPart s w.part x1) cv { w with regs := setX w.regs f.dst (BitVec.ofNat 64 x.nextHandle), inserted := false }

/-- KSW. -/
def execKsw (cv : Nat) (w : FWord) (s : State) : Host.Outcome State Fault Refusal :=
  .next (issue s cv 0xA0 w (libraryReady s cv w) (fun a k r => runKsw a cv w k r))

/-- REFRESH (R193 to R197, R244): the routine starts on a ciphertext of channel 0, and REFRESH_COMMIT ends it; MALFORMED for an
absent table. -/
def runRefresh (s : State) (cv : Nat) (f : FWord) (w : Work) (r : Round) : State :=
  let x := getPart s w.part
  let h := (getX w.regs f.srcA).toNat
  match (if r.desc.mode = 2 then roundKeySet x r.desc else none) with
  | none => raise s cv .malformed
  | some k =>
    match lutEntries x r k f.imm.toNat, Table.get? x.store h with
    | none, _ => raise s cv .malformed
    | some _, none => raise s cv .range
    | some l, some c =>
      if c.channel ≠ 0 then raise s cv .policyDenied
      else
        let n := { c with refreshing := some (startRefresh k f.imm.toNat l) }
        setWork (setPart s w.part { x with store := Table.put x.store h n }) cv { w with library := some h }

/-- REFRESH. -/
def execRefresh (cv : Nat) (w : FWord) (s : State) : Host.Outcome State Fault Refusal :=
  .next (issue s cv 0xA1 w (libraryReady s cv w) (fun a k r => runRefresh a cv w k r))

end Sys2Proof.Machine
end

