-- ==== Sys2Proof/Machine/Steps.lean ====
section
/-! DEFINITION. Steps begin and contexts switch (R94 to R103, R126). -/

namespace Sys2Proof.Machine

/-- The Sequencer gives back what it cannot take of its mailboxes' heads (R26). -/
def pruneMail (s : State) (cv : Nat) : State :=
  setCv s cv { getCv s cv with mailbox := prune s cv [] (getCv s cv).mailbox }

/-- The caravan's next step begins with its budget, and what its chain holds goes on (R94, R226). -/
def startStep (s : State) (cv : Nat) : State :=
  match nextStep s cv, (getCv s cv).work with
  | some m, some w => beginStep s cv (stepBudget s cv w) m
  | _, _ => s

/-- STEP_DISPATCH (R96, R97, R103): between two steps, when no staged segment waits on an admission-duty caravan, the next message's step
begins if its partition's work is loaded; otherwise a context switch comes first. The steps of a chain begin together. -/
def execStepDispatch (cv : Nat) (s : State) : Host.Outcome State Fault Refusal :=
  .next (
    if freeForStep s cv = false then s
    else match nextStep s cv, (getCv s cv).work with
      | some m, some w =>
        if w.part ≠ m.part then pruneMail s cv
        else if w.chained.isNone then pumpShadow (pumpFlow (startStep s cv) cv) cv
        else
          let l := chainOf s cv w
          if chainReady s l then
            let s1 := l.foldl (fun a e => startStep a e.1) s
            l.foldl (fun a e => pumpShadow a e.1) (pumpFlow s1 cv)
          else pruneMail s cv
      | _, _ => pruneMail s cv)

-- ------------------------------------------------------------------ context switches

/-- The twiddle store that the incoming work's suspended SWEEP needs (step 5 of R99). -/
def reloadedTwiddle (x : Partition) (r : Round) (w : Work) : Option Twiddle :=
  match w.flow with
  | .sweep c d _ _ _ _ :: _ => chainTwiddle x r c (descLimb d) none
  | _ => none

/-- A caravan whose stores are zeroed, for a partition. -/
def freshFor (s : State) (cv p : Nat) : State :=
  setCv s cv { getCv s cv with
    work := none, owner := some p, pages := 0, switching := none, half := none, twiddle := none, openBuf := [], sealBuf := [] }

/-- The back chain of a pair is brought up for a work that comes with a stage of it armed (R84, R426). -/
def wakeBack (s : State) (cv : Nat) (w : Work) : State :=
  if backArmed w.chain || w.flow.any (fun i => match i with
      | .sweep c _ _ _ _ _ => backArmed c
      | _ => false) || w.shadowQ.any (fun o => o.routed && backArmed o.chain) then
    { s with islands := { s.islands with retention := s.islands.retention &&& ~~~((1 : BitVec 120) <<< backIsland cv) } }
  else s

/-- Steps 4 to 6 of R99: the incoming image, or zeroed stores; every restored group's check word is compared with the saved one, the seed
slots that are named are loaded again, and the twiddle store (R86, R126, R162, R239). A mismatch or a tag that fails is a detected
fault: the incoming step is not issued. -/
def restoreIn (s : State) (cv p : Nat) : State :=
  let s1 := freshFor s cv p
  let x := getPart s1 p
  match Table.get? x.saved cv, x.round with
  | some w, some r =>
    let s2 := setWork (setPart s1 p { x with saved := Table.erase x.saved cv }) cv w
    if imageAgrees r.desc w = false then detectedInWork (dropPeers s2 cv w) cv w (if w.setA.parity ∨ w.setB.parity then 6 else 5)
    else match loadSeeds r w with
      | none => detectedInWork (dropPeers s2 cv w) cv w 8
      | some w1 => wakeBack (setCv s2 cv { getCv s2 cv with work := some w1, twiddle := reloadedTwiddle x r w1 }) cv w1
  | _, _ => s1

/-- The caravans that switch with one: those of its outgoing work's chain, and those of the incoming one's (R103). -/
def switchGroup (s : State) (cv p : Nat) : List Nat :=
  let out := match (getCv s cv).work with
    | none => [cv]
    | some w => (chainOf s cv w).map (fun e => e.1)
  let inn := match workOn s cv p with
    | none => [cv]
    | some w => (chainOf s cv w).map (fun e => e.1)
  sortNat (cv :: out ++ inn)

/-- May a caravan of a switching group switch now: it serves, neither a step nor another switch is under way, and its chain has emptied? -/
def canSwitch (s : State) (cv : Nat) : Bool :=
  cvServes s cv && !(getCv s cv).stepping && (getCv s cv).switching.isNone && chainEmptied s cv

/-- May so many more caravans of a die switch: no more than three at a moment; of a chain of four, one waits for another within the row
(R100, R103)? -/
def switchRoom (s : State) (die n : Nat) : Bool := decide (switchingOn s die + min 3 n ≤ 3)

/-- A whole switch of one caravan: its image is saved, its stores are zeroed, and the partition's image is restored when it has one
there. -/
def switchOne (s : State) (cv p : Nat) : State :=
  let s1 := saveOut s cv
  if (workOn s1 cv p).isSome then restoreIn s1 cv p else s1

/-- A piece of a switch on an admission-duty caravan (R101): half of the save, after which OPEN holds no state, the rest with the zeroing,
half of the restore, the rest. -/
def switchPiece (s : State) (cv p : Nat) : Nat → State
  | 0 => setCv s cv { getCv s cv with switching := some (p, 1), half := (getCv s cv).work.map firstSaved, openBuf := [] }
  | 1 =>
    let s1 := saveOut s cv
    setCv s1 cv { getCv s1 cv with switching := some (p, 2), half := none }
  | 2 => setCv s cv { getCv s cv with switching := some (p, 3), half := (workOn s cv p).map firstRestored }
  | _ => restoreIn s cv p

/-- CONTEXT_SWITCH (R98 to R101, R103): at a step boundary, when the next step belongs to another partition; in four pieces on an
admission-duty caravan, one piece each time, between which waiting passes go first; whole otherwise, with the caravans of its
chain. -/
def execContextSwitch (cv : Nat) (p : Nat) (s : State) : Host.Outcome State Fault Refusal :=
  .next (
    let c := getCv s cv
    if cvServes s cv = false ∨ c.stepping ∨ c.staged ≠ [] then s
    else match c.switching with
      | some (q, n) => if q = p then switchPiece s cv p n else s
      | none =>
        if c.work.any (fun w => decide (w.part = p)) ∨ nextIs s cv p = false
            ∨ switchRoom s (dieOf cv) (if c.duty then 1 else (switchGroup s cv p).length) = false then s
        else if c.duty then (if chainEmptied s cv then switchPiece s cv p 0 else s)
        else if (switchGroup s cv p).all (canSwitch s) then (switchGroup s cv p).foldl (fun a k => switchOne a k p) s
        else s)

end Sys2Proof.Machine
end

