-- ==== Sys2Proof/Machine/Channels.lean ====
section
/-! DEFINITION. Cipher-sum channels: the CT commands, the REFRESHes that they insert, and the commit of a REFRESH (R187 to R191, R196,
R197, R264). -/

namespace Sys2Proof.Machine

/-- A command's view of an operand: its private copy where it made one, else the store's entry. -/
def operandKey (x : Partition) (t : Taken) (h : Nat) : Nat :=
  if Table.has x.store (copyKey t.order h) then copyKey t.order h else h

/-- Free the private copies of a command (R190). -/
def dropCopies (x : Partition) (t : Taken) : Partition :=
  { x with store := x.store.filter (fun e => !decide (e.1 / 2 ^ 32 = t.order + 1)) }

/-- The result of an operation as a new store entry of the command's channel, or what stops it (R182, R188, R191). -/
def ctResult (k : KeySet) (channel : Nat) (op : CtOp) (c1 c2 : Cipher) : Except KswOutcome Cipher :=
  match op with
  | .add _ _ =>
    let lv := min c1.level c2.level
    .ok { level := lv, ntt := true, channel := channel, fingerprint := c1.fingerprint
          budget := cappedBudget k lv (min c1.budget c2.budget) 1
          body := addBodies k lv (switchDown k c1 lv).body (switchDown k c2 lv).body }
  | .pmul _ _ plain =>
    .ok { level := c1.level - 1, ntt := true, channel := channel, fingerprint := c1.fingerprint
          budget := cappedBudget k (c1.level - 1) c1.budget (op.cost k)
          body := canonBody k (c1.level - 1) (Sys2Proof.Config.plainMulBody (keyNumbers k) c1.body plain) }
  | .rot _ g =>
    match keySwitch k c1 (autoBody k.log2n g c1.body) 1 g (galoisKey k g) with
    | .done b => .ok { level := c1.level, ntt := true, channel := channel, fingerprint := c1.fingerprint
                       budget := cappedBudget k c1.level c1.budget 2, body := b }
    | m => .error m
  | .lut _ _ => .ok { c1 with channel := channel }

/-- Result words of a CT command (R262). -/
def ctResults (handle : Nat) (c : Cipher) (below inserted : Bool) : Results :=
  { r0 := handle % 2 ^ 32 + 2 ^ 32 * (c.level % 256) + 2 ^ 40 * (c.budget % 2 ^ 16) + 2 ^ 56 * bn below + 2 ^ 57 * bn inserted }

/-- Begin a REFRESH on an operand: in place when the channel owns it, else on a private copy (R190). -/
def beginRefresh (x : Partition) (t : Taken) (f : Refreshing) (h : Nat) (c : Cipher) : Partition :=
  let key := if c.channel = t.desc.channel.toNat then h else copyKey t.order h
  { x with store := Table.put x.store key { c with refreshing := some f } }

/-- The opcode of a CT command. -/
def isCt (t : Taken) : Bool := decide (t.desc.opcode / 256 = 0x06)

/-- The handles that a CT command names. -/
def ctHandles (t : Taken) : List Nat :=
  if t.desc.opcode = 0x0601 then [t.desc.param 0 4, t.desc.param 4 4] else [t.desc.param 0 4]

/-- Is an earlier command of its channel pending: commands of one channel execute and complete in submission order (R187, R264)? -/
def channelBusy (s : State) (p : Nat) (t : Taken) : Bool :=
  s.cmd.taken.any (fun y => isCt y && decide (y.part = some p ∧ y.order < t.order ∧ y.desc.channel = t.desc.channel))

/-- Must a CT command wait for a write that it reads after: of an earlier command of the channel that owns an operand, or of a REFRESH
on it (R187)? -/
def ctBlocked (s : State) (p : Nat) (t : Taken) : Bool :=
  let x := getPart s p
  s.cmd.taken.any (fun y => isCt y && decide (y.part = some p ∧ y.order < t.order)
      && (ctHandles t).any (fun h => (ctHandles y).contains h
        && (Table.get? x.store h).any (fun c => decide (c.channel = y.desc.channel.toNat))))
    || (ctHandles t).any (fun h => (Table.get? x.store (operandKey x t h)).any (fun c => c.refreshing.isSome))

/-- Run a CT command whose turn has come: the leveled channel's rules (R189), the REFRESH that a refresh channel inserts
(R190), or the operation itself (R188). A CT.LUT that names an absent or ill-formed table is MALFORMED, as the REFRESH instruction is
(R194, R244; DEDUCED, assumption 157). -/
def runCt (s : State) (p : Nat) (t : Taken) (r : Round) (k : KeySet) (op : CtOp) : State :=
  let x := getPart s p
  let leveled := r.desc.leveled.getLsbD (t.desc.channel.toNat % 64)
  let cs := op.operands.map (fun h => (h, Table.get? x.store (operandKey x t h)))
  if cs.any (fun e => e.2.isNone) then complete s t .range
  else
    let ops := cs.filterMap (fun e => e.2.map (fun c => (e.1, c)))
    let short := ops.filter (fun e => shortfall k r.desc.refreshThreshold op e.2 && !t.inserted.contains e.1)
    match op with
    | .lut a id =>
      if leveled then complete s t .policyDenied
      else match lutEntries x r k id, ops.head? with
        | some l, some (_, c) =>
          if t.inserted.contains a then
            let own := Table.has x.store (copyKey t.order a) = false
            let key := if own then a else x.nextHandle
            let x1 := if own then x else
              { dropCopies x t with store := Table.put (dropCopies x t).store key { c with channel := t.desc.channel.toNat }
                                    nextHandle := x.nextHandle + 1 }
            complete (setPart s p x1) t .ok (ctResults key c (decide (c.budget < r.desc.refreshThreshold)) false)
          else updTaken (setPart s p (beginRefresh x t (startRefresh k id l) a c))
            { t with waiting := true, begun := true, inserted := [a] }
        | _, _ => complete s t .malformed
    | _ =>
      if leveled ∧ op.needsLevel = true ∧ (ops.any (fun e => decide (e.2.level = 0))) = true then complete s t .levelExhausted
      else if leveled = false ∧ short ≠ [] then
        updTaken (setPart s p (short.foldl (fun y e => beginRefresh y t (startRefresh k 0 []) e.1 e.2) x))
          { t with waiting := true, begun := true, inserted := t.inserted ++ short.map (fun e => e.1) }
      else
        match ops.head?, ops.getLast? with
        | some (_, c1), some (_, c2) =>
          match ctResult k t.desc.channel.toNat op c1 c2 with
          | .ok c =>
            let y := dropCopies x t
            let s1 := setPart s p { y with store := Table.put y.store y.nextHandle c, nextHandle := y.nextHandle + 1 }
            complete s1 t .ok (ctResults y.nextHandle c (decide (c.budget < r.desc.refreshThreshold)) (!t.inserted.isEmpty))
          | .error (.mismatch cf kf kg) =>
            complete (setPart s p (dropCopies x t)) t .keyMismatch
              { r0 := cf, r1 := kf, r2 := (match op with | .rot _ g => g | _ => 0) + 2 ^ 32 * kg }
          | .error _ => s
        | _, _ => s

/-- The round and key set on which CT commands work: a cipher-sum round that is neither retired nor aborted (R46, R187;
assumption 32). -/
def ctRound (s : State) (p : Nat) : Option (Round × KeySet) :=
  match getRound s p with
  | none => none
  | some r =>
    if r.desc.mode = 2 ∧ r.state ≠ .retired ∧ r.state ≠ .aborted then
      (roundKeySet (getPart s p) r.desc).map (fun k => (r, k))
    else none

/-- The operation that a CT command carries; the plaintext of a PMUL stands in the partition's private area. -/
def ctOpOf (x : Partition) (t : Taken) (k : KeySet) : CtOp :=
  if t.desc.opcode = 0x0601 then .add (t.desc.param 0 4) (t.desc.param 4 4)
  else if t.desc.opcode = 0x0602 then
    .pmul (t.desc.param 0 4) (t.desc.param 4 1) (Table.getD x.plains t.order (.ok, [])).2
  else if t.desc.opcode = 0x0603 then
    .rot (t.desc.param 0 4) (rotationElement k.log2n (t.desc.param 4 4) (bitAt (t.desc.param 8 1) 0))
  else .lut (t.desc.param 0 4) (t.desc.param 4 1)

/-- A CT command keeps its place and waits. -/
def ctWaits (s : State) (t : Taken) : State := updTaken s { t with waiting := true, begun := true }

/-- Submit a CT command: in its channel's order a lut_id above 31 is RANGE (R267), a record that its checks refused completes it, and without a round the command has
nothing to work on; then it runs as a step of its class, which is its channel's, once the writes that it reads after are done (R187, R264, R320). -/
def submitCt (s : State) (p : Nat) (t : Taken) : State :=
  let x := getPart s p
  if channelBusy s p t then ctWaits s t
  else if t.desc.opcode = 0x0604 ∧ 31 < t.desc.param 4 1 then complete s t .range
  else if (Table.getD x.plains t.order (.ok, [])).1 ≠ .ok then complete s t (Table.getD x.plains t.order (.ok, [])).1
  else match ctRound s p with
    | none => complete s t .policyDenied
    | some (r, k) =>
      if ctBlocked s p t then ctWaits s t
      else if stepRoom s t.cls = false then updTaken s { t with begun := true }
      else runCt s p t r k (ctOpOf x t k)

/-- CT commands that waited run in order where nothing holds them back any longer (R187, R190). -/
def pumpCtList (p : Nat) : List Taken → State → State
  | [], s => s
  | t :: ts, s =>
    pumpCtList p ts (if isCt t && t.waiting && decide (t.part = some p) && canStep s p then submitCt s p t else s)

/-- Run what can run of the partition's waiting CT commands, and free plaintexts no longer needed. -/
def pumpCt (s : State) (p : Nat) : State :=
  let s1 := pumpCtList p s.cmd.taken s
  let x := getPart s1 p
  setPart s1 p { x with plains := x.plains.filter (fun e => s1.cmd.taken.any (fun t => decide (t.order = e.1))) }

/-- A CT command's row: it is submitted, and what waited behind it follows. -/
def ctRow (s : State) (ref : CmdRef) (op : Nat) : State :=
  withCmd s ref op (fun t =>
    match t.part with
    | none => s
    | some p => if canStep s p = false then s else pumpCt (submitCt s p t) p)

/-- CT_ADD (R188). -/
def execCtAdd (ref : CmdRef) (s : State) : Host.Outcome State Fault Refusal := .next (ctRow s ref 0x0601)

/-- What a PMUL's session record brings: the plaintext's words, or the status that its checks give (R320, R321). -/
def plainOf (s : State) (p : Nat) (t : Taken) (buf : Bytes) : Status × List Nat × Session :=
  let x := getPart s p
  match openRecord x.session t.desc.counter.toNat 6 (buf.take t.desc.length) with
  | .error st => (st, [], x.session)
  | .ok o =>
    if x.session.plainNo.any (fun n => decide (o.counter ≤ n)) = true ∨ field o.content 0 4 ≠ t.desc.param 0 4 ∨ field o.content 4 1 ≠ t.desc.channel.toNat then
      (.authFail, [], x.session)
    else match ctRound s p with
      | none => (.policyDenied, [], x.session)
      | some (_, k) =>
        if o.content.length ≠ 8 + 8 * 2 ^ k.log2n ∨ zeros o.content 5 3 = false then (.malformed, [], x.session)
        else (.ok, bodyWords (o.content.drop 8), { x.session with plainNo := some o.counter })

/-- CT_PMUL (R188, R264, R320, R321): the plaintext comes in a session record bound to the handle and the channel. Its checks are made
once, in submission order; their outcome waits for the command's turn in its channel. -/
def execCtPmul (ref : CmdRef) (buf : Bytes) (s : State) : Host.Outcome State Fault Refusal :=
  .next (withCmd s ref 0x0602 (fun t =>
    match t.part with
    | none => s
    | some p =>
      let x := getPart s p
      if canStep s p = false then s
      else if Table.has x.plains t.order then pumpCt (submitCt s p t) p
      else
        let q := plainOf s p t buf
        let s1 := setPart s p { x with session := q.2.2, plains := Table.put x.plains t.order (q.1, q.2.1) }
        pumpCt (submitCt s1 p t) p))

/-- CT_ROT (R184, R188, R191). -/
def execCtRot (ref : CmdRef) (s : State) : Host.Outcome State Fault Refusal := .next (ctRow s ref 0x0603)

/-- CT_LUT (R188, R189, R193). -/
def execCtLut (ref : CmdRef) (s : State) : Host.Outcome State Fault Refusal := .next (ctRow s ref 0x0604)

/-- The caravan whose loaded work runs its library routine on a handle of the partition. -/
def libraryCaravan (s : State) (p h : Nat) : Option Nat :=
  (List.range 48).find? (fun cv => (getCv s cv).work.any (fun w => decide (w.part = p ∧ w.library = some h)))

/-- Does a work of the partition, loaded or saved, run its library routine on the handle? -/
def libraryOn (s : State) (p h : Nat) : Bool :=
  (libraryCaravan s p h).isSome || (getPart s p).saved.any (fun e => decide (e.2.library = some h))

/-- The library routine on a handle ends: the instruction that a KSW's REFRESH came before issues next (R190). -/
def endLibrary (s : State) (p h : Nat) : State :=
  match libraryCaravan s p h with
  | none => s
  | some cv => match (getCv s cv).work with
    | none => s
    | some w => setWork s cv { w with library := none, inserted := true }

/-- A REFRESH that a KEY_MISMATCH stopped: its input is untouched. Its command completes so; a work's library routine posts a round
event, and the work is stopped (R191, R197, R245). A hoisted rotation's operation names the element of the stream that it reads. -/
def refreshFails (s : State) (p h : Nat) (c : Cipher) (kf kg : Nat) : State :=
  let x := getPart s p
  let s1 := setPart s p { x with store := Table.put x.store h { c with refreshing := none } }
  match s1.cmd.taken.find? (fun t => isCt t && decide (t.part = some p)
      && t.inserted.any (fun a => decide (a = h ∨ copyKey t.order a = h))) with
  | some t => complete (setPart s1 p (dropCopies (getPart s1 p) t)) t .keyMismatch
      { r0 := c.fingerprint, r1 := kf, r2 := kg + 2 ^ 32 * kg }
  | none =>
    match libraryCaravan s1 p h with
    | none => s1
    | some cv => match (getCv s1 cv).work with
      | none => s1
      | some _ => libraryMismatch s1 cv c.fingerprint kf

/-- Beats of stream entry that one step of a REFRESH carries (R94, R196). -/
def refreshBudget : Nat := 15000

/-- REFRESH_COMMIT (R196, R197): once phase 5 is over the handle is pointed at the output and the input is freed. Before, the row is a P3
step of a REFRESH that a command has inserted, on a caravan where nothing of a higher class waits, since the table has no other row for
those steps (DESIGN CHOICE, assumption 153); a work's routine takes its steps on its own caravan. Nothing commits after an ABORT (R46). -/
def execRefreshCommit (p : Nat) (handle : Nat) (s : State) : Host.Outcome State Fault Refusal :=
  .next (
    let x := getPart s p
    match Table.get? x.store handle, ctRound s p with
    | some c, some (r, k) =>
      match c.refreshing with
      | none => s
      | some f =>
        if canStep s p = false ∨ (f.phase ≤ 5 ∧ (libraryOn s p handle = true ∨ stepRoom s .p3 = false)) then s
        else match refreshMismatch k c with
          | some (kf, kg) => settleUnloads (pumpCt (refreshFails s p handle c kf kg) p)
          | none =>
            if f.phase ≤ 5 then setPart s p (stepRefresh x r handle refreshBudget)
            else
            let s1 := setPart s p { x with store := Table.put x.store handle
                                             (refreshed k c f) }
            settleUnloads (pumpCt (endLibrary s1 p handle) p)
    | _, _ => s)

end Sys2Proof.Machine
end

