-- ==== Sys2Proof/Machine/Porush.lean ====
section
/-! DEFINITION. Porush links: training, flits, replay, messages, lane and link failures (R391 to R399, R408 to R410). -/

namespace Sys2Proof.Machine

-- ------------------------------------------------------------------ flits (R392, R393)

/-- The nonce of a flit: counter, direction (0 when the lower identity transmits), three zero bytes (R397). -/
def flitNonce (ctr : Nat) (fromLower : Bool) : Bytes := toLe 8 ctr ++ toLe 1 (bn (!fromLower)) ++ zeroBytes 3

/-- The header of an encrypted flit (R392). -/
def flitHeader (kind cls : Nat) (nak : Bool) (len : Nat) (credits : List Nat) (seq ack : Nat) : Bytes :=
  toLe 1 kind ++ toLe 1 (cls + 4 * bn nak) ++ toLe 1 len ++ (credits.map (fun c => toLe 1 c)).flatten ++ zeroBytes 2
    ++ toLe 4 seq ++ toLe 4 ack

/-- A whole encrypted flit: header, ciphertext, tag and CRC (R392). -/
def sealFlit (k : Link) (head payload : Bytes) : Bytes :=
  let b := head ++ Sys2Proof.Config.aeadSeal 0 k.key (flitNonce k.txCtr k.lower) head (padTo 216 payload)
  b ++ toLe 8 (crc64 b).toNat

/-- The counter of the last flit received in order, as ack_seq carries it; before the first one, the value before 0 (R392). -/
def lastReceived (k : Link) : Nat := (k.rxCtr + 2 ^ 32 - 1) % 2 ^ 32

/-- The class that the next flit serves: one with data and credit, class 2 once 19 flits have gone without it, otherwise the
lowest (R398). -/
def nextClass (k : Link) : Option Nat :=
  let can := fun c => !(Table.getD k.txq c []).isEmpty && decide (0 < k.credits.getD c 0)
  if can 2 && decide (19 ≤ k.since2) then some 2 else [0, 1, 2].find? can

/-- Set one entry of a list of three counts. -/
def setCount (l : List Nat) (i v : Nat) : List Nat := (List.range 3).map (fun j => if j = i then v else l.getD j 0)

/-- Send one flit: data of the next class, or an idle flit; none while the replay buffer holds 512 (R393, R394, R398). -/
def sendFlit (s : State) (l : Nat) : State :=
  let k := getLink s l
  if k.up = false ∨ 512 ≤ k.replay.length then s
  else
    let c := nextClass k
    let data := match c with
      | none => []
      | some i => (Table.getD k.txq i []).take 216
    let head := flitHeader (if c.isSome then 1 else 0) (c.getD 0) k.nakNext data.length k.owed (k.txCtr % 2 ^ 32) (lastReceived k)
    let f := sealFlit k head data
    let k1 := { k with
      txCtr := k.txCtr + 1, nakNext := false, owed := [0, 0, 0], replay := k.replay ++ [(k.txCtr, f)]
      since2 := if c = some 2 ∨ (Table.getD k.txq 2 []).isEmpty then 0 else k.since2 + 1 }
    let k2 := match c with
      | none => k1
      | some i => { k1 with txq := Table.put k1.txq i ((Table.getD k1.txq i []).drop 216)
                            credits := setCount k1.credits i (k1.credits.getD i 0 - 1) }
    emit (setLink s l k2) (.flit l f)

-- ------------------------------------------------------------------ failures (R408, R409)

/-- PORUSH_LANE_FAIL (R408). -/
def execPorushLaneFail (l : Nat) (lane : Nat) (s : State) : Host.Outcome State Fault Refusal :=
  .next (if 4 ≤ l ∨ 8 ≤ lane then s else laneFails s l lane)

/-- PORUSH_LINK_FAIL (R395, R409): the link goes down and trains again; a failure during training restarts training. -/
def execPorushLinkFail (l : Nat) (s : State) : Host.Outcome State Fault Refusal :=
  .next (if 4 ≤ l then s else downLink s l true 0)

-- ------------------------------------------------------------------ training (R395 to R397)

/-- LINK_RETRAIN (R395, R410): PRS.LINK[l].retrain is written 1: training starts, and an open link is down meanwhile. -/
def execLinkRetrain (l : Nat) (s : State) : Host.Outcome State Fault Refusal :=
  .next (if 4 ≤ l then s else downLink s l true 0)

/-- PORUSH_RETRY_TIMER (R396): a link that is down for cause 2, 5 or 7 trains again. -/
def execPorushRetryTimer (l : Nat) (s : State) : Host.Outcome State Fault Refusal :=
  .next (
    let k := getLink s l
    if l < 4 ∧ k.up = false ∧ k.training = false ∧ (k.cause = 2 ∨ k.cause = 5 ∨ k.cause = 7) then setLink s l { k with training := true }
    else s)

/-- The epoch that this side proposes: its stored counter plus 1 (R397). -/
def epochProposal (s : State) (l : Nat) : Nat := storedCounter s l + 1

/-- This side's 32-byte training block (R395). -/
def trainingBlock (s : State) (l : Nat) : Bytes :=
  toLe 4 Sys2Proof.Config.linkVersion.toNat ++ padTo 4 Sys2Proof.Config.fabricGroupCode ++ toLe 1 s.hub.config ++ toLe 1 l ++ zeroBytes 6
    ++ toLe 8 Sys2Proof.Config.deviceSerial.toNat ++ toLe 8 (epochProposal s l)

/-- A link identity: serial and link index (R397). -/
def linkIdentity (serial index : Nat) : Bytes := toLe 8 serial ++ toLe 1 index

/-- Bytes 0 to 15 of a confirmation (R395). -/
def confirmation (key : Bytes) (role : Nat) (lower higher : Bytes) : Bytes :=
  (Sys2Proof.Config.hmacSha256 key (ascii "CHIELM-LCONF" ++ toLe 1 role ++ Sys2Proof.Config.sha256 (lower ++ higher))).take 16

/-- A training flit: its payload in plaintext, no counters and no credits, a tag of zeros (R392; DESIGN CHOICE, assumption 139). -/
def trainingFlit (payload : Bytes) : Bytes :=
  let b := flitHeader 2 0 false payload.length [0, 0, 0] 0 0 ++ padTo 216 payload ++ zeroBytes 16
  b ++ toLe 8 (crc64 b).toNat

/-- Did electrical training leave a link that can send: a signal, and a usable width (R395 step 1, R396 causes 1 and 7)? -/
def trained (t : TrainingInputs) : Bool := t.signal && (t.full || t.lowHalf || t.highHalf)

/-- The check of R396 that fails before any key is derived, in the order of the steps: signal, width, version, group code,
configuration, serial. -/
def trainingCause (s : State) (t : TrainingInputs) : Option Nat :=
  let b := t.partnerBlock
  if t.signal = false then some 1
  else if t.full = false ∧ t.lowHalf = false ∧ t.highHalf = false then some 7
  else if bridgeVersion Sys2Proof.Config.linkVersion (BitVec.ofNat 32 (field b 0 4)) = none then some 2
  else if slice b 4 4 ≠ padTo 4 Sys2Proof.Config.fabricGroupCode then some 3
  else if field b 8 1 ≠ s.hub.config then some 4
  else if field b 16 8 = Sys2Proof.Config.deviceSerial.toNat then some 6
  else none

/-- Messages that waited for a route are sent (R409). -/
def releaseWaiting (s : State) : State :=
  s.porush.waiting.foldl (fun a e => sendVia a e.1 e.2) { s with porush := { s.porush with waiting := [] } }

/-- Steps 4 to 6 of training: epoch and flash record, link key, confirmation sent and verified, and the link opens with its counters at
0 (R393, R395, R397, R398). -/
def openLink (s : State) (l : Nat) (t : TrainingInputs) : State :=
  let b := t.partnerBlock
  let own := trainingBlock s l
  let serial := field b 16 8
  let lower := decide (Sys2Proof.Config.deviceSerial.toNat < serial)
  let epoch := max (epochProposal s l) (field b 24 8)
  let ownId := linkIdentity Sys2Proof.Config.deviceSerial.toNat l
  let hisId := linkIdentity serial (field b 9 1)
  let key := if lower then linkKey s ownId hisId epoch else linkKey s hisId ownId epoch
  let want := if lower then confirmation key 1 own b else confirmation key 0 b own
  let sent := if lower then confirmation key 0 own b else confirmation key 1 b own
  let s1 := emit (writeLinkCounter s l epoch) (.flit l (trainingFlit sent))
  let k := getLink s1 l
  if t.confirmation ≠ want then setLink s1 l { k with training := false, cause := 5 }
  else
    let v := (bridgeVersion Sys2Proof.Config.linkVersion (BitVec.ofNat 32 (field b 0 4))).getD 0
    let s2 := setLink s1 l {
      up := true, narrow := !t.full, cause := 0, version := v, failed := if t.full then 0 else k.failed, event := k.event, mask := k.mask
      partner := BitVec.ofNat 64 serial, replays := k.replays, key := key, epoch := epoch, lower := lower }
    sendFlit (releaseWaiting (setLinkEvent s2 l)) l

/-- PORUSH_LINK_OPEN (R393, R395 to R397): training of a link ends: the training block goes out once the link can send, and a check
fails and the link stays down with its cause, or the link opens. No key is derived under a tamper lock (R330). -/
def execPorushLinkOpen (l : Nat) (t : TrainingInputs) (s : State) : Host.Outcome State Fault Refusal :=
  .next (
    let k := getLink s l
    if 4 ≤ l ∨ k.training = false ∨ k.up ∨ s.keeper.locked ∨ s.hub.bootState ≠ 3 ∨ s.power.state = .sleep ∨ s.pins.thermtrip then s
    else
      let s1 := if trained t then emit s (.flit l (trainingFlit (trainingBlock s l))) else s
      match trainingCause s t with
      | some c => setLink s1 l { k with training := false, cause := c }
      | none => openLink s1 l t)

-- ------------------------------------------------------------------ receiving (R394)

/-- The 64-bit counter of a received flit: its low half, and the upper half nearest to the next one expected (R393). -/
def flitCounter (next seq : Nat) : Nat :=
  let c := next / 2 ^ 32 * 2 ^ 32 + seq
  if next + 2 ^ 31 < c ∧ 2 ^ 32 ≤ c then c - 2 ^ 32 else if c + 2 ^ 31 < next then c + 2 ^ 32 else c

/-- Entries of the replay buffer after the flit with low counter bits ack has been acknowledged. -/
def unackedFlits (replay : List (Nat × Bytes)) (ack : Nat) : List (Nat × Bytes) :=
  match replay.findIdx? (fun e => decide (e.1 % 2 ^ 32 = ack)) with
  | none => replay
  | some i => replay.drop (i + 1)

/-- What an accepted flit does: credits come back, acknowledged flits leave the replay buffer, a nak resends from ack_seq + 1
and eight in a row for one flit count as the failure of a lane that is not stated (a free value), the payload joins its class's partial message and its buffer's credit
is owed (R394, R398, R399). -/
def acceptFlit (s : State) (l : Nat) (head payload : Bytes) : State :=
  let k := getLink s l
  let cls := field head 1 1 % 4
  let len := min 216 (field head 2 1)
  let rest := unackedFlits k.replay (field head 12 4)
  let nak := bitAt (field head 1 1) 2
  let naks := if nak then (if rest.length < k.replay.length then 1 else k.naks + 1) else 0
  let data := decide (field head 0 1 = 1) && decide (cls < 3)
  let k1 := { k with
    rxCtr := k.rxCtr + 1, replay := rest, naks := naks
    credits := (List.range 3).map (fun i => min 128 (k.credits.getD i 0 + field head (3 + i) 1))
    partials := if data then Table.put k.partials cls (Table.getD k.partials cls [] ++ payload.take len) else k.partials
    owed := if data then setCount k.owed cls (k.owed.getD cls 0 + 1) else k.owed }
  let s1 := setLink s l k1
  if nak = false then s1
  else if 8 ≤ naks then
    laneFails (bumpFree (setLink s1 l { k1 with naks := 0 })) l ((Sys2Proof.Config.freeWord s.freeCount).toNat % 8)
  else resendFlits s1 l

/-- A flit is discarded, and the next flit sent carries nak (R394). -/
def discardFlit (s : State) (l : Nat) : State := setLink s l { getLink s l with nakNext := true }

/-- PORUSH_FLIT_RECEIVE (R392 to R394): CRC first, then the tag, then the counter. A CRC error is corrected by replay; a tag
failure on a good CRC is a detected fault, and the link trains under a new epoch. In the same flit time the device sends its
own flit (R393). -/
def execPorushFlitReceive (l : Nat) (flit : Bytes) (s : State) : Host.Outcome State Fault Refusal :=
  .next (
    let k := getLink s l
    if 4 ≤ l ∨ k.up = false then s
    else if flit.length ≠ 256 ∨ field flit 0xF8 8 ≠ (crc64 (flit.take 0xF8)).toNat then
      sendFlit (discardFlit (logFault (countFault s true) 6 l 11 0xFF 0 0) l) l
    else
      let head := flit.take 16
      let ctr := flitCounter k.rxCtr (field flit 8 4)
      match Sys2Proof.Config.aeadOpen 0 k.key (flitNonce ctr (!k.lower)) head (slice flit 0x10 232) with
      | none => downLink (logFault (countFault s false) 6 l 11 0xFF 1 0) l true 0
      | some payload =>
        if ctr ≠ k.rxCtr then sendFlit (discardFlit s l) l else sendFlit (acceptFlit s l head payload) l)

-- ------------------------------------------------------------------ messages (R399, R405, R406)

/-- The partition whose circuit a message between two packages belongs to: the lowest with a circuit that has both (DEDUCED,
assumption 48). -/
def circuitOwner (s : State) (src dst : Nat) : Option (Nat × Circuit) :=
  (List.range 64).findSome? (fun p => (circuitAt (getPart s p)).bind (fun c =>
    if src < c.members.length ∧ dst < c.members.length then some (p, c) else none))

/-- A message for this package: delivered once, in order, and acknowledged end to end; one delivered before is dropped and
acknowledged again; an acknowledgement releases the copy that the source kept, and one without a route is made again when the
source resends (R399, R409). -/
def deliverMessage (s : State) (p : Nat) (msg : Bytes) : State :=
  let acked := s.porush.unacked.filter (fun e => decide (Sys2Proof.Config.ackMessage (e.2.2.take 16) = msg))
  if acked ≠ [] then
    { s with porush := { s.porush with unacked := s.porush.unacked.filter (fun e =>
        !decide (Sys2Proof.Config.ackMessage (e.2.2.take 16) = msg)) } }
  else
    let key := (field msg 0 1, field msg 1 1, field msg 2 1)
    let next := Table.getD s.porush.delivered key 0
    let n := field msg 4 4
    let ack := fun (a : State) =>
      match circuitAt (getPart a p) with
      | none => a
      | some c =>
        match routeLink a c (field msg 0 1) with
        | none => a
        | some k => putOut a k (field msg 2 1 % 4) (Sys2Proof.Config.ackMessage (msg.take 16))
    if n = next then
      ack { s with porush := { s.porush with
        delivered := Table.put s.porush.delivered key ((next + 1) % 2 ^ 32), inbox := s.porush.inbox ++ [msg] } }
    else if n < next then ack s
    else s

/-- PORUSH_MESSAGE (R399): a message that has arrived whole on a link is delivered here, or forwarded by its route. -/
def execPorushMessage (l : Nat) (msg : Bytes) (s : State) : Host.Outcome State Fault Refusal :=
  .next (
    let k := getLink s l
    let cls := field msg 2 1
    let part := Table.getD k.partials cls []
    if 4 ≤ l ∨ msg.length < 16 ∨ field msg 8 4 ≠ msg.length ∨ part.take msg.length ≠ msg then s
    else
      let s1 := setLink s l { k with partials := Table.put k.partials cls (part.drop msg.length) }
      match circuitOwner s1 (field msg 0 1) (field msg 1 1) with
      | none => s1
      | some (p, c) => if field msg 1 1 = c.self then deliverMessage s1 p msg else sendVia s1 p msg)

end Sys2Proof.Machine
end

