-- ==== Sys2Proof/Machine/Registers.lean ====
section
/-! DEFINITION. REGISTER_WRITE: a host write inside BAR0 of a function, by the register maps of R254, R255, R282, R283, R348,
R367, R390, R410 and R433 and the access codes of R13 to R16. A register whose write is a row of its own runs that row's
operation. -/

namespace Sys2Proof.Machine

/-- Bits of a register word that a write of 1 clears (RW1C, R13). -/
def clearBits {n : Nat} (old : BitVec n) (w : W32) : BitVec n := old &&& ~~~(w.setWidth n)

-- ------------------------------------------------------------------ queue pages (R255, R282)

/-- The low half of a ring base: bits 31:12 (R282). -/
def baseLow (old : W64) (w : W32) : W64 := BitVec.ofNat 64 (old.toNat / 2 ^ 32 * 2 ^ 32 + w.toNat / 4096 * 4096)

/-- The high half of a 64-bit register. -/
def halfHigh (old : W64) (w : W32) : W64 := BitVec.ofNat 64 (old.toNat % 2 ^ 32 + w.toNat * 2 ^ 32)

/-- The low half of a 64-bit register. -/
def halfLow (old : W64) (w : W32) : W64 := BitVec.ofNat 64 (old.toNat / 2 ^ 32 * 2 ^ 32 + w.toNat)

/-- A write of word r of the registers of SQ n (R282): the base holds while the SQ is enabled; a configuration acts at the next
enable (assumption 68). -/
def sqWord (s : State) (f : Fn) (n r : Nat) (w : W32) : State :=
  let q := getSq s f n
  match r with
  | 0x00 => if q.enable then s else setSq s f n { q with base := baseLow q.base w }
  | 0x04 => if q.enable then s else setSq s f n { q with base := halfHigh q.base w }
  | 0x08 => setSq s f n { q with cfg := w &&& 0x00000F7F }
  | 0x0C => if w.getLsbD 0 then sqEnableOp s f n else sqDisableOp s f n
  | 0x10 => if w.getLsbD 1 then setSq s f n { q with error := false } else s
  | _ => s

/-- A write of word r of the registers of CQ n: coal_count and coal_time act at once, log2_entries and vector at the next enable (R281,
R282; assumption 68). -/
def cqWord (s : State) (f : Fn) (n r : Nat) (w : W32) : State :=
  let q := getCq s f n
  match r with
  | 0x00 => if q.enable then s else setCq s f n { q with base := baseLow q.base w }
  | 0x04 => if q.enable then s else setCq s f n { q with base := halfHigh q.base w }
  | 0x08 => setCq s f n (cqCoalesced { q with cfg := w &&& 0x1FFFFFFF })
  | 0x0C => if w.getLsbD 0 then cqEnableOp s f n else cqDisableOp s f n
  | 0x10 => if w.getLsbD 1 then setCq s f n { q with error := false } else s
  | _ => s

/-- A write of P0_SLOT_STATUS: overrun clears by 1 (R282). -/
def slotWord (s : State) (f : Fn) (w : W32) : State :=
  (List.range 4).foldl (fun a i => if w.getLsbD (4 + i) then setSlot a f i { getSlot a f i with overrun := false } else a) s

/-- Bytes written into a P0 slot: kept until bytes 0x3C to 0x3F arrive, which take the descriptor; a busy slot discards them and
sets overrun (R271). -/
def p0Bytes (s : State) (f : Fn) (slot o : Nat) (b : Bytes) : State :=
  let x := getSlot s f slot
  if x.busy then setFnError (setSlot s f slot { x with overrun := true }) f 2
  else
    let m := Memory.writes x.staged o (b.take (64 - o))
    let s1 := setSlot s f slot { x with staged := m }
    if 64 ≤ o + b.length then p0Op s1 f slot (Memory.reads m 0 64) else s1

/-- The offset in its queue pages that a function's BAR0 offset names (R255): a VF's own, a PF's within CMD. -/
def pageOffset (f : Fn) (o : Nat) : Nat := if fnIsPf f then o - 0x100000 else o

/-- Does an access fall in the P0 doorbells of a function (R255)? -/
def inP0Page (f : Fn) (o : Nat) : Bool := decide (0x30000 ≤ pageOffset f o ∧ pageOffset f o < 0x30100)

/-- A write in the queue, doorbell and P0 pages of a function, by relative offset (R255, R260). A P0 doorbell takes
bytes as p0Bytes does (R271). -/
def queuePage (s : State) (f : Fn) (o : Nat) (w : W32) : State :=
  if o < 0x10200 then sqWord s f ((o - 0x10000) / 32) (o % 32) w
  else if o < 0x10400 then cqWord s f ((o - 0x10200) / 32) (o % 32) w
  else if 0x20000 ≤ o ∧ o < 0x20040 then sqTailOp s f ((o - 0x20000) / 4) (w.toNat % 2 ^ 16)
  else if 0x20100 ≤ o ∧ o < 0x20140 then cqHeadOp s f ((o - 0x20100) / 4) (w.toNat % 2 ^ 16)
  else if o = 0x30100 then slotWord s f w
  else s

-- ------------------------------------------------------------------ vectors (R254, R255, R281)

/-- A write in an MSI-X table: a vector that is unmasked while it is pending is sent (PCI Express base specification). -/
def msixWord (s : State) (f : Fn) (v r : Nat) (w : W32) : State :=
  let x := getFn s f
  let m := Table.getD x.msix v {}
  let put := fun (n : MsixVec) => setFn s f { x with msix := Table.put x.msix v n }
  match r with
  | 0x0 => put { m with address := halfLow m.address (w &&& 0xFFFFFFFC) }
  | 0x4 => put { m with address := halfHigh m.address w }
  | 0x8 => put { m with data := w }
  | 0xC =>
    if w.getLsbD 0 then put { m with masked := true }
    else
      let s1 := put { m with masked := false, pending := false }
      if m.pending then emit s1 (.msix f v) else s1
  | _ => s

-- ------------------------------------------------------------------ a VF's window and the PF's blocks

/-- PWIN.P0_CFG and the error registers, at their offsets of a function's own block (R282, R283). -/
def errorWord (s : State) (f : Fn) (w : W32) (valid : BitVec 6) : State :=
  let x := getFn s f
  setFn s f { x with error := clearBits x.error w &&& valid }

/-- The mask beside it. -/
def maskWord (s : State) (f : Fn) (w : W32) (valid : BitVec 6) : State :=
  let x := getFn s f
  setFn s f { x with errorMask := w.setWidth 6 &&& valid }

/-- P0_CFG (R282, R283). -/
def p0CfgWord (s : State) (f : Fn) (w : W32) : State := setFn s f { getFn s f with p0Cq := w.setWidth 4 }

/-- A write in a VF's window (R255, R282). -/
def windowWord (s : State) (f : Fn) (o : Nat) (w : W32) : State :=
  if o = 0x10 then p0CfgWord s f w
  else if o = 0x14 then errorWord s f w 0x1F
  else if o = 0x18 then maskWord s f w 0x1F
  else if 0x10000 ≤ o ∧ o < 0x40000 then queuePage s f o w
  else if 0x40000 ≤ o ∧ o < 0x401F0 then msixWord s f ((o - 0x40000) / 16) (o % 16) w
  else s

/-- A write of HUB.RECOVERY_CTRL acts on the value written, the half that a 32-bit write leaves out being 0 (R13, R421; assumption 57). -/
def recoveryWrite (s : State) (v : W64) : State := recoveryChunk s v (Memory.reads s.hub.recBuf 0 (bits v.toNat 32 17)) false {}

/-- A write in the HUB block (R416, R419, R421, R433). -/
def hubWord (s : State) (o : Nat) (w : W32) : State :=
  if o = 0x10 then resetWrite s w {}
  else if o = 0x14 then
    (let g := w.toNat % 8
     if s.hub.rolling = false ∨ s.hub.bootState ≠ 3 ∨ g = 0 ∨ 4 < g then s else restartGroup s g)
  else if o = 0x20 then recoveryWrite s (w.setWidth 64)
  else if o = 0x24 then recoveryWrite s (w.setWidth 64 <<< 32)
  else if 0x100 ≤ o ∧ o < 0x130 ∧ o % 8 = 0 then
    (if w.getLsbD 17 then setFw s ((o - 0x100) / 8) { getFw s ((o - 0x100) / 8) with stageFailed := false } else s)
  else if 0x10000 ≤ o ∧ o < 0x20000 then
    { s with hub := { s.hub with recBuf := Memory.writes s.hub.recBuf (o - 0x10000) (toLe 4 w.toNat) } }
  else s

/-- A write in the CMD block of a port's PF (R15, R283). -/
def cmdWord (s : State) (port : Port) (o : Nat) (w : W32) : State :=
  let f := Fn.pf port
  let x := getPort s port
  if o = 0x18 then errorWord s f w 0x3F
  else if o = 0x1C then maskWord s f w 0x3F
  else if o = 0x20 then (if x.lock then s else setPort s port { x with autoFailover := w.getLsbD 0 })
  else if o = 0x24 then setPort s port { x with lock := x.lock || w.getLsbD 0 }
  else if o = 0x28 then p0CfgWord s f w
  else if 0x10000 ≤ o ∧ o < 0x40000 then queuePage s f o w
  else s

/-- A write in the ENT block (R15, R348). -/
def entWord (s : State) (o : Nat) (w : W32) : State :=
  let e := s.entropy
  if o = 0x10 then { s with entropy := { e with error := clearBits e.error w } }
  else if o = 0x14 then { s with entropy := { e with errorMask := w.setWidth 4 } }
  else if o = 0x18 then (if e.lock then s else stallStrict { s with entropy := { e with strict := halfLow e.strict w } })
  else if o = 0x1C then (if e.lock then s else stallStrict { s with entropy := { e with strict := halfHigh e.strict w } })
  else if o = 0x20 then { s with entropy := { e with lock := e.lock || w.getLsbD 0 } }
  else s

/-- PWR.CTRL (R422, R423): doze by level, and then sleep. -/
def powerControl (s : State) (w : W32) : State :=
  let s1 := if w.getLsbD 0 then beginDoze { s with power := { s.power with doze := true } }
    else leaveDoze { s with power := { s.power with doze := false } }
  if w.getLsbD 1 then sleepWrite s1 else s1

/-- A write in the PWR block (R15, R432, R433). -/
def pwrWord (s : State) (o : Nat) (w : W32) : State :=
  let p := s.power
  if o = 0x04 then powerControl s w
  else if o = 0x08 then (if p.lock then s else { s with power := { p with limit := w.setWidth 10 } })
  else if o = 0x18 then realert { s with power := { p with error := clearBits p.error w } }
  else if o = 0x1C then realert { s with power := { p with errorMask := w.setWidth 4 } }
  else if o = 0x28 then { s with power := { p with lock := p.lock || w.getLsbD 0 } }
  else s

/-- A write in the REL block (R367, R390). -/
def relWord (s : State) (o : Nat) (w : W32) : State :=
  if o = 0x08 then { s with rel := { s.rel with error := clearBits s.rel.error w } }
  else if o = 0x0C then { s with rel := { s.rel with errorMask := w.setWidth 5 } }
  else if o = 0x100 then { s with islands := { s.islands with seen := clearBits s.islands.seen w } }
  else if o = 0x104 then
    { s with islands := { s.islands with seen := s.islands.seen &&& ~~~((w.setWidth 40) <<< 32) } }
  else s

/-- A write of word 0 of PRS.LINK[l] (R395, R410): the event clears and the mask is set before retrain acts, so an event of the
retraining itself stays set (R14). -/
def linkWord (s : State) (l : Nat) (w : W32) : State :=
  let k := getLink s l
  let s1 := setLink s l { k with event := k.event && !w.getLsbD 25, mask := w.getLsbD 26 }
  if w.getLsbD 24 then downLink s1 l true 0 else s1

/-- A write in a PF's BAR0 by block (R254). In recovery only HUB is decoded, and in boot hold only HUB of P0's PF (R415,
R421). -/
def pfWord (s : State) (port : Port) (o : Nat) (w : W32) : State :=
  if o < 0x100000 then hubWord s o w
  else if s.hub.bootState = 1 ∨ s.hub.bootState = 5 then s
  else if o < 0x500000 then cmdWord s port (o - 0x100000) w
  else if 0x600000 ≤ o ∧ o < 0x700000 then entWord s (o - 0x600000) w
  else if 0x700000 ≤ o ∧ o < 0x800000 then pwrWord s (o - 0x700000) w
  else if 0x800000 ≤ o ∧ o < 0x900000 then relWord s (o - 0x800000) w
  else if 0x900000 ≤ o ∧ o < 0x900040 ∧ o % 16 = 0 then linkWord s ((o - 0x900000) / 16) w
  else if 0xA00000 ≤ o ∧ o < 0xA00400 then msixWord s (.pf port) ((o - 0xA00000) / 16) (o % 16) w
  else s

/-- One naturally aligned 32-bit word of a write. -/
def writeWord (s : State) (f : Fn) (o : Nat) (w : W32) : State :=
  match f with
  | .pf port => pfWord s port o w
  | .vf _ _ => if s.hub.bootState = 1 ∨ s.hub.bootState = 5 then s else windowWord s f o w

/-- Is no register there: without power, in Sleep, and in tamper hold, where no link trains (R329, R424, R440)? -/
def registersOff (s : State) : Bool :=
  !s.pins.pwrgood || decide (s.power.state = .sleep) || decide (s.hub.bootState = 4)

/-- REGISTER_WRITE (R13 to R16, R256): a naturally aligned 32-bit or 64-bit write acts, a 64-bit one word by word from the
lower; any other access is ignored and sets bad_access, but for the bytes of a P0 descriptor. -/
def execRegisterWrite (fn : Fn) (offset : Nat) (width : Nat) (v : W64) (s : State) : Host.Outcome State Fault Refusal :=
  .next (
    if registersOff s then s
    else if inP0Page fn offset ∧ s.hub.bootState ≠ 1 ∧ s.hub.bootState ≠ 5 then
      p0Bytes s fn ((pageOffset fn offset - 0x30000) / 64) (pageOffset fn offset % 64) (toLe width v.toNat)
    else if (width ≠ 4 ∧ width ≠ 8) ∨ offset % width ≠ 0 then setFnError s fn 1
    else if width = 4 then writeWord s fn offset (v.setWidth 32)
    else if offset = 0x20 ∧ fnIsPf fn then recoveryWrite s v
    else writeWord (writeWord s fn offset (v.setWidth 32)) fn (offset + 4) ((v >>> 32).setWidth 32))

end Sys2Proof.Machine
end

