-- ==== Sys2Proof/Machine/Dispatch.lean ====
section
/-! DEFINITION. One arm per constructor of Instr. -/

namespace Sys2Proof.Machine

/-- What a command does to the state, its queue apart: one direct call of a meaning per row of the table. -/
def exec (i : Instr) (s : State) : Host.Outcome State Fault Refusal :=
  match i with
  | .partCreate ref => Sys2Proof.Machine.execPartCreate ref s
  | .partRelease ref => Sys2Proof.Machine.execPartRelease ref s
  | .scrubFillDone p => Sys2Proof.Machine.execScrubFillDone p s
  | .portFailover ref => Sys2Proof.Machine.execPortFailover ref s
  | .roundOpen ref buf => Sys2Proof.Machine.execRoundOpen ref buf s
  | .roundClose ref => Sys2Proof.Machine.execRoundClose ref s
  | .roundResume ref buf => Sys2Proof.Machine.execRoundResume ref buf s
  | .roundRetire ref => Sys2Proof.Machine.execRoundRetire ref s
  | .roundOutbuf ref => Sys2Proof.Machine.execRoundOutbuf ref s
  | .admitEnvelope ref header enc => Sys2Proof.Machine.execAdmit ref header enc s
  | .porterSegmentStage ref idx seg => Sys2Proof.Machine.execPorterSegmentStage ref idx seg s
  | .admissionPass cv ref idx => Sys2Proof.Machine.execAdmissionPass cv ref idx s
  | .admissionCommit ref => Sys2Proof.Machine.execAdmissionCommit ref s
  | .unmaskSeeds ref buf => Sys2Proof.Machine.execUnmaskSeeds ref buf s
  | .shareOutbuf ref => Sys2Proof.Machine.execShareOutbuf ref s
  | .shareVerify ref buf => Sys2Proof.Machine.execShareVerify ref buf s
  | .shareDrop ref => Sys2Proof.Machine.execShareDrop ref s
  | .shareCombine ref buf => Sys2Proof.Machine.execShareCombine ref buf s
  | .ctAdd ref => Sys2Proof.Machine.execCtAdd ref s
  | .ctPmul ref buf => Sys2Proof.Machine.execCtPmul ref buf s
  | .ctRot ref => Sys2Proof.Machine.execCtRot ref s
  | .ctLut ref => Sys2Proof.Machine.execCtLut ref s
  | .keyRotate ref => Sys2Proof.Machine.execKeyRotate ref s
  | .keyInstall ref buf => Sys2Proof.Machine.execKeyInstall ref buf s
  | .keysetLoad ref buf => Sys2Proof.Machine.execKeysetLoad ref buf s
  | .keysetUnload ref => Sys2Proof.Machine.execKeysetUnload ref s
  | .itinLoad ref buf => Sys2Proof.Machine.execItinLoad ref buf s
  | .itinUnload ref => Sys2Proof.Machine.execItinUnload ref s
  | .weightsLoad ref buf => Sys2Proof.Machine.execWeightsLoad ref buf s
  | .weightsReadBack ref => Sys2Proof.Machine.execWeightsReadBack ref s
  | .sessionStart ref buf => Sys2Proof.Machine.execSessionStart ref buf s
  | .sessionRecord ref buf => Sys2Proof.Machine.execSessionRecord ref buf s
  | .sessionEnd ref buf => Sys2Proof.Machine.execSessionEnd ref buf s
  | .attest ref nonce => Sys2Proof.Machine.execAttest ref nonce s
  | .fence ref => Sys2Proof.Machine.execFence ref s
  | .abort ref => Sys2Proof.Machine.execAbort ref s
  | .quiesceEnter ref => Sys2Proof.Machine.execQuiesceEnter ref s
  | .quiesceLeave ref => Sys2Proof.Machine.execQuiesceLeave ref s
  | .fwStage ref buf => Sys2Proof.Machine.execFwStage ref buf s
  | .debugSet ref buf => Sys2Proof.Machine.execDebugSet ref buf s
  | .sqTailDoorbell fn n v => Sys2Proof.Machine.execSqTailDoorbell fn n v s
  | .cqHeadDoorbell fn n v => Sys2Proof.Machine.execCqHeadDoorbell fn n v s
  | .descriptorFetch fn n raw => Sys2Proof.Machine.execDescriptorFetch fn n raw s
  | .p0Doorbell fn slot raw => Sys2Proof.Machine.execP0Doorbell fn slot raw s
  | .p0TagVerdict fn slot => Sys2Proof.Machine.execP0TagVerdict fn slot s
  | .sqEnable fn n => Sys2Proof.Machine.execSqEnable fn n s
  | .sqDisable fn n => Sys2Proof.Machine.execSqDisable fn n s
  | .cqEnable fn n => Sys2Proof.Machine.execCqEnable fn n s
  | .cqDisable fn n => Sys2Proof.Machine.execCqDisable fn n s
  | .registerWrite fn offset width v => Sys2Proof.Machine.execRegisterWrite fn offset width v s
  | .hubReset v boot => Sys2Proof.Machine.execHubReset v boot s
  | .i3cReset v boot => Sys2Proof.Machine.execI3cReset v boot s
  | .groupRestart v => Sys2Proof.Machine.execGroupRestart v s
  | .recoveryCtrl v boot => Sys2Proof.Machine.execRecoveryCtrl v boot s
  | .i3cRecoveryCtrl v boot => Sys2Proof.Machine.execI3cRecoveryCtrl v boot s
  | .i3cRecoveryData data => Sys2Proof.Machine.execI3cRecoveryData data s
  | .pwrDoze => Sys2Proof.Machine.execPwrDoze s
  | .dozeEntry => Sys2Proof.Machine.execDozeEntry s
  | .dozeExit cause => Sys2Proof.Machine.execDozeExit cause s
  | .pwrSleep => Sys2Proof.Machine.execPwrSleep s
  | .sleepWake boot => Sys2Proof.Machine.execSleepWake boot s
  | .i3cWake boot => Sys2Proof.Machine.execI3cWake boot s
  | .outsiderChallenge challenge => Sys2Proof.Machine.execOutsiderChallenge challenge s
  | .linkRetrain l => Sys2Proof.Machine.execLinkRetrain l s
  | .porushLinkOpen l t => Sys2Proof.Machine.execPorushLinkOpen l t s
  | .porushRetryTimer l => Sys2Proof.Machine.execPorushRetryTimer l s
  | .porushFlitReceive l flit => Sys2Proof.Machine.execPorushFlitReceive l flit s
  | .porushLaneFail l lane => Sys2Proof.Machine.execPorushLaneFail l lane s
  | .porushLinkFail l => Sys2Proof.Machine.execPorushLinkFail l s
  | .porushMessage l msg => Sys2Proof.Machine.execPorushMessage l msg s
  | .circuitJoin p member proof descDigest w => Sys2Proof.Machine.execCircuitJoin p member proof descDigest w s
  | .circuitVerdict p member client msg => Sys2Proof.Machine.execCircuitVerdict p member client msg s
  | .circuitStateChange p change => Sys2Proof.Machine.execCircuitStateChange p change s
  | .rowPartialMerge p row member partialWord => Sys2Proof.Machine.execRowPartialMerge p row member partialWord s
  | .pwrgoodAssert boot => Sys2Proof.Machine.execPwrgoodAssert boot s
  | .powerLoss => Sys2Proof.Machine.execPowerLoss s
  | .perstAssert port => Sys2Proof.Machine.execPerstAssert port s
  | .perstDeassert port => Sys2Proof.Machine.execPerstDeassert port s
  | .flrVf port n => Sys2Proof.Machine.execFlrVf port n s
  | .flrPf port => Sys2Proof.Machine.execFlrPf port s
  | .linkDown port => Sys2Proof.Machine.execLinkDown port s
  | .tamperAlarm source => Sys2Proof.Machine.execTamperAlarm source s
  | .thermalTrip => Sys2Proof.Machine.execThermalTrip s
  | .dutyEvaluation r => Sys2Proof.Machine.execDutyEvaluation r s
  | .canaryReading island c => Sys2Proof.Machine.execCanaryReading island c s
  | .ageingRecordWrite => Sys2Proof.Machine.execAgeingRecordWrite s
  | .entropySample bank oscillators => Sys2Proof.Machine.execEntropySample bank oscillators s
  | .bankRetest bank => Sys2Proof.Machine.execBankRetest bank s
  | .drbgInstantiate n => Sys2Proof.Machine.execDrbgInstantiate n s
  | .reseedServe n => Sys2Proof.Machine.execReseedServe n s
  | .drbgQueueRefill n => Sys2Proof.Machine.execDrbgQueueRefill n s
  | .drbgDraw n consumer => Sys2Proof.Machine.execDrbgDraw n consumer s
  | .watchdogExpiry clock => Sys2Proof.Machine.execWatchdogExpiry clock s
  | .crossingResync island islandSide => Sys2Proof.Machine.execCrossingResync island islandSide s
  | .coalesceTimer fn n => Sys2Proof.Machine.execCoalesceTimer fn n s
  | .eventPost t => Sys2Proof.Machine.execEventPost t s
  | .checkpointTake p cause => Sys2Proof.Machine.execCheckpointTake p cause s
  | .mirrorCopyDone p tile => Sys2Proof.Machine.execMirrorCopyDone p tile s
  | .checkpointExportDone p addr => Sys2Proof.Machine.execCheckpointExportDone p addr s
  | .enterUnmasking p => Sys2Proof.Machine.execEnterUnmasking p s
  | .enterFinishing p => Sys2Proof.Machine.execEnterFinishing p s
  | .enterExported p => Sys2Proof.Machine.execEnterExported p s
  | .secretReconstruct p client => Sys2Proof.Machine.execSecretReconstruct p client s
  | .unmaskTileDone p tile => Sys2Proof.Machine.execUnmaskTileDone p tile s
  | .finishPassDone p => Sys2Proof.Machine.execFinishPassDone p s
  | .applyTileCommit p tile => Sys2Proof.Machine.execApplyTileCommit p tile s
  | .imageWriteConfirm p image => Sys2Proof.Machine.execImageWriteConfirm p image s
  | .verifierRecord p client => Sys2Proof.Machine.execVerifierRecord p client s
  | .clientDecide p client => Sys2Proof.Machine.execClientDecide p client s
  | .refreshCommit p handle => Sys2Proof.Machine.execRefreshCommit p handle s
  | .keyDrainEnd p handle => Sys2Proof.Machine.execKeyDrainEnd p handle s
  | .reencryptionSweepEnd p => Sys2Proof.Machine.execReencryptionSweepEnd p s
  | .contextSwitch cv p => Sys2Proof.Machine.execContextSwitch cv p s
  | .stepDispatch cv => Sys2Proof.Machine.execStepDispatch cv s
  | .workStart cv p role args chain => Sys2Proof.Machine.execWorkStart cv p role args chain s
  | .stepBudgetEnd cv => Sys2Proof.Machine.execStepBudgetEnd cv s
  | .workEndComplete cv => Sys2Proof.Machine.execWorkEndComplete cv s
  | .ledgSaveAck cv => Sys2Proof.Machine.execLedgSaveAck cv s
  | .swapAtLedger cv => Sys2Proof.Machine.execSwapAtLedger cv s
  | .nop cv w => Sys2Proof.Machine.execNop cv w s
  | .set cv w => Sys2Proof.Machine.execSet cv w s
  | .addx cv w => Sys2Proof.Machine.execAddx cv w s
  | .subx cv w => Sys2Proof.Machine.execSubx cv w s
  | .mulx cv w => Sys2Proof.Machine.execMulx cv w s
  | .minx cv w => Sys2Proof.Machine.execMinx cv w s
  | .shx cv w => Sys2Proof.Machine.execShx cv w s
  | .andx cv w => Sys2Proof.Machine.execAndx cv w s
  | .cmp cv w => Sys2Proof.Machine.execCmp cv w s
  | .br cv w => Sys2Proof.Machine.execBr cv w s
  | .endWork cv w => Sys2Proof.Machine.execEndWork cv w s
  | .step cv w => Sys2Proof.Machine.execStep cv w s
  | .stepYield cv w => Sys2Proof.Machine.execStepYield cv w s
  | .sdesc cv w => Sys2Proof.Machine.execSdesc cv w s
  | .sset cv w => Sys2Proof.Machine.execSset cv w s
  | .lset cv w => Sys2Proof.Machine.execLset cv w s
  | .link cv w => Sys2Proof.Machine.execLink cv w s
  | .sweep cv w => Sys2Proof.Machine.execSweep cv w s
  | .wait cv w => Sys2Proof.Machine.execWait cv w s
  | .byp cv w => Sys2Proof.Machine.execByp cv w s
  | .openAead cv w => Sys2Proof.Machine.execOpenAead cv w s
  | .unpack cv w => Sys2Proof.Machine.execUnpack cv w s
  | .ksLoad cv w => Sys2Proof.Machine.execKsLoad cv w s
  | .ksFold cv w => Sys2Proof.Machine.execKsFold cv w s
  | .combAdd cv w => Sys2Proof.Machine.execCombAdd cv w s
  | .combSub cv w => Sys2Proof.Machine.execCombSub cv w s
  | .combMul cv w => Sys2Proof.Machine.execCombMul cv w s
  | .ledgAcc cv w => Sys2Proof.Machine.execLedgAcc cv w s
  | .ledgSwap cv w => Sys2Proof.Machine.execLedgSwap cv w s
  | .ledgSave cv w => Sys2Proof.Machine.execLedgSave cv w s
  | .ledgLoad cv w => Sys2Proof.Machine.execLedgLoad cv w s
  | .turn cv w => Sys2Proof.Machine.execTurn cv w s
  | .nttF cv w => Sys2Proof.Machine.execNttF cv w s
  | .nttI cv w => Sys2Proof.Machine.execNttI cv w s
  | .auto cv w => Sys2Proof.Machine.execAuto cv w s
  | .finRows cv w => Sys2Proof.Machine.execFinRows cv w s
  | .finNoise cv w => Sys2Proof.Machine.execFinNoise cv w s
  | .finScale cv w => Sys2Proof.Machine.execFinScale cv w s
  | .finClip cv w => Sys2Proof.Machine.execFinClip cv w s
  | .finApply cv w => Sys2Proof.Machine.execFinApply cv w s
  | .sealAead cv w => Sys2Proof.Machine.execSealAead cv w s
  | .hash cv w => Sys2Proof.Machine.execHash cv w s
  | .ksw cv w => Sys2Proof.Machine.execKsw cv w s
  | .refresh cv w => Sys2Proof.Machine.execRefresh cv w s
  | .faultDetected f => Sys2Proof.Machine.execFaultDetected f s
  | .tileRepair p tile primary mirror => Sys2Proof.Machine.execTileRepair p tile primary mirror s
  | .stewardRebuild p => Sys2Proof.Machine.execStewardRebuild p s
  | .queuePointerMismatch q => Sys2Proof.Machine.execQueuePointerMismatch q s
  | .islandWake island => Sys2Proof.Machine.execIslandWake island s
  | .roundStateDestroyed p => Sys2Proof.Machine.execRoundStateDestroyed p s
  | .islandClockReturn island => Sys2Proof.Machine.execIslandClockReturn island s
  | .dataLinkUp port => Sys2Proof.Machine.execDataLinkUp port s
  | .d3hotEntry port => Sys2Proof.Machine.execD3hotEntry port s
  | .attestationCertificateSigned => Sys2Proof.Machine.execAttestationCertificateSigned s

end Sys2Proof.Machine
end

