-- ==== Sys2Proof/Machine/Reads.lean ====
section
/-! DEFINITION. Register reads: what the registers of R254, R255, R282, R283, R311, R348, R367, R390, R410 and R433 and the I3C map of
R431 show of State, and what a read itself does (R13, R16, R256). The table has no row for a read (assumption 5), so no step runs
these: they say what State means to a host. -/

namespace Sys2Proof.Machine

-- ------------------------------------------------------------------ small parts

/-- A field of a register: its value in w bits, at bit lo. -/
def fieldAt (lo w v : Nat) : Nat := v % 2 ^ w * 2 ^ lo

/-- A register of several fields. -/
def regOf (l : List Nat) : W32 := BitVec.ofNat 32 (l.foldl (· + ·) 0)

/-- The low and high half of a 64-bit register. -/
def lowHalf (v : Nat) : W32 := BitVec.ofNat 32 v
def highHalf (v : Nat) : W32 := BitVec.ofNat 32 (v / 2 ^ 32)

/-- The power state as PWR.STATUS codes it (R433); Sleep shows no register there. -/
def PowerState.code : PowerState → Nat
  | .d0 => 0 | .doze => 1 | .waking => 2 | .sleep => 2

-- ------------------------------------------------------------------ queue pages (R255, R282)

/-- Is an SQ still shown as enabled: it is, or commands taken from it have not completed (SQn_STATUS.enabled, R282)? -/
def sqShown (s : State) (f : Fn) (n : Nat) : Bool :=
  (getSq s f n).enable || s.cmd.taken.any (fun t => decide (t.ref.fn = f ∧ t.ref.source = n))

/-- Word r of the registers of SQ n. -/
def readSq (s : State) (f : Fn) (n r : Nat) : W32 :=
  let q := getSq s f n
  match r with
  | 0x00 => lowHalf q.base.toNat
  | 0x04 => highHalf q.base.toNat
  | 0x08 => q.cfg
  | 0x0C => regOf [bn q.ctrl]
  | 0x10 => regOf [bn (sqShown s f n), fieldAt 1 1 (bn q.error), fieldAt 2 3 q.cause.toNat, fieldAt 16 16 q.head]
  | 0x18 => lowHalf q.taken.toNat
  | 0x1C => highHalf q.taken.toNat
  | _ => 0

/-- Word r of the registers of CQ n. -/
def readCq (s : State) (f : Fn) (n r : Nat) : W32 :=
  let q := getCq s f n
  match r with
  | 0x00 => lowHalf q.base.toNat
  | 0x04 => highHalf q.base.toNat
  | 0x08 => q.cfg
  | 0x0C => regOf [bn q.ctrl]
  | 0x10 => regOf [bn q.enable, fieldAt 1 1 (bn q.error), fieldAt 2 3 q.cause.toNat, fieldAt 5 1 (bn (!q.held.isEmpty)), fieldAt 16 16 q.tail]
  | _ => 0

/-- P0_SLOT_STATUS. -/
def readSlots (s : State) (f : Fn) : W32 :=
  regOf ((List.range 4).map (fun i => fieldAt i 1 (bn (getSlot s f i).busy) + fieldAt (4 + i) 1 (bn (getSlot s f i).overrun)))

/-- The queue and P0 pages of a function; the doorbells read 0 (WO, R13). -/
def readPage (s : State) (f : Fn) (o : Nat) : W32 :=
  if 0x10000 ≤ o ∧ o < 0x10200 then readSq s f ((o - 0x10000) / 32) (o % 32)
  else if 0x10200 ≤ o ∧ o < 0x10400 then readCq s f ((o - 0x10200) / 32) (o % 32)
  else if o = 0x30100 then readSlots s f
  else 0

/-- Word r of an MSI-X table entry (R254, R255; PCI Express base specification). -/
def readVector (s : State) (f : Fn) (v r : Nat) : W32 :=
  let m := Table.getD (getFn s f).msix v {}
  match r with
  | 0x0 => lowHalf m.address.toNat
  | 0x4 => highHalf m.address.toNat
  | 0x8 => m.data
  | 0xC => regOf [bn m.masked]
  | _ => 0

/-- Word k of a pending-bit array. -/
def readPending (s : State) (f : Fn) (k : Nat) : W32 :=
  regOf ((List.range 32).map (fun i => fieldAt i 1 (bn (Table.getD (getFn s f).msix (32 * k + i) {}).pending)))

-- ------------------------------------------------------------------ a VF's window (R282)

/-- PWIN.STATUS of VF p on a port, which CMD.VF_STATUS copies (R283). -/
def windowStatus (s : State) (port : Port) (p : Nat) : W32 :=
  let x := getPart s p
  regOf [bn (partExists s p), fieldAt 1 1 (bn (decide (x.serving = some port))), fieldAt 2 1 (bn (decide (x.phase = .scrubbing))),
    fieldAt 3 1 (bn x.quiesced), fieldAt 4 1 (bn (getPort s port).vc1), fieldAt 5 1 (bn x.latency),
    fieldAt 8 3 (roundStateOf s p).code]

/-- A word of a VF's window. -/
def readWindow (s : State) (port : Port) (p o : Nat) : W32 :=
  let f := Fn.vf port p
  let x := getPart s p
  if o = 0x00 then regOf [fieldAt 0 6 p, fieldAt 6 1 (portNat port), fieldAt 7 1 (bn (decide (x.home ≠ port))), fieldAt 8 8 1,
    fieldAt 16 3 x.steward]
  else if o = 0x04 then windowStatus s port p
  else if o = 0x08 then lowHalf x.counter.toNat
  else if o = 0x0C then highHalf x.counter.toNat
  else if o = 0x10 then regOf [(getFn s f).p0Cq.toNat]
  else if o = 0x14 then regOf [(getFn s f).error.toNat]
  else if o = 0x18 then regOf [(getFn s f).errorMask.toNat]
  else if o = 0x1C then regOf [if partExists s p then fieldAt 0 14 (reservedFree s (some p)) else 0x2000]
  else if 0x40000 ≤ o ∧ o < 0x401F0 then readVector s f ((o - 0x40000) / 16) (o % 16)
  else if o = 0x48000 then readPending s f 0
  else readPage s f o

-- ------------------------------------------------------------------ the PF's blocks

/-- CMD (R283). -/
def readCmd (s : State) (port : Port) (o : Nat) : W32 :=
  let f := Fn.pf port
  let x := getPort s port
  if o = 0x00 then regOf [1, fieldAt 8 8 Sys2Proof.Config.stepping.toNat]
  else if o = 0x04 then regOf [0x40, fieldAt 8 5 0x10, fieldAt 16 3 4, fieldAt 19 1 (bn (decide (s.hub.config = 1)))]
  else if o = 0x08 then regOf [bn x.linkUp, fieldAt 1 1 (bn x.flitMode), fieldAt 2 1 (bn x.vc1),
    fieldAt 3 1 (bn (s.cmd.fns.any (fun e => decide (fnPort e.1 = port) && !e.2.ideKeys.isEmpty))),
    fieldAt 4 1 (bn (getPort s (otherPort port)).linkUp), fieldAt 8 4 x.speed.toNat, fieldAt 12 5 x.width.toNat]
  else if o = 0x0C then regOf [fieldAt 0 13 (queuesUsed s)]
  else if o = 0x10 then regOf [fieldAt 0 21 s.cmd.sharedFree, fieldAt 21 1 (bn s.cmd.bulkClosed), fieldAt 22 1 (bn s.cmd.allClosed)]
  else if o = 0x14 then regOf [fieldAt 0 12 (s.cmd.p0SlotFree + s.cmd.p0OtherFree)]
  else if o = 0x18 then regOf [(getFn s f).error.toNat]
  else if o = 0x1C then regOf [(getFn s f).errorMask.toNat]
  else if o = 0x20 then regOf [bn x.autoFailover]
  else if o = 0x24 then regOf [bn x.lock]
  else if o = 0x28 then regOf [(getFn s f).p0Cq.toNat]
  else if 0x40000 ≤ o ∧ o < 0x40400 then (if o % 16 = 0 then windowStatus s port ((o - 0x40000) / 16) else 0)
  else readPage s f o

/-- Granules of the device whose scrub runs (PDIR.FREE.scrubbing_granules, R311). -/
def scrubbingGranules (s : State) : Nat :=
  (s.hbm.gran.filter (fun e => match e.2 with | .scrubbing _ => true | _ => false)).length

/-- Installed keys of kinds 0x01 to 0x04 (PDIR.PART.installed_keys, R291). -/
def installedKeys (x : Partition) : Nat :=
  (x.keys.filter (fun e => decide (1 ≤ e.1.toNat / 2 ^ 24 ∧ e.1.toNat / 2 ^ 24 ≤ 4))).length

/-- PDIR (R311). -/
def readPdir (s : State) (o : Nat) : W32 :=
  if o = 0x00 then regOf [fieldAt 0 2 s.hub.config, fieldAt 2 1 (bn s.keeper.locked)]
  else if o = 0x04 then regOf [fieldAt 0 8 (freeGran s 0), fieldAt 8 8 (freeGran s 1), fieldAt 16 9 (scrubbingGranules s)]
  else if 0x10000 ≤ o ∧ o < 0x10400 then
    (let x := getPart s ((o - 0x10000) / 16)
     match o % 16 with
     | 0x0 => regOf [bn (decide (x.phase ≠ .absent)), fieldAt 1 1 (bn (decide (x.phase = .scrubbing))), fieldAt 2 1 (portNat x.home),
         fieldAt 3 1 (bn x.latency), fieldAt 4 1 (bn x.oldLive), fieldAt 5 3 x.steward, fieldAt 8 8 x.gran0.length,
         fieldAt 16 8 x.gran1.length]
     | 0x4 => lowHalf x.epoch
     | 0x8 => lowHalf x.scrubMiB
     | 0xC => regOf [fieldAt 0 11 (installedKeys x)]
     | _ => 0)
  else 0

/-- ENT.STATUS.no_source: 1 while no bank is HEALTHY, and its reset value 0 until PWRGOOD rises (R348; DEDUCED, assumption 161). -/
def noSource (s : State) : Bool := s.pins.pwrgood && !anyHealthy s

/-- ENT (R348). -/
def readEnt (s : State) (o : Nat) : W32 :=
  let e := s.entropy
  let count := fun (c : Drbg → Bool) => ((List.range 65).filter (fun n => c (getInst s n))).length
  if o = 0x00 then regOf ([bn (getInst s 64).live, fieldAt 5 1 (bn (noSource s)), fieldAt 6 2 (e.active.getD 0), fieldAt 8 5 e.seeds.length,
      fieldAt 13 7 (count (fun d => decide (65536 < d.interval))), fieldAt 20 7 (count (fun d => d.stalled))]
      ++ (List.range 4).map (fun b => fieldAt (1 + b) 1 (bn (decide ((getBank s b).state = .healthy)))))
  else if o = 0x10 then regOf [e.error.toNat]
  else if o = 0x14 then regOf [e.errorMask.toNat]
  else if o = 0x18 then lowHalf e.strict.toNat
  else if o = 0x1C then highHalf e.strict.toNat
  else if o = 0x20 then regOf [bn e.lock]
  else if 0x100 ≤ o ∧ o < 0x110 then
    (let b := getBank s ((o - 0x100) / 4)
     regOf [fieldAt 0 2 b.state.code, fieldAt 2 2 b.failures, fieldAt 4 1 (bn b.lastRct), fieldAt 5 1 (bn b.lastApt)])
  else 0

/-- Word r of a fault-log entry (R390). -/
def readLog (e : LogEntry) (r : Nat) : W32 :=
  match r with
  | 0x00 => lowHalf e.time
  | 0x04 => highHalf e.time
  | 0x08 => regOf [fieldAt 0 8 e.kind, fieldAt 8 8 e.index, fieldAt 16 8 e.mechanism, fieldAt 24 8 e.partition]
  | 0x0C => regOf [fieldAt 0 8 e.outcome]
  | _ => lowHalf (e.values.toNat / 2 ^ (8 * (r - 0x10)))

/-- A performance counter to which the spec gives no content: 0 in confidential mode, else a free value (R305, R390). -/
def readCounter (s : State) (o : Nat) : W32 :=
  if s.hub.config = 1 then 0 else (Sys2Proof.Config.freeWord (s.freeCount + o)).setWidth 32

/-- REL (R367, R390). -/
def readRel (s : State) (o : Nat) : W32 :=
  let x := s.rel
  let count := fun (n v : Nat) => ((List.range n).filter (fun i => bitAt v i)).length
  if o = 0x00 then regOf [bn x.containing, fieldAt 1 1 (bn x.degraded), fieldAt 2 6 (count 48 x.caravans.toNat),
    fieldAt 8 3 (count 8 x.stewards.toNat)]
  else if o = 0x08 then regOf [x.error.toNat]
  else if o = 0x0C then regOf [x.errorMask.toNat]
  else if o = 0x10 then x.corrected
  else if o = 0x14 then x.detected
  else if o = 0x18 then lowHalf x.caravans.toNat
  else if o = 0x1C then highHalf x.caravans.toNat
  else if o = 0x20 then regOf [x.stewards.toNat, fieldAt 8 8 x.x25519.toNat, fieldAt 16 8 x.pseudo, fieldAt 24 8 x.lostStacks.toNat]
  else if o = 0x28 then regOf [fieldAt 0 7 x.worstIsland, fieldAt 7 1 (bn x.exhausted), fieldAt 8 10 x.worstMargin,
    fieldAt 18 10 x.worstVolt]
  else if o = 0x30 then regOf [fieldAt 0 8 x.logHead]
  else if o = 0x100 then lowHalf s.islands.seen.toNat
  else if o = 0x104 then highHalf s.islands.seen.toNat
  else if o = 0x108 then lowHalf s.islands.stalled.toNat
  else if o = 0x10C then highHalf s.islands.stalled.toNat
  else if 0x1000 ≤ o ∧ o < 0x3000 then
    (match Table.get? x.log ((o - 0x1000) / 32) with
     | none => 0
     | some e => readLog e (o % 32))
  else if 0x10000 ≤ o ∧ o < 0x20000 then readCounter s o
  else 0

/-- PRS.LINK (R410). -/
def readPrs (s : State) (o : Nat) : W32 :=
  if 0x40 ≤ o then 0
  else
    let k := getLink s (o / 16)
    match o % 16 with
    | 0x0 => regOf [bn k.up, fieldAt 1 1 (bn k.narrow), fieldAt 2 4 k.cause, fieldAt 8 8 k.version, fieldAt 16 8 k.failed.toNat,
        fieldAt 25 1 (bn k.event), fieldAt 26 1 (bn k.mask)]
    | 0x4 => lowHalf k.partner.toNat
    | 0x8 => highHalf k.partner.toNat
    | 0xC => k.replays
    | _ => 0

/-- HUB.BOOT_CAUSE and HUB.RECOVERY_STATUS, which the I3C map shows as well (R431, R433). -/
def bootCauseWord (s : State) : W32 := regOf [fieldAt 0 4 s.hub.cause, fieldAt 4 3 s.hub.causeGroup, fieldAt 7 1 (bn s.hub.warm)]
def recoveryWord (s : State) : W32 := regOf [fieldAt 0 2 s.hub.recState, fieldAt 2 1 (bn s.hub.recI3c)]

/-- HUB (R433). -/
def readHub (s : State) (o : Nat) : W32 :=
  if o = 0x00 then regOf [fieldAt 0 3 s.hub.bootState, fieldAt 3 1 (bn s.keeper.identity), fieldAt 4 1 (bn s.hub.rolling),
    fieldAt 5 1 (bn s.hub.restartBusy)]
  else if o = 0x04 then bootCauseWord s
  else if o = 0x28 then recoveryWord s
  else if 0x100 ≤ o ∧ o < 0x130 then
    (let g := getFw s ((o - 0x100) / 8)
     if o % 8 = 0 then regOf [fieldAt 0 16 g.version, fieldAt 16 1 (bn g.slot), fieldAt 17 1 (bn g.stageFailed)] else lowHalf g.sequence)
  else 0

/-- PWR.TEMP and PWR.POWER, which the I3C map shows as well (R431, R433). -/
def tempWord (s : State) : W32 := regOf [s.power.temp0.toNat, fieldAt 8 8 s.power.temp1.toNat, fieldAt 16 8 s.power.tempH.toNat]
def powerWord (s : State) : W32 := regOf [fieldAt 0 10 s.power.power]

/-- PWR (R433): THROTTLED counts milliseconds, of which State keeps hundredths, and saturates. -/
def readPwr (s : State) (o : Nat) : W32 :=
  let p := s.power
  let ms := min (p.throttled / 100) (2 ^ 64 - 1)
  if o = 0x00 then regOf [p.state.code, fieldAt 2 5 p.duty0, fieldAt 7 5 p.duty1]
  else if o = 0x04 then regOf [bn p.doze]
  else if o = 0x08 then regOf [p.limit.toNat]
  else if o = 0x0C then tempWord s
  else if o = 0x10 then powerWord s
  else if o = 0x18 then regOf [p.error.toNat]
  else if o = 0x1C then regOf [p.errorMask.toNat]
  else if o = 0x20 then lowHalf ms
  else if o = 0x24 then highHalf ms
  else if o = 0x28 then regOf [bn p.lock]
  else if 0x10000 ≤ o ∧ o < 0x103C0 then
    (let i := (o - 0x10000) / 8
     if s.hub.config = 1 ∨ o % 8 ≠ 0 then 0
     else regOf [fieldAt 0 16 (Table.getD s.islands.volts i 850), fieldAt 16 16 (Table.getD s.islands.lastProj i 0)])
  else 0

/-- A word of a PF's BAR0 (R254). In recovery and in boot hold only HUB is decoded (R415, R421). -/
def readPf (s : State) (port : Port) (o : Nat) : W32 :=
  if o < 0x100000 then readHub s o
  else if s.hub.bootState = 1 ∨ s.hub.bootState = 5 then 0
  else if o < 0x500000 then readCmd s port (o - 0x100000)
  else if o < 0x600000 then readPdir s (o - 0x500000)
  else if o < 0x700000 then readEnt s (o - 0x600000)
  else if o < 0x800000 then readPwr s (o - 0x700000)
  else if o < 0x900000 then readRel s (o - 0x800000)
  else if o < 0xA00000 then readPrs s (o - 0x900000)
  else if o < 0xA00400 then readVector s (.pf port) ((o - 0xA00000) / 16) (o % 16)
  else if o = 0xA08000 then readPending s (.pf port) 0
  else if o = 0xA08004 then readPending s (.pf port) 1
  else 0

/-- The value of the 32-bit word at an offset of a function's BAR0; a reserved word reads 0 (R16). -/
def readWord (s : State) (f : Fn) (o : Nat) : W32 :=
  match f with
  | .pf port => readPf s port o
  | .vf port p => if s.hub.bootState = 1 ∨ s.hub.bootState = 5 then 0 else readWindow s port p o

-- ------------------------------------------------------------------ what a read does (R256)

/-- Is there the low half of a 64-bit register (R256, R282, R348, R367, R390, R433)? -/
def isWide (f : Fn) (o : Nat) : Bool :=
  let page := pageOffset f o
  let queue := decide ((0x10000 ≤ page ∧ page < 0x10200 ∧ (page % 32 = 0 ∨ page % 32 = 0x18))
    ∨ (0x10200 ≤ page ∧ page < 0x10400 ∧ page % 32 = 0))
  if fnIsPf f then
    (decide (0x100000 ≤ o ∧ o < 0x500000) && queue) || decide (0x100 ≤ o ∧ o < 0x130 ∧ o % 8 = 0)
      || [0x600018, 0x700020, 0x800010, 0x800018, 0x800100, 0x800108].contains o || decide (0x801000 ≤ o ∧ o < 0x803000 ∧ o % 32 = 0)
  else queue || decide (o = 0x08)

/-- A read of the fault log: the entry counts as read (R390; that one word is enough is DEDUCED, assumption 39). -/
def markRead (s : State) (f : Fn) (o : Nat) : State :=
  if fnIsPf f ∧ 0x801000 ≤ o ∧ o < 0x803000 then
    match Table.get? s.rel.log ((o - 0x801000) / 32) with
    | none => s
    | some e => { s with rel := { s.rel with log := Table.put s.rel.log ((o - 0x801000) / 32) { e with unread := false } } }
  else s

/-- A host read and the value it returns (R13, R16, R256): a naturally aligned 32-bit or 64-bit read returns the register; of a 64-bit
register a 32-bit read of the low half latches the high half for the next read of that half. Any other read returns 0 and sets
bad_access. Where no register is there, the value stands for no answer. -/
def hostRead (s : State) (f : Fn) (o width : Nat) : State × W64 :=
  if registersOff s then (s, 0)
  else if (width ≠ 4 ∧ width ≠ 8) ∨ o % width ≠ 0 then (setFnError s f 1, 0)
  else
    let s1 := markRead s f o
    let x := getFn s1 f
    if width = 8 then (s1, (readWord s f (o + 4)).setWidth 64 <<< 32 ||| (readWord s f o).setWidth 64)
    else if isWide f o then
      (setFn s1 f { x with latch := Table.put x.latch (o + 4) (readWord s f (o + 4)) }, (readWord s f o).setWidth 64)
    else match Table.get? x.latch o with
      | some v => (setFn s1 f { x with latch := Table.erase x.latch o }, v.setWidth 64)
      | none => (s1, (readWord s f o).setWidth 64)

-- ------------------------------------------------------------------ output pins (R442)

/-- The output and bidirectional pins of R442. -/
inductive OutPin where
  | portTx (p : Port) | prsTx | spiSck | spiCs | i3cSda | tdo | tamperOut | thermtrip | alert
  deriving DecidableEq, Repr

/-- The states that a pin can hold (R442): an open-drain output is released or low. -/
inductive PinLevel where
  | highImpedance | functional | electricalIdle | low | high | released
  deriving DecidableEq, Repr

/-- What a pin does while the device is in D0 or Doze, with no thermal trip (R305, R330, R432, R442). -/
def runningPin (s : State) : OutPin → PinLevel
  | .tdo => if s.hub.config = 1 then .highImpedance else .functional
  | .tamperOut => if s.pins.tamperOut then .high else .low
  | .thermtrip => .released
  | .alert => if s.pins.alert then .low else .released
  | _ => .functional

/-- A pin whose port, link, flash or test function is off: Sleep and tamper hold (R442). -/
def quietPin : OutPin → PinLevel
  | .portTx _ | .prsTx => .electricalIdle
  | .spiSck => .low
  | .spiCs => .high
  | .tdo => .highImpedance
  | .i3cSda => .functional
  | .tamperOut => .high
  | .thermtrip => .released
  | .alert => .low

/-- The state of an output pin, column by column of R442. -/
def pinLevel (s : State) (k : OutPin) : PinLevel :=
  if s.pins.pwrgood = false then
    match k with
    | .portTx _ | .prsTx | .i3cSda | .tdo => .highImpedance
    | .spiSck | .tamperOut => .low
    | .spiCs => .high
    | .thermtrip | .alert => .released
  else if s.pins.thermtrip then
    match k with
    | .thermtrip => .low
    | .tamperOut => runningPin s k
    | _ => quietPin k
  else if s.hub.bootState = 4 then quietPin k
  else if s.power.state = .sleep then
    match k with
    | .tamperOut => runningPin s k
    | .alert => .released
    | _ => quietPin k
  else runningPin s k

-- ------------------------------------------------------------------ I3C (R431)

/-- STATUS of the I3C map: power state 2 means Sleep, and a return from Doze shows as Doze (DEDUCED, assumption 5). -/
def i3cStatus (s : State) : W32 :=
  regOf [fieldAt 0 3 s.hub.bootState, fieldAt 3 1 (bn s.i3c.response.isSome), fieldAt 4 1 (bn s.keeper.tamperHold),
    fieldAt 5 1 (bn s.keeper.locked), fieldAt 6 2 s.hub.config,
    fieldAt 8 2 (match s.power.state with | .d0 => 0 | .doze => 1 | .waking => 1 | .sleep => 2),
    fieldAt 10 5 (min s.power.duty0 s.power.duty1)]

/-- TELEMETRY of the selected partition: its counts, and nine occupancies that are free values in percent (R431). -/
def telemetryBytes (s : State) : Bytes :=
  let x := getPart s s.i3c.sel.toNat
  toLe 8 x.admissions ++ toLe 8 x.envBytes ++ toLe 4 x.retiredCnt
    ++ (List.range 9).map (fun i => BitVec.ofNat 8 ((Sys2Proof.Config.freeWord (s.freeCount + i)).toNat % 101)) ++ zeroBytes 3

/-- A private read at a register index of the I3C target (R431): in Sleep and tamper hold only STATUS and RESPONSE; write-only and
unlisted registers read as nothing. -/
def i3cRead (s : State) (index : Nat) : Bytes :=
  if index = 0x000 then toLe 4 (i3cStatus s).toNat
  else if index = 0x060 then s.i3c.response.getD []
  else if s.power.state = .sleep ∨ s.keeper.tamperHold = true then []
  else if index = 0x004 then toLe 4 (bootCauseWord s).toNat
  else if index = 0x008 then toLe 4 (tempWord s).toNat
  else if index = 0x00C then toLe 4 (powerWord s).toNat
  else if index = 0x010 then toLe 4 s.i3c.sel.toNat
  else if index = 0x020 then telemetryBytes s
  else if index = 0x0A0 then toLe 4 (recoveryWord s).toNat
  else []

/-- A write of TELEMETRY_SEL (R431). -/
def i3cSelect (s : State) (v : W32) : State := { s with i3c := { s.i3c with sel := v.setWidth 6 } }

end Sys2Proof.Machine
end

