-- ==== Sys2Proof/Safety.lean ====
section
/-! DEFINITION. The terms in which statements are made: what a command that completes is, which parts of the state a step leaves as
they were, and the invariants that every step keeps. -/

namespace Sys2Proof.Safety

open Sys2Proof.Machine

-- ------------------------------------------------------------------ completing

/-- The command answers a next state, of which P holds. -/
def Completes (i : Instr) (s : State) (P : State → Prop) : Prop := ∃ u, exec i s = .next u ∧ P u

/-- A command of the opcode was taken under the reference, is neither waiting for its end nor for the Keeper's verdict, and its turn in the
order of submission has come. -/
def Ready (s : State) (ref : CmdRef) (op : Nat) (t : Taken) : Prop :=
  findTaken s ref = some t ∧ t.desc.opcode = op ∧ t.waiting = false ∧ t.unproved = false ∧ inOrder s t = true

/-- A management command that is ready, and that the Keeper's mailboxes deliver next or have delivered already. -/
def KeeperReady (s : State) (ref : CmdRef) (op : Nat) (t : Taken) : Prop :=
  Ready s ref op t ∧ (t.begun = false → (keeperNext s).map (fun x => x.order) = some t.order)

/-- The state in which the Keeper serves it: the mailbox that it came from has been served. -/
def keeperServed (s : State) (t : Taken) : State :=
  if t.begun then s
  else { s with keeper := { s.keeper with lastServed := Table.put s.keeper.lastServed t.cls.prio (keeperBox s t) } }

/-- Such a command, for partition p. -/
def KeeperReadyOn (s : State) (ref : CmdRef) (op : Nat) (t : Taken) (p : Nat) : Prop := KeeperReady s ref op t ∧ t.part = some p

/-- Ready, and for partition p. -/
def ReadyOn (s : State) (ref : CmdRef) (op : Nat) (t : Taken) (p : Nat) : Prop := Ready s ref op t ∧ t.part = some p

/-- The command answers the state in which its effect v, of which P holds, stands and its completion is posted with OK and the
results. What posting does is said once, of complete itself. -/
def Succeeds (i : Instr) (s : State) (t : Taken) (r : Results) (P : State → Prop) : Prop :=
  ∃ v, exec i s = .next (complete v t .ok r) ∧ P v

/-- The partition's current round, which a round command's params name. -/
def NamedRound (s : State) (p : Nat) (t : Taken) (r : Round) : Prop :=
  getRound s p = some r ∧ r.desc.roundId.toNat = t.desc.param 0 4

/-- The round belongs to no circuit: one package runs it. -/
def Alone (r : Round) : Prop := r.circuit = none

/-- The turn of a CT command of partition p has come: it is ready, the partition may step, nothing of its channel is before it, no write
that it reads after is pending, a caravan has room for a step of its class, its record passed its checks, and it has made no private
copy. -/
def CtTurn (s : State) (ref : CmdRef) (op : Nat) (t : Taken) (p : Nat) (r : Round) (k : KeySet) : Prop :=
  ReadyOn s ref op t p ∧ canStep s p = true ∧ ctRound s p = some (r, k) ∧ channelBusy s p t = false ∧ ctBlocked s p t = false ∧
  stepRoom s t.cls = true ∧ (op ≠ 0x0602 → (Table.getD (getPart s p).plains t.order (.ok, [])).1 = .ok) ∧ t.inserted = [] ∧
  ∀ e, e ∈ (getPart s p).store → e.1 / 2 ^ 32 ≠ t.order + 1

/-- Is the channel of a CT command a leveled one? -/
def leveledChannel (r : Round) (t : Taken) : Bool := r.desc.leveled.getLsbD (t.desc.channel.toNat % 64)

/-- No release waits for a running step to end. -/
def NoneErasing (s : State) : Prop := ∀ p, (getPart s p).erasing = false

/-- No CQ of the function's partition, or of the PFs, holds a completion back. -/
def NoneHeld (s : State) (f : Fn) : Prop := ∀ g m, fnPart g = fnPart f → (getCq s g m).held = []

/-- No command waits for its end. -/
def NoneWaits (s : State) : Prop := ∀ t, t ∈ s.cmd.taken → t.waiting = false

-- ------------------------------------------------------------------ frames

/-- The kinds of state; the outputs are with the crossings that hold them back. -/
inductive Comp where
  | pending | ports | fns | taken | cells | parts | partCells | keeper | hub | flash | hbm | entropy | caravans
  | rel | islands | power | pins | i3c | porush | outputs | free
  deriving DecidableEq, Repr

/-- A partition's own content: all of it but the cells it has drawn and its held events, which any completion may change. -/
def own (x : Partition) : Partition := { x with cellsUsed := 0, events := [] }

/-- A kind of state is the same in both states. -/
def Comp.same : Comp → State → State → Prop
  | .pending, s, u => u.pending = s.pending
  | .ports, s, u => u.cmd.port0 = s.cmd.port0 ∧ u.cmd.port1 = s.cmd.port1
  | .fns, s, u => u.cmd.fns = s.cmd.fns
  | .taken, s, u => u.cmd.taken = s.cmd.taken ∧ u.cmd.nextOrder = s.cmd.nextOrder
  | .cells, s, u => u.cmd.sharedFree = s.cmd.sharedFree ∧ u.cmd.bulkClosed = s.cmd.bulkClosed
      ∧ u.cmd.allClosed = s.cmd.allClosed ∧ u.cmd.p0SlotFree = s.cmd.p0SlotFree
      ∧ u.cmd.p0OtherFree = s.cmd.p0OtherFree ∧ u.cmd.events = s.cmd.events
  | .parts, s, u => ∀ p, own (getPart u p) = own (getPart s p)
  | .partCells, s, u => ∀ p, (getPart u p).cellsUsed = (getPart s p).cellsUsed ∧ (getPart u p).events = (getPart s p).events
  | .keeper, s, u => u.keeper = s.keeper
  | .hub, s, u => u.hub = s.hub
  | .flash, s, u => u.flash = s.flash
  | .hbm, s, u => u.hbm = s.hbm
  | .entropy, s, u => u.entropy = s.entropy
  | .caravans, s, u => u.caravans = s.caravans
  | .rel, s, u => u.rel = s.rel
  | .islands, s, u => u.islands = s.islands
  | .power, s, u => u.power = s.power
  | .pins, s, u => u.pins = s.pins
  | .i3c, s, u => u.i3c = s.i3c
  | .porush, s, u => u.porush = s.porush
  | .outputs, s, u => u.outputs = s.outputs ∧ u.crossings = s.crossings
  | .free, s, u => u.freeCount = s.freeCount

/-- Every kind of state but those listed is unchanged. -/
def Keeps (l : List Comp) (s u : State) : Prop := ∀ c : Comp, c ∉ l → c.same s u

/-- Every partition but p is unchanged. -/
def OnlyPart (p : Nat) (s u : State) : Prop := ∀ q, q ≠ p → getPart u q = getPart s q

/-- Every caravan but cv is unchanged. -/
def OnlyCv (cv : Nat) (s u : State) : Prop := ∀ k, k ≠ cv → getCv u k = getCv s k

/-- A round of which nothing has changed but how far its unmasks have come, what its applies have staged and its exports sealed, and the
journal space in use. -/
def SameButProgress (r x : Round) : Prop :=
  { x with tiles := r.tiles, jUse0 := r.jUse0, jUse1 := r.jUse1, finish := { x.finish with sealed := r.finish.sealed } } = r ∧
  ∀ t, { getTile x t with groups := (getTile r t).groups, unmaskers := (getTile r t).unmaskers, staging := (getTile r t).staging } = getTile r t

/-- Every key of the device is zero (R330): those of partitions, sessions and rounds, the stages' key slots and seed stores, which go with the
caravans' works, the XTS engines, the identity cache, the DRBG instances and the seed buffer, the links. -/
def KeysZeroed (s u : State) : Prop :=
  (∀ p, (getPart u p).keys = [] ∧ (getPart u p).cmdKey = none ∧ (getPart u p).drains = [] ∧ (getPart u p).session.live = false ∧
    (getPart u p).session.prk = [] ∧ (getPart u p).session.number = (getPart s p).session.number ∧ (getPart u p).oldLive = false ∧
    (getPart u p).opening = none ∧
    (∀ r, getRound u p = some r → r.secret = [] ∧ r.engineKeys = none ∧ r.finish.kNoise = none ∧ r.finish.imgKeys = [])) ∧
  (∀ cv, (getCv u cv).slots = [] ∧ (getCv u cv).staged = [] ∧ (getCv u cv).work = none ∧ (getCv u cv).openBuf = [] ∧
    (getCv u cv).sealBuf = []) ∧
  u.hbm.xts = [] ∧ u.keeper.cache = [] ∧ (∀ n, n ≤ 64 → (getInst u n).live = false) ∧ u.entropy.seeds = [] ∧
  (∀ l, l < 4 → (getLink u l).up = false ∧ (getLink u l).key = []) ∧ u.keeper.pendingEk = [] ∧ u.keeper.identity = false

-- ------------------------------------------------------------------ the Sequencer

/-- The Sequencer of a caravan can issue the word of an opcode and its fields now, for the work w of round r: a step runs with both
budgets left, the work has neither ended nor stopped, no library routine runs, the stages it uses are at operating voltage, and the word
stands at the program counter. -/
def CanIssue (s : State) (cv op : Nat) (f : FWord) (w : Work) (r : Round) : Prop :=
  (getCv s cv).work = some w ∧ getRound s w.part = some r ∧ (getCv s cv).stepping = true ∧ w.stopped = false ∧ w.ending = none ∧
  w.library = none ∧ (getCv s cv).issued < 15000 ∧ 0 < (getCv s cv).entryLeft ∧
  stagesUp s cv op = true ∧ (programOf (getPart s w.part) w)[w.regs.pc.toNat]? = some (wordOf op f)

/-- The caravan after one issue of its work w: one more instruction counted, its page filled, and the work v in its place. -/
def issuedCv (c : Caravan) (w v : Work) : Caravan :=
  { c with issued := c.issued + 1, pages := c.pages ||| ((1 : BitVec 16) <<< (w.regs.pc.toNat / 256)), work := some v }

/-- One instruction has issued, it has left the work v, and nothing else of the block has changed. -/
def Issued (s : State) (cv : Nat) (w v : Work) (u : State) : Prop :=
  getCv u cv = issuedCv (getCv s cv) w v ∧ OnlyCv cv s u ∧ Keeps [.caravans] s u

/-- The registers with the program counter at the next instruction. -/
def nextPc (g : SeqRegs) : SeqRegs := { g with pc := g.pc + 1 }

/-- The work with the program counter at the next instruction. -/
def nextWork (w : Work) : Work := { w with regs := nextPc w.regs }

/-- Whenever the instruction can issue, it issues, and the registers are next of what they were. -/
def Computes (op : Nat) (mk : Nat → FWord → Instr) (next : FWord → SeqRegs → SeqRegs) : Prop :=
  ∀ (s : State) (cv : Nat) (f : FWord) (w : Work) (r : Round), CanIssue s cv op f w r →
    Completes (mk cv f) s (Issued s cv w { w with regs := next f (nextPc w.regs) })

/-- What a marker keeps of its issue: its word and the registers it read. -/
def armed (op : Nat) (f : FWord) (g : SeqRegs) : Arm :=
  { word := f, op := op, xa := getX g f.srcA, xb := getX g f.srcB, sa := getS g f.srcA, sd := getS g f.dst }

/-- Whenever the marker can issue and ok holds, it arms its stage for the sweeps after it. -/
def Arms (op : Nat) (mk : Nat → FWord → Instr) (ok : FWord → Work → Round → Prop) (arm : Chain → Arm → Chain) : Prop :=
  ∀ (s : State) (cv : Nat) (f : FWord) (w : Work) (r : Round), CanIssue s cv op f w r → ok f w r →
    Completes (mk cv f) s (Issued s cv w { nextWork w with chain := arm w.chain (armed op f w.regs) })

/-- A partition without its work spaces, the words of its weight image, its ciphertext store, its round, its events and its cells. -/
def besides (x : Partition) : Partition :=
  { x with spaces := [], weights := x.weights.map (fun y => { y with flat := [] }), store := [], round := none, events := [], cellsUsed := 0 }

/-- A ciphertext store without the private copies that a work on a caravan made (R190). -/
def withoutCopies (cv : Nat) (l : Table Nat Cipher) : Table Nat Cipher := l.filter (fun e => decide (e.1 / 2 ^ 32 ≠ 2 ^ 40 + cv + 1))

/-- A work fault: the work issues nothing further, both sets and what the chain holds are discarded; of a round that no ABORT has ended,
nothing can follow but ABORT, an event carries the status, and the private copies that the work made are gone; what had issued before has
left the chain, so streams may have been written, the weight image among them, and with nothing in the chain none has; and nothing else
changes. -/
def Stops (s : State) (cv : Nat) (w : Work) (st : Status) (u : State) : Prop :=
  (∃ v, (getCv u cv).work = some v ∧ v.stopped = true ∧ v.setA = {} ∧ v.setB = {} ∧ v.flow = [] ∧ v.shadowQ = [] ∧
    v.draining = none ∧ v.regs = nextPc w.regs ∧ v.chain = w.chain ∧ v.part = w.part ∧ v.role = w.role ∧ v.args = w.args) ∧
  (∃ r, getRound s w.part = some r ∧
    (r.state ≠ .aborted → getRound u w.part = some { r with lost := true } ∧
      (∃ e, e ∈ (getPart u w.part).events ∧ e.kind = .roundStatus ∧ e.status = st) ∧
      (getPart u w.part).store = withoutCopies cv (getPart s w.part).store) ∧
    (r.state = .aborted → getRound u w.part = some r ∧ (getPart u w.part).events = (getPart s w.part).events ∧
      (getPart u w.part).store = (getPart s w.part).store)) ∧
  besides (getPart u w.part) = besides (getPart s w.part) ∧
  (w.flow = [] → (getPart u w.part).spaces = (getPart s w.part).spaces ∧ (getPart u w.part).weights = (getPart s w.part).weights ∧
    u.outputs = s.outputs ∧ u.crossings = s.crossings ∧ u.freeCount = s.freeCount) ∧
  OnlyCv cv s u ∧ OnlyPart w.part s u ∧ Keeps [.caravans, .parts, .partCells, .outputs, .free] s u

/-- Whenever the instruction can issue and bad holds, it issues and its work stops with the status. -/
def StopsWhen (op : Nat) (mk : Nat → FWord → Instr) (bad : FWord → Work → Round → Prop) (st : Status) : Prop :=
  ∀ (s : State) (cv : Nat) (f : FWord) (w : Work) (r : Round), CanIssue s cv op f w r → bad f w r →
    Completes (mk cv f) s (Stops s cv w st)

-- ------------------------------------------------------------------ what every step keeps

/-- An island voltage that ageing control may choose: 650 to 850 mV in steps of 5 mV (R388). -/
def voltOk (v : Nat) : Prop := 650 ≤ v ∧ v ≤ 850 ∧ v % 5 = 0

/-- What every step keeps, from any state: the tamper count has not passed 1,023 (R330); both duty factors are 1 to 16 sixteenths (R429);
the place of the next fault log entry is one of 256 (R390); every voltage, in use or recorded, is one that ageing control may choose
(R388, R389); the device-level counter has not passed its ceiling (R269); the recovery buffer is in canonical form; and what
has come over the I3C path for recovery is at most 64 KiB. -/
def Inv (s : State) : Prop :=
  s.keeper.tamperCount ≤ 1023 ∧
  (1 ≤ s.power.duty0 ∧ s.power.duty0 ≤ 16 ∧ 1 ≤ s.power.duty1 ∧ s.power.duty1 ≤ 16) ∧
  s.rel.logHead < 256 ∧
  (∀ e, e ∈ s.islands.volts → voltOk e.2) ∧
  (∀ l, s.flash.ageing = some l ∨ s.islands.recorded = some l → ∀ v, v ∈ l → voltOk v) ∧
  s.keeper.counter.toNat ≤ s.keeper.ceiling.toNat ∧
  Memory.wf s.hub.recBuf = true ∧
  s.hub.recI3cData.length ≤ 65536

/-- Of the ceiling of the device-level counter (R269): both sealed copies in flash stay, or both are written with one ceiling, that is at
least what the Keeper holds, or the first one of a device that can read no copy. -/
def CeilingKept (s u : State) : Prop :=
  (u.flash.ceiling0 = s.flash.ceiling0 ∧ u.flash.ceiling1 = s.flash.ceiling1) ∨
  (∃ v : State, v.flash.ceiling0 = s.flash.ceiling0 ∧ v.flash.ceiling1 = s.flash.ceiling1 ∧
    u.flash.ceiling0 = areaSeal v (toLe 8 u.keeper.ceiling.toNat) ∧ u.flash.ceiling1 = areaSeal (bumpFree v) (toLe 8 u.keeper.ceiling.toNat) ∧
    (s.keeper.ceiling.toNat ≤ u.keeper.ceiling.toNat ∨ (flashCeiling v = none ∧ u.keeper.ceiling = 0x8000000000000000)))

/-- What a step never takes back: an output once given stands, the certificate in flash stays, the tamper count does not fall, and the
ceiling of the device-level counter is kept in both copies. -/
def Evolves (s u : State) : Prop :=
  (∃ l, u.outputs = s.outputs ++ l) ∧ u.flash.cert = s.flash.cert ∧
  (s.keeper.tamperCount ≤ 1023 → s.keeper.tamperCount ≤ u.keeper.tamperCount) ∧
  CeilingKept s u ∧
  s.freeCount ≤ u.freeCount

end Sys2Proof.Safety
end

