-- ==== Sys2Proof/Certificates/Slice0/Obligations.lean ====
section
/-! DEFINITION. The statements for the provers, family by family of the table. -/

open Sys2Proof Sys2Proof.Machine Sys2Proof.Safety

-- ------------------------------------------------------------------ the block

/-- A step takes the command at the front of the queue and runs it over the state with the rest of the queue. On an empty queue it idles,
which is the model's choice (assumption 15). Every command answers a next state: the spec reports failures as statuses, events and
registers (assumption 7). -/
def Obligations.StepRunsFrontCommand : Prop :=
  ((∀ (s : State) (c : Instr) (rest : List Instr), s.pending = c :: rest → step s = exec c { s with pending := rest }) ∧
   ∀ s : State, s.pending = [] → step s = .next s) ∧
  (∀ (i : Instr) (s : State), ∃ u, exec i s = .next u)

/-- The state after reset: no partition, D0, duty factors of 16, every bank TESTING, every DRBG uninstantiated, no granule taken, the cell
regions whole, PWRGOOD low and TAMPER_OUT low. Rests on the model's choices of assumption 9. -/
def Obligations.ResetLeavesTheBlockEmpty : Prop :=
  let s := State.reset
  s.pending = [] ∧ (∀ p, (getPart s p).phase = .absent ∧ roundStateOf s p = .idle ∧ (getPart s p).counter = 0) ∧
  s.power.state = .d0 ∧ s.power.duty0 = 16 ∧ s.power.duty1 = 16 ∧ s.power.limit = 0x398 ∧
  (∀ b, (getBank s b).state = .testing) ∧ (∀ n, (getInst s n).live = false) ∧ (∀ g, getGran s g = .free) ∧
  s.cmd.sharedFree = 1046528 ∧ s.cmd.bulkClosed = false ∧ s.cmd.allClosed = false ∧
  s.pins.pwrgood = false ∧ s.pins.tamperOut = false ∧ s.pins.thermtrip = false ∧
  (∀ f n, (getSq s f n).enable = false ∧ (getCq s f n).enable = false) ∧ (∀ l, (getLink s l).up = false)

/-- The state after reset meets the invariant. Rests on the model's choices of assumptions 9 and 11. -/
def Obligations.ResetMeetsTheInvariant : Prop :=
  Inv State.reset

/-- Every step keeps the invariant: the tamper count, the duty factors, the fault log's place, the voltages, the device-level counter under
its ceiling, and the recovery buffers stay as the rules bound them. Rests on the model's choices of assumptions 56, 73 and 95. -/
def Obligations.EveryStepKeepsTheInvariant : Prop :=
  ∀ s u : State, Inv s → step s = .next u → Inv u

/-- No step takes back an output, a tamper count, the certificate in flash or the ceiling of the device-level counter; and a step with a
command in front consumes that command alone. Rests on the model's choices of assumptions 13, 15, 56 and 73. -/
def Obligations.NoStepTakesBackTheRecord : Prop :=
  ∀ s u : State, step s = .next u → Evolves s u ∧ u.pending = s.pending.drop 1

-- ------------------------------------------------------------------ completion entries and cells

/-- Completing a command whose CQ can take an entry writes exactly one entry for it, the command's own id, source, status and results with the
phase of the present pass, as 32 bytes at the index of the tail; the command is no longer taken, the ring's tail moves on, and the phase
inverts at the end of the ring. The entry keeps the command's cells, but for those of a P0 slot, which are free (R271). An ADMITTED
completion that must wait for an earlier one of its partition is held instead (R261, R264, R265). Completing a command, with the FENCEs
that it releases, changes queues, the list of taken commands, cells, held events and outputs, and nothing else of the block. Rests on the
model's choices of assumptions 13 and 16. -/
def Obligations.CompletionWritesOneEntry : Prop :=
  (∀ (s : State) (t : Taken) (st : Status) (r : Results) (n : Nat) (q : Cq) (c : Completion) (e : CqEntry) (a : W64) (b : Bytes),
     n = completionCq s t.ref → q = getCq s t.ref.fn n → (getPort s (fnPort t.ref.fn)).linkUp = true →
     q.enable = true → q.isFull = false → q.held = [] →
     c = { commandId := t.ref.commandId, source := t.ref.source, status := st, infoStatus := if t.replayed then 0x0A else 0
           sqHead := if t.ref.source < 16 then t.sqHead else 0, result0 := BitVec.ofNat 64 r.r0, result1 := BitVec.ofNat 64 r.r1
           result2 := BitVec.ofNat 64 r.r2, cells := t.cells, opcode := t.desc.opcode, order := t.order } →
     e = { entry := dropSlotCells c, phase := q.phase, index := q.tail } → a = entryAddress q q.tail → b = entryBytes e →
     (let u := completeOne s t st r
      let k := getCq u t.ref.fn n
      u.cmd.taken = s.cmd.taken.filter (fun x => !decide (x.order = t.order)) ∧
      (mustWait s t.ref.fn n c = false →
        k.posted = q.posted ++ [e] ∧
        (if q.size ≤ q.tail + 1 then k.tail = 0 ∧ k.phase = !q.phase else k.tail = q.tail + 1 ∧ k.phase = q.phase) ∧
        (u.outputs = s.outputs ++ [.completion t.ref.fn n a b] ∨
         u.outputs = s.outputs ++ [.completion t.ref.fn n a b, .msix t.ref.fn q.vector.toNat])) ∧
      (mustWait s t.ref.fn n c = true → k = { q with held := [c] } ∧ u.outputs = s.outputs))) ∧
  (∀ (s : State) (t : Taken) (st : Status) (r : Results),
     Keeps [.fns, .taken, .cells, .partCells, .outputs] s (complete s t st r))

/-- A gate closes below its close count and reopens at its reopen count, and between the two it stays as it is. -/
def Obligations.SharedRegionGates : Prop :=
  ∀ s : State,
    (s.cmd.sharedFree < 261632 → (regate s).cmd.bulkClosed = true) ∧
    (313959 ≤ s.cmd.sharedFree → (regate s).cmd.bulkClosed = false) ∧
    (261632 ≤ s.cmd.sharedFree → s.cmd.sharedFree < 313959 → (regate s).cmd.bulkClosed = s.cmd.bulkClosed) ∧
    (s.cmd.sharedFree < 104653 → (regate s).cmd.allClosed = true) ∧
    (156980 ≤ s.cmd.sharedFree → (regate s).cmd.allClosed = false) ∧
    (104653 ≤ s.cmd.sharedFree → s.cmd.sharedFree < 156980 → (regate s).cmd.allClosed = s.cmd.allClosed)

-- ------------------------------------------------------------------ queues and registers

/-- Enabling a queue takes the configuration written to its CFG register; where that passes the checks of R257, its pointers and, of an SQ,
its taken count are zero; a failing check sets error with its cause and leaves the queue disabled as it was; a write of 0 disables, but
for a CQ to which an enabled SQ is bound. Nothing but the function's own queue changes. A queue that is enabled already stays as it is.
Rests on the model's choices of assumptions 16, 68 and 142. -/
def Obligations.QueuesAreEnabledAndDisabled : Prop :=
  (∀ (s : State) (f : Fn) (n : Nat), ((getSq s f n).enable = true → exec (.sqEnable f n) s = .next s) ∧
    ((getCq s f n).enable = true → exec (.cqEnable f n) s = .next s)) ∧
  (∀ (s : State) (f : Fn) (n : Nat), (getSq s f n).enable = false →
    ∀ k, k = enableCause s f (sqConfigOk s f (sqConfigured (getSq s f n))) →
    Completes (.sqEnable f n) s (fun u =>
      getSq u f n = (if k = 0 then
          { sqConfigured (getSq s f n) with enable := true, head := 0, tail := 0, taken := 0, cause := 0, ctrl := true }
        else { getSq s f n with error := true, cause := k, ctrl := true }) ∧
      (∀ m, m ≠ n → getSq u f m = getSq s f m) ∧ (∀ m, getCq u f m = getCq s f m) ∧
      (∀ g, g ≠ f → getFn u g = getFn s g) ∧ Keeps [.fns] s u)) ∧
  (∀ (s : State) (f : Fn) (n : Nat), Completes (.sqDisable f n) s (fun u =>
    getSq u f n = { getSq s f n with enable := false, ctrl := false } ∧ (∀ m, m ≠ n → getSq u f m = getSq s f m) ∧
    (∀ m, getCq u f m = getCq s f m) ∧ (∀ g, g ≠ f → getFn u g = getFn s g) ∧ Keeps [.fns] s u)) ∧
  (∀ (s : State) (f : Fn) (n : Nat), (getCq s f n).enable = false → NoneHeld s f → (getCq s f n).posted = [] →
    ∀ k, k = enableCause s f (cqConfigOk f (cqConfigured (getCq s f n))) →
    Completes (.cqEnable f n) s (fun u =>
      getCq u f n = (if k = 0 then { cqConfigured (getCq s f n) with enable := true, head := 0, tail := 0, phase := true,
                                                                      unsignalled := 0, cause := 0, awaiting := false, ctrl := true }
        else { getCq s f n with error := true, cause := k, ctrl := true }) ∧
      (∀ m, m ≠ n → getCq u f m = getCq s f m) ∧ (∀ m, getSq u f m = getSq s f m) ∧
      (∀ g, g ≠ f → getFn u g = getFn s g) ∧ Keeps [.fns] s u)) ∧
  ∀ (s : State) (f : Fn) (n : Nat), Completes (.cqDisable f n) s (fun u =>
    getCq u f n = (if cqBound s f n then getCq s f n else { getCq s f n with enable := false, ctrl := false }) ∧
    (∀ m, m ≠ n → getCq u f m = getCq s f m) ∧ (∀ m, getSq u f m = getSq s f m) ∧ (∀ g, g ≠ f → getFn u g = getFn s g) ∧ Keeps [.fns] s u)

/-- A tail doorbell of an enabled SQ below 2^log2_entries is the new tail, and any other sets bad_doorbell and changes no queue; a head
doorbell of an enabled CQ below its size consumes the entries up to the new head, while nothing is held, and any other sets bad_doorbell
and changes no queue. Rests on the model's choices of assumption 58. -/
def Obligations.DoorbellsMovePointers : Prop :=
  (∀ (s : State) (f : Fn) (n : Nat) (v : W32), (getSq s f n).enable = true → v.toNat % 2 ^ 16 < 2 ^ (getSq s f n).log2.toNat →
    Completes (.sqTailDoorbell f n v) s (fun u => getSq u f n = { getSq s f n with tail := v.toNat % 2 ^ 16 } ∧
      (∀ m, m ≠ n → getSq u f m = getSq s f m) ∧ (∀ m, getCq u f m = getCq s f m) ∧ Keeps [.fns] s u)) ∧
  (∀ (s : State) (f : Fn) (n : Nat) (v : W32),
    ((getSq s f n).enable = false ∨ 2 ^ (getSq s f n).log2.toNat ≤ v.toNat % 2 ^ 16) →
    Completes (.sqTailDoorbell f n v) s (fun u => (getFn u f).error.getLsbD 0 = true ∧
      (∀ m, getSq u f m = getSq s f m) ∧ (∀ m, getCq u f m = getCq s f m) ∧ Keeps [.fns, .outputs] s u)) ∧
  (∀ (s : State) (f : Fn) (n : Nat) (v : W32) (q : Cq), q = getCq s f n → q.enable = true → v.toNat % 2 ^ 16 < q.size → NoneHeld s f →
    Completes (.cqHeadDoorbell f n v) s (fun u => (getCq u f n).head = v.toNat % 2 ^ 16 ∧
      (getCq u f n).posted = q.posted.drop ((v.toNat % 2 ^ 16 + q.size - q.head) % q.size) ∧
      (getCq u f n).tail = q.tail ∧ (∀ m, m ≠ n → getCq u f m = getCq s f m) ∧ Keeps [.fns, .cells, .partCells] s u)) ∧
  ∀ (s : State) (f : Fn) (n : Nat) (v : W32), ((getCq s f n).enable = false ∨ (getCq s f n).size ≤ v.toNat % 2 ^ 16) →
    Completes (.cqHeadDoorbell f n v) s (fun u => (getFn u f).error.getLsbD 0 = true ∧
      (∀ m, getSq u f m = getSq s f m) ∧ (∀ m, getCq u f m = getCq s f m) ∧ Keeps [.fns, .outputs] s u)

/-- A fetched descriptor that passes the checks joins the taken commands: the SQ's head moves on and its taken count grows by one, the command
has the next place in the order and holds the two cells drawn, and a critical one, before which no P0 ABORT of its partition waits for its
verdict (assumption 143), leaves its counter as the last accepted. A write to a free P0 slot takes its descriptor ahead of its tag's
verdict, in class P0 with two cells of the priority-0 reserve, and the slot is busy; while the verdict is awaited the partition is held; a
write to a busy slot sets overrun and takes nothing. Rests on the model's choices of assumption 66. -/
def Obligations.CommandsAreTaken : Prop :=
  (∀ (s s1 : State) (f : Fn) (n : Nat) (raw : Bytes) (cells : Cells), canFetch s f n = true →
     drawCells s (fnPart f) 2 = some (cells, s1) → earlyChecks s f (getSq s f n).cls.toNat (parseDesc raw) = none →
     (lateChecks s f (parseDesc raw)).1 = none →
     ((commandRow (parseDesc raw).opcode).any isCritical = true → verdictBefore s f s.cmd.nextOrder = false) →
     Completes (.descriptorFetch f n raw) s (fun u => ∃ t : Taken, u.cmd.taken = s.cmd.taken ++ [t] ∧
       t.ref = ⟨f, n, (parseDesc raw).commandId⟩ ∧ t.desc = parseDesc raw ∧ t.cls = Cls.ofCfg (getSq s f n).cls ∧
       t.order = s.cmd.nextOrder ∧ t.cells = cells ∧ t.waiting = false ∧ t.unproved = false ∧
       u.cmd.nextOrder = s.cmd.nextOrder + 1 ∧
       (getSq u f n).head = ((getSq s f n).head + 1) % 2 ^ (getSq s f n).log2.toNat ∧
       (getSq u f n).taken = (getSq s f n).taken + 1 ∧ (getSq u f n).tail = (getSq s f n).tail ∧
       (∀ row, commandRow (parseDesc raw).opcode = some row → isCritical row = true →
         lastCounter u f = (parseDesc raw).counter) ∧
       Keeps [.fns, .taken, .cells, .partCells, .parts, .keeper, .flash, .free] s u)) ∧
  ((∀ (s : State) (f : Fn) (k : Nat) (raw : Bytes), acceptsCommands s f = true → (getSlot s f k).busy = false →
     earlyChecks s f 0 (parseDesc raw) = none →
     Completes (.p0Doorbell f k raw) s (fun u => ∃ t : Taken, u.cmd.taken = s.cmd.taken ++ [t] ∧
       t.ref = ⟨f, 16 + k, (parseDesc raw).commandId⟩ ∧ t.desc = parseDesc raw ∧ t.cls = .p0 ∧ t.order = s.cmd.nextOrder ∧
       t.cells = { p0Slots := 2 } ∧ t.unproved = (commandRow (parseDesc raw).opcode).any isCritical ∧
       (getSlot u f k).busy = true ∧ (getSlot u f k).holder = t.order ∧ u.cmd.p0SlotFree = s.cmd.p0SlotFree - 2 ∧
       (∀ p, t.unproved = true → t.part = some p → (getPart u p).held = true) ∧ Keeps [.fns, .taken, .cells, .parts] s u)) ∧
   ∀ (s : State) (f : Fn) (k : Nat) (raw : Bytes), acceptsCommands s f = true → (getSlot s f k).busy = true →
     Completes (.p0Doorbell f k raw) s (fun u => (getSlot u f k).overrun = true ∧ (getFn u f).error.getLsbD 2 = true ∧
       Keeps [.fns, .outputs] s u))

/-- The coalescing timer of a CQ with unsignalled completions clears the count and signals the CQ's vector: a masked vector's pending bit is
set, another is sent. A partition's first held event is written to CQ0 of its serving function, and the first device-level one to CQ0 of
P0's PF, of P1's where P0's link is down or that CQ0 disabled, as an entry of command_id 0xFFFF and source 31 with the event's results; a
LODGED event waits until the ADMITTED completions up to its number are posted; events that are posted are held no longer, and the others
stay. Two copies of a pointer that disagree are a detected fault, counted and logged: an SQ or CQ is disabled with error_cause 4, and a CQ
keeps its unconsumed entries to write again; CQ0 also sets cq0_error; a DRBG queue is emptied, to be filled again; of a Porter the ADMITs
whose envelopes it has not received whole are fetched again from the start, with nothing staged or passed, and carry FAULT_REPLAYED; a
Sequencer's mailbox keeps what the Sequencer has not taken; a P0 slot's command that nobody has looked at completes with QUEUE_RESET; of
the Keeper's mailboxes and of held events nothing is lost. Rests on the model's choices of assumptions 13, 17, 20, 67 and 145. -/
def Obligations.SignalsAndEventsArePosted : Prop :=
  (∀ (s : State) (f : Fn) (n v : Nat) (m : MsixVec), (getCq s f n).unsignalled ≠ 0 → v = (getCq s f n).vector.toNat →
     m = Table.getD (getFn s f).msix v {} →
     Completes (.coalesceTimer f n) s (fun u => (getCq u f n).unsignalled = 0 ∧
       (m.masked = true → (Table.getD (getFn u f).msix v {}).pending = true ∧ u.outputs = s.outputs) ∧
       (m.masked = false → u.outputs = s.outputs ++ [.msix f v]) ∧ Keeps [.fns, .outputs] s u)) ∧
  ((∀ (s : State) (p : Nat) (f : Fn) (e : Event) (l : List Event), servingFn s p = some f → (getPart s p).events = e :: l →
     lodgedReady s p e = true → cqCanTake s f 0 = true → (getCq s f 0).held = [] →
     Completes (.eventPost (.part p)) s (fun u => (∃ k, (getPart u p).events = l.drop k) ∧
       (∃ x : CqEntry, (Output.completion f 0 (entryAddress (getCq s f 0) (getCq s f 0).tail) (entryBytes x)) ∈ u.outputs ∧ x.entry.commandId = 0xFFFF ∧ x.entry.source = 31 ∧
         x.entry.status = e.status ∧ x.entry.result1 = e.result1 ∧ x.entry.result2 = e.result2 ∧
         x.entry.result0.toNat % 256 = e.kind.code) ∧ Keeps [.fns, .outputs, .partCells] s u)) ∧
   ∀ (s : State) (f : Fn) (e : Event) (l : List Event),
     f = (if (getPort s .p0).linkUp && (getCq s (.pf .p0) 0).enable then .pf .p0 else .pf .p1) →
     s.cmd.events = e :: l → cqCanTake s f 0 = true → (getCq s f 0).held = [] →
     Completes (.eventPost .device) s (fun u => (∃ k, u.cmd.events = l.drop k) ∧
       (∃ x : CqEntry, (Output.completion f 0 (entryAddress (getCq s f 0) (getCq s f 0).tail) (entryBytes x)) ∈
           u.outputs ∧ x.entry.commandId = 0xFFFF ∧ x.entry.source = 31 ∧
         x.entry.status = e.status ∧ x.entry.result1 = e.result1 ∧ x.entry.result2 = e.result2 ∧
         x.entry.result0.toNat % 256 = e.kind.code) ∧
       Keeps [.fns, .outputs, .cells] s u)) ∧
  ((∀ (s : State) (q : QueueId), Completes (.queuePointerMismatch q) s (fun u =>
     u.rel.detected = satInc s.rel.detected ∧ u.rel.error.getLsbD 0 = true ∧
     (∃ e, Table.get? u.rel.log s.rel.logHead = some e ∧ e.mechanism = 9 ∧ e.outcome = 1) ∧
     u.rel.logHead = (s.rel.logHead + 1) % 256)) ∧
   (∀ (s : State) (f : Fn) (n : Nat), Completes (.queuePointerMismatch (.sq f n)) s (fun u =>
     getSq u f n = { getSq s f n with enable := false, error := true, cause := 4 } ∧
     Keeps [.fns, .cells, .partCells, .rel, .outputs, .free] s u)) ∧
   (∀ (s : State) (f : Fn) (n : Nat), Completes (.queuePointerMismatch (.cq f n)) s (fun u =>
     getCq u f n = { getCq s f n with enable := false, error := true, cause := 4, awaiting := true, posted := []
                                      held := (getCq s f n).posted.map (fun e => e.entry) ++ (getCq s f n).held } ∧
     (n = 0 → (getFn u f).error.getLsbD 3 = true) ∧ Keeps [.fns, .cells, .partCells, .rel, .outputs, .free] s u)) ∧
   (∀ (s : State) (n : Nat), Completes (.queuePointerMismatch (.drbg n)) s (fun u =>
     getInst u n = { getInst s n with queue := [], filling := true } ∧ (∀ m, m ≠ n → getInst u m = getInst s m) ∧
     Keeps [.entropy, .rel, .fns, .outputs, .free] s u)) ∧
   (∀ (s : State) (q p : Nat) (t : Taken) (f : Flight), t ∈ s.cmd.taken → t.part = some p →
     q = 8 * portNat (fnPort t.ref.fn) + t.order % 8 → Table.get? (getPart s p).flights t.ref = some f →
     envelopeReceived (getPart s p) t.ref = false →
     Completes (.queuePointerMismatch (.porter q)) s (fun u =>
       Table.get? (getPart u p).flights t.ref = some { f with segs := [], passed := [], slot := none, replayed := true } ∧
       (∀ cv e, e ∈ (getCv u cv).staged → e.1 ≠ t.ref) ∧ Keeps [.parts, .caravans, .rel, .fns, .outputs, .free] s u)) ∧
   (∀ (s : State) (n : Nat), Completes (.queuePointerMismatch (.mailbox n)) s (fun u =>
     (∀ m, m ∈ (getCv u n).mailbox ↔ m ∈ (getCv s n).mailbox ∧
       (m.seq + 2 ^ 32 - Table.getD (getCv s n).mailTook m.steward 0 - 1) % 2 ^ 32 < 2 ^ 31) ∧
     { getCv u n with mailbox := (getCv s n).mailbox } = getCv s n ∧ OnlyCv n s u ∧ Keeps [.caravans, .rel, .fns, .outputs, .free] s u)) ∧
   (∀ (s : State) (f : Fn) (t : Taken) (n : Nat) (q : Cq),
     s.cmd.taken.filter (fun x => decide (x.ref.fn = f ∧ 16 ≤ x.ref.source) && (x.unproved || unseen x)) = [t] →
     n = completionCq s t.ref → q = getCq s f n → (getPort s (fnPort f)).linkUp = true → q.enable = true → q.isFull = false → q.held = [] →
     Completes (.queuePointerMismatch (.p0Slots f)) s (fun u =>
       Output.completion f n (entryAddress q q.tail) (entryBytes { phase := q.phase, index := q.tail, entry := {
         commandId := t.ref.commandId, source := t.ref.source, status := .queueReset
         infoStatus := if t.replayed then 0x0A else 0, cells := t.cells } }) ∈ u.outputs ∧
       ∀ x, x ∈ u.cmd.taken → x.order ≠ t.order)) ∧
   ∀ (s : State) (n : Nat), Completes (.queuePointerMismatch (.events n)) s (Keeps [.rel, .fns, .outputs, .free] s) ∧
     Completes (.queuePointerMismatch (.keeperMail n)) s (Keeps [.rel, .fns, .outputs, .free] s))

/-- A register write of another width than 4 or 8 bytes, or one that is not naturally aligned, outside the P0 doorbells sets bad_access and
changes no queue and nothing outside the function's registers; a write without power, in Sleep or in tamper hold changes nothing. Aligned
register writes: an SQ's configuration register takes the written fields, also while the SQ is enabled, and nothing else of the queue
changes, while the base of an enabled SQ holds; an error register's bits clear where 1 is written (RW1C) and nowhere else; a CQ's
configuration register likewise, and coal_count and coal_time act at once; CMD.LOCK sets and never clears, and while it is 1
CMD.FAILOVER_CFG holds. Rests on the model's choices of assumptions 58 and 68. -/
def Obligations.RegisterWritesFollowTheirAccessCodes : Prop :=
  ((∀ (s : State) (f : Fn) (o w : Nat) (v : W64), registersOff s = false → inP0Page f o = false →
     (w ≠ 4 ∧ w ≠ 8) ∨ o % w ≠ 0 →
     Completes (.registerWrite f o w v) s (fun u => (getFn u f).error.getLsbD 1 = true ∧
       (∀ m, getSq u f m = getSq s f m) ∧ (∀ m, getCq u f m = getCq s f m) ∧ Keeps [.fns, .outputs] s u)) ∧
   ∀ (s : State) (f : Fn) (o w : Nat) (v : W64), registersOff s = true → exec (.registerWrite f o w v) s = .next s) ∧
  ((∀ (s : State) (port : Port) (p n : Nat) (v : W64) (w : W32), n < 16 → w = v.setWidth 32 → registersOff s = false → s.hub.bootState ≠ 1 → s.hub.bootState ≠ 5 →
     Completes (.registerWrite (.vf port p) (0x10008 + 32 * n) 4 v) s (fun u =>
       getSq u (.vf port p) n = { getSq s (.vf port p) n with cfg := w &&& 0x00000F7F } ∧
       (∀ m, m ≠ n → getSq u (.vf port p) m = getSq s (.vf port p) m) ∧ Keeps [.fns] s u) ∧
     ((getSq s (.vf port p) n).enable = true → exec (.registerWrite (.vf port p) (0x10000 + 32 * n) 4 v) s = .next s ∧
       exec (.registerWrite (.vf port p) (0x10004 + 32 * n) 4 v) s = .next s) ∧
     Completes (.registerWrite (.vf port p) (0x10208 + 32 * n) 4 v) s (fun u =>
       getCq u (.vf port p) n = cqCoalesced { getCq s (.vf port p) n with cfg := w &&& 0x1FFFFFFF } ∧
       (∀ m, m ≠ n → getCq u (.vf port p) m = getCq s (.vf port p) m) ∧ Keeps [.fns] s u)) ∧
   (∀ (s : State) (port : Port) (p : Nat) (v : W64), registersOff s = false → s.hub.bootState ≠ 1 → s.hub.bootState ≠ 5 →
     Completes (.registerWrite (.vf port p) 0x14 4 v) s (fun u =>
       (∀ i, i < 5 → (getFn u (.vf port p)).error.getLsbD i = ((getFn s (.vf port p)).error.getLsbD i && !v.getLsbD i)) ∧
       Keeps [.fns] s u)) ∧
   (∀ (s : State) (port : Port) (v : W64), registersOff s = false → s.hub.bootState ≠ 1 →
     s.hub.bootState ≠ 5 →
     Completes (.registerWrite (.pf port) 0x100024 4 v) s (fun u =>
       getPort u port = { getPort s port with lock := (getPort s port).lock || v.getLsbD 0 } ∧ Keeps [.ports] s u)) ∧
   ∀ (s : State) (port : Port) (v : W64), registersOff s = false → s.hub.bootState ≠ 1 →
     s.hub.bootState ≠ 5 →
     Completes (.registerWrite (.pf port) 0x100020 4 v) s (fun u =>
       (getPort u port).autoFailover = (if (getPort s port).lock then (getPort s port).autoFailover else v.getLsbD 0) ∧
       Keeps [.ports] s u))

/-- Reads, which no row of the table makes (assumption 5): a read of another width or alignment returns 0, sets bad_access and changes no
queue; of a 64-bit register a read of the low half latches the high half, and the next read of that half returns it, whatever the register
holds by then; the doorbells read 0; what is written to the configuration of an SQ, or to a mask register, is what a read of it returns,
with reserved bits 0; error bits read as they were but for those that a write of 1 cleared. Rests on the model's choices of assumption 39.
-/
def Obligations.ReadsShowTheFields : Prop :=
  (∀ (s : State) (f : Fn) (o w : Nat), registersOff s = false → (w ≠ 4 ∧ w ≠ 8) ∨ o % w ≠ 0 →
    (hostRead s f o w).2 = 0 ∧ (getFn (hostRead s f o w).1 f).error.getLsbD 1 = true ∧
    (∀ m, getSq (hostRead s f o w).1 f m = getSq s f m) ∧ (∀ m, getCq (hostRead s f o w).1 f m = getCq s f m) ∧
    Keeps [.fns, .outputs] s (hostRead s f o w).1) ∧
  (∀ (s u : State) (f : Fn) (o : Nat), registersOff s = false → registersOff u = false → o % 8 = 0 → isWide f o = true → Table.get? (getFn u f).latch (o + 4) = Table.get? (getFn (hostRead s f o 4).1 f).latch (o + 4) →
    (hostRead s f o 4).2 = (readWord s f o).setWidth 64 ∧ (hostRead u f (o + 4) 4).2 = (readWord s f (o + 4)).setWidth 64 ∧
    Table.get? (getFn (hostRead u f (o + 4) 4).1 f).latch (o + 4) = none) ∧
  (∀ (s : State) (port : Port) (p n : Nat), n < 16 → readWord s (.vf port p) (0x20000 + 4 * n) = 0 ∧
    readWord s (.vf port p) (0x20100 + 4 * n) = 0 ∧ readWord s (.pf port) (0x120000 + 4 * n) = 0 ∧
    readWord s (.pf port) (0x120100 + 4 * n) = 0) ∧
  (∀ (s : State) (port : Port) (p n : Nat) (v : W64), n < 16 → registersOff s = false →
    s.hub.bootState ≠ 1 → s.hub.bootState ≠ 5 →
    Completes (.registerWrite (.vf port p) (0x10008 + 32 * n) 4 v) s (fun u =>
      readWord u (.vf port p) (0x10008 + 32 * n) = (v.setWidth 32) &&& 0x00000F7F ∧
      ∀ r, r < 32 → r / 4 ≠ 2 → readWord u (.vf port p) (0x10000 + 32 * n + r) = readWord s (.vf port p) (0x10000 + 32 * n + r))) ∧
  ∀ (s : State) (port : Port) (p : Nat) (v : W64), registersOff s = false → s.hub.bootState ≠ 1 →
    s.hub.bootState ≠ 5 →
    Completes (.registerWrite (.vf port p) 0x14 4 v) s (fun u =>
      readWord u (.vf port p) 0x14 = readWord s (.vf port p) 0x14 &&& ~~~(v.setWidth 32) &&& 0x1F) ∧
    Completes (.registerWrite (.vf port p) 0x18 4 v) s (fun u => readWord u (.vf port p) 0x18 = (v.setWidth 32) &&& 0x1F)

-- ------------------------------------------------------------------ entropy

/-- The states of a bank (R336) and what the resets make of them (R337). A test fails on a sample that repeats the fifteen before it, or on
the 191st occurrence of a window's first sample. From TESTING or HEALTHY a failure counts and leaves the bank FAILED, or RETIRED at the
third; the 1,024th passing sample of a start-up test makes it HEALTHY; a FAILED bank below three failures returns to TESTING; a RETIRED
one stays until a cold reset. A warm reset keeps the counts and returns FAILED banks to TESTING; a cold reset sets every count to 0 and
every bank to TESTING. -/
def Obligations.BankStatesFollowTheirTable : Prop :=
  (∀ (s : State) (b : Nat) (o : W64) (k : Bank) (bad : Bool), b < 4 → k = getBank s b →
    bad = (decide (k.rctSample = some (rawSample o) ∧ 15 ≤ k.rctRun) ||
      decide (k.aptPos ≠ 0 ∧ rawSample o = k.aptFirst ∧ 190 ≤ k.aptCount)) →
    (k.state = .retired → exec (.entropySample b o) s = .next s) ∧
    (k.state = .failed → bad = false → Completes (.entropySample b o) s (fun u => (getBank u b).state = .failed ∧
      (getBank u b).failures = k.failures ∧ (∀ c, c ≠ b → getBank u c = getBank s c) ∧ Keeps [.entropy] s u)) ∧
    ((k.state = .testing ∨ k.state = .healthy) → bad = true →
      Completes (.entropySample b o) s (fun u => (getBank u b).state = (if 3 ≤ k.failures + 1 then .retired else .failed) ∧
        (getBank u b).failures = k.failures + 1 ∧ (∀ c, c ≠ b → getBank u c = getBank s c) ∧ Keeps [.entropy, .partCells, .fns, .outputs] s u)) ∧
    (k.state = .testing → bad = false →
      Completes (.entropySample b o) s (fun u => (getBank u b).failures = k.failures ∧
        (k.startup < 1023 → (getBank u b).state = .testing ∧ (getBank u b).startup = k.startup + 1) ∧
        (k.startup = 1023 → (getBank u b).state = .healthy ∧ (s.entropy.active = none → u.entropy.active = some b) ∧
          ∀ a, s.entropy.active = some a → u.entropy.active = some a) ∧
        (∀ c, c ≠ b → getBank u c = getBank s c) ∧ Keeps [.entropy] s u)) ∧
    (k.state = .healthy → bad = false →
      Completes (.entropySample b o) s (fun u => (getBank u b).state = .healthy ∧ (getBank u b).failures = k.failures ∧
        (∀ c, c ≠ b → getBank u c = getBank s c) ∧ Keeps [.entropy] s u))) ∧
  (∀ (s : State) (b : Nat), (getBank s b).state = .failed → (getBank s b).failures < 3 →
    Completes (.bankRetest b) s (fun u => (getBank u b).state = .testing ∧ (getBank u b).startup = 0 ∧
      (getBank u b).failures = (getBank s b).failures ∧ (∀ c, c ≠ b → getBank u c = getBank s c) ∧ Keeps [.entropy] s u)) ∧
  (∀ (s : State) (b : Nat), ¬ ((getBank s b).state = .failed ∧ (getBank s b).failures < 3) → exec (.bankRetest b) s = .next s) ∧
  (∀ (i : Instr) (x : BootInputs) (s : State), (i = .hubReset 0x5741524D x ∨ i = .i3cReset 0x5741524D x) → s.pins.pwrgood = true →
    s.power.state ≠ .sleep → s.pins.thermtrip = false → s.hub.bootState ≠ 4 → x.tamper = [] →
    Completes i s (fun u => ∀ b, (getBank u b).failures = (getBank s b).failures ∧
      (getBank u b).state = (if (getBank s b).state = .retired then .retired else .testing))) ∧
  ∀ (s : State) (x : BootInputs), s.pins.pwrgood = false →
    Completes (.pwrgoodAssert x) s (fun u => ∀ b, (getBank u b).failures = 0 ∧ (getBank u b).state = .testing)

/-- A DRBG instance that the seed buffer serves takes two blocks: instantiated with its personalization string, its queue drawing 32 cells as
far as they are free, or reseeded with its count and interval back at 0 and 2^16. Not served, a non-strict one whose count is due doubles
its interval below 2^24 requests; a strict one at 2^16, and any at 2^24, stalls with ENT.ERROR.drbg_stalled. A strict one that finds no
HEALTHY bank flushes its queue, returns the cells and stalls. The refill engine appends one cell to the queue that is next in turn and
counts the request. A consumer draws whole cells of its own instance, one for each of its draws, and takes of each the bytes that the draw
asks for; where the queue is empty the engine generates the cell; before the device instance and its own are live a draw is NOT_READY, and
of a stalled one ENTROPY_UNAVAILABLE, and takes nothing; of an instance that is not its own a consumer draws nothing. Rests on the model's
choices of assumptions 2, 12 and 106. -/
def Obligations.InstancesAreSeededAndDrawnFrom : Prop :=
  ((∀ (s : State) (n k : Nat) (x : Drbg), n < 65 → seedServes s n = true → (getInst s n).live = false → k = min 32 (queueRoom s n) →
     x = { live := true, key := Sys2Proof.Config.ctrDrbgInstantiate (nextSeed s) (personalization n), filling := true, cells := k } →
     Completes (.drbgInstantiate n) s (fun u =>
       ((isStrict s n = false ∨ anyHealthy s = true) → getInst u n = x ∧ Keeps [.entropy, .cells, .partCells] s u) ∧
       (isStrict s n = true → anyHealthy s = false → getInst u n = { x with stalled := true } ∧ u.entropy.error.getLsbD 2 = true ∧
         Keeps [.entropy, .cells, .partCells, .fns, .outputs] s u) ∧
       u.entropy.seeds = s.entropy.seeds.drop 2 ∧ (∀ m, m ≠ n → getInst u m = getInst s m) ∧
       (n < 64 → (getPart u n).cellsUsed = (getPart s n).cellsUsed + k) ∧
       (n = 64 → u.cmd.p0OtherFree = s.cmd.p0OtherFree - k))) ∧
   (∀ (s : State) (n : Nat) (d : Drbg), d = getInst s n → d.live = true → (d.owed = true ∨ d.stalled = true) →
     seedServes s n = true →
     Completes (.reseedServe n) s (fun u =>
       getInst u n = { d with key := Sys2Proof.Config.ctrDrbgReseed d.key (nextSeed s), count := 0, interval := 65536,
                              owed := false, stalled := false } ∧
       u.entropy.seeds = s.entropy.seeds.drop 2 ∧ (∀ m, m ≠ n → getInst u m = getInst s m) ∧ Keeps [.entropy] s u)) ∧
   (∀ (s : State) (n : Nat) (d : Drbg), d = getInst s n → d.live = true → d.owed = true → d.stalled = false → seedServes s n = false →
     (isStrict s n = false ∨ anyHealthy s = true) → (if isStrict s n then 65536 else d.interval) ≤ d.count →
     Completes (.reseedServe n) s (fun u =>
       (isStrict s n = false → d.count < 2 ^ 24 → getInst u n = { d with interval := d.interval * 2 }) ∧
       ((isStrict s n = true ∨ 2 ^ 24 ≤ d.count) → getInst u n = { d with stalled := true } ∧ u.entropy.error.getLsbD 2 = true) ∧
       (∀ m, m ≠ n → getInst u m = getInst s m) ∧ Keeps [.entropy, .fns, .outputs] s u)) ∧
   ∀ (s : State) (n : Nat) (d : Drbg), d = getInst s n → d.live = true → d.owed = true → d.stalled = false → isStrict s n = true →
     anyHealthy s = false →
     Completes (.reseedServe n) s (fun u =>
       getInst u n = { d with queue := [], cells := d.cells - d.queue.length, filling := true, stalled := true } ∧
       u.entropy.error.getLsbD 2 = true ∧ (∀ m, m ≠ n → getInst u m = getInst s m) ∧
       Keeps [.entropy, .partCells, .fns, .outputs] s u)) ∧
  ((∀ (s : State) (n : Nat) (d : Drbg), d = getInst s n → refillNext s n = true → d.count < dueAt s n → d.count + 1 < 2 ^ 24 →
     (d.queue.length < d.cells ∨ 0 < queueRoom s n) →
     Completes (.drbgQueueRefill n) s (fun u =>
       (getInst u n).queue = d.queue ++ [(Sys2Proof.Config.ctrDrbgGenerate d.key).2] ∧
       (getInst u n).key = (Sys2Proof.Config.ctrDrbgGenerate d.key).1 ∧ (getInst u n).count = d.count + 1 ∧
       (getInst u n).cells = (if d.cells ≤ d.queue.length then d.cells + 1 else d.cells) ∧
       u.entropy.lastRefill = n ∧ (∀ m, m ≠ n → getInst u m = getInst s m) ∧ Keeps [.entropy, .cells, .partCells] s u)) ∧
   (∀ (s : State) (n k : Nat) (w : DrawConsumer) (c : Bytes) (cs : List Bytes), n < 65 → consumerDraws w = (decide (n = 64), [k]) →
     (getInst s 64).live = true → (getInst s n).live = true → (getInst s n).stalled = false → (getInst s n).queue = c :: cs →
     Completes (.drbgDraw n w) s (fun u => u.entropy.lastDraw = some (n, w, .ok, c.take k) ∧
       (getInst u n).queue = cs ∧ (∀ m, m ≠ n → getInst u m = getInst s m) ∧ Keeps [.entropy] s u)) ∧
   (∀ (s : State) (n : Nat) (c d : Bytes) (cs : List Bytes), n < 64 →
     (getInst s 64).live = true → (getInst s n).live = true → (getInst s n).stalled = false → (getInst s n).queue = c :: d :: cs →
     Completes (.drbgDraw n .finishKeys) s (fun u => u.entropy.lastDraw = some (n, .finishKeys, .ok, c.take 32 ++ d.take 16) ∧
       (getInst u n).queue = cs ∧ (∀ m, m ≠ n → getInst u m = getInst s m) ∧ Keeps [.entropy] s u)) ∧
   (∀ (s : State) (n k : Nat) (w : DrawConsumer) (d : Drbg), d = getInst s n → n < 65 → consumerDraws w = (decide (n = 64), [k]) →
     (getInst s 64).live = true → d.live = true → d.stalled = false → d.queue = [] → d.count < dueAt s n → d.count + 1 < 2 ^ 24 →
     (0 < d.cells ∨ 0 < queueRoom s n) →
     Completes (.drbgDraw n w) s (fun u =>
       u.entropy.lastDraw = some (n, w, .ok, (Sys2Proof.Config.ctrDrbgGenerate d.key).2.take k) ∧ (getInst u n).queue = [] ∧
       (getInst u n).key = (Sys2Proof.Config.ctrDrbgGenerate d.key).1 ∧ (getInst u n).count = d.count + 1 ∧
       (∀ m, m ≠ n → getInst u m = getInst s m) ∧ Keeps [.entropy, .cells, .partCells] s u)) ∧
   ∀ (s : State) (n : Nat) (w : DrawConsumer), n < 65 →
     ((consumerDraws w).1 ≠ decide (n = 64) → exec (.drbgDraw n w) s = .next s) ∧
     ((consumerDraws w).1 = decide (n = 64) → (getInst s 64).live = false ∨ (getInst s n).live = false →
       Completes (.drbgDraw n w) s (fun u => u.entropy.lastDraw = some (n, w, .notReady, []) ∧
         (∀ m, getInst u m = getInst s m) ∧ Keeps [.entropy] s u)) ∧
     ((consumerDraws w).1 = decide (n = 64) → (getInst s 64).live = true → (getInst s n).live = true → (getInst s n).stalled = true →
       Completes (.drbgDraw n w) s (fun u => u.entropy.lastDraw = some (n, w, .entropyUnavailable, []) ∧
         (∀ m, getInst u m = getInst s m) ∧ Keeps [.entropy] s u)))

-- ------------------------------------------------------------------ sessions, attestation, keys

/-- A SESSION.START that names the function's pending key pair consumes the pair whatever the outcome. With the owner's proof it makes the
next session, with keys expanded from prk and the binding that a VF's first session sets, writes session_number and device_confirm, and
the counter stays; without it AUTH_FAIL leaves the session as it was. Rests on the model's choices of assumptions 2 and 21. -/
def Obligations.SessionStartNeedsTheOwnersProof : Prop :=
  ∀ (s : State) (ref : CmdRef) (t : Taken) (buf b seed digest prk kc ct : Bytes) (p n : Nat) (x : Session),
    KeeperReady s ref 0x0B01 t → t.ref = ref → x = sessionOf s ref.fn → p = sessionPart ref.fn → n = x.number + 1 →
    b = buf.take t.desc.length →
    Table.get? s.keeper.pendingEk ref.fn = some (seed, digest) → 0x6A8 ≤ t.desc.length → field b 0 2 = 1 → zeros b 2 6 = true →
    zeros b 0x668 24 = true → slice b 0x008 32 = digest → ct = slice b 0x048 1568 →
    prk = Sys2Proof.Config.hkdfExtract digest (Sys2Proof.Config.mlkem1024Decaps seed ct ++ Sys2Proof.Config.sha256 ct) →
    kc = sessionExpand prk "CHIELM-S-CONF" p n →
    ∃ v st r, exec (.sessionStart ref buf) s = .next (complete v t st r) ∧ Table.get? v.keeper.pendingEk ref.fn = none ∧
      (Sys2Proof.Config.hmacSha256 kc (ascii "CHIELM-PROOF" ++ digest ++ Sys2Proof.Config.sha256 ct ++ x.binding.getD []) = slice b 0x028 32 →
        st = .ok ∧
        sessionOf v ref.fn = { number := n, live := true, prk := prk, h2d := sessionExpand prk "CHIELM-S-H2D" p n
                               d2h := sessionExpand prk "CHIELM-S-D2H" p n, exporter := sessionExpand prk "CHIELM-EXPORTER" p n
                               binding := if x.binding = none ∧ fnPart ref.fn ≠ none then some (sessionExpand prk "CHIELM-BIND" p n)
                                 else x.binding } ∧
        lastCounter v ref.fn = lastCounter s ref.fn ∧
        (∀ q, fnPart ref.fn = some q → r.r1 = (if (getPart s q).cmdKey.isSome then 1 else 0) ∧
          (getPart v q).cmdKey = some (commandKey (sessionExpand prk "CHIELM-EXPORTER" q n) q n) ∧ OnlyPart q s v ∧
          v.keeper = { (keeperServed s t).keeper with pendingEk := v.keeper.pendingEk }) ∧
        (fnPart ref.fn = none → ∀ q, getPart v q = getPart s q) ∧
        v.outputs = s.outputs ++ [.data (fnPort ref.fn) (t.desc.address + 0x680) (toLe 4 n ++ zeroBytes 4 ++
          Sys2Proof.Config.hmacSha256 kc (ascii "CHIELM-CONFIRM" ++ digest ++ Sys2Proof.Config.sha256 ct ++ toLe 4 n))] ∧
        Keeps [.parts, .keeper, .outputs] s v) ∧
      (Sys2Proof.Config.hmacSha256 kc (ascii "CHIELM-PROOF" ++ digest ++ Sys2Proof.Config.sha256 ct ++ x.binding.getD []) ≠ slice b 0x028 32 →
        st = .authFail ∧ v.keeper = { (keeperServed s t).keeper with pendingEk := v.keeper.pendingEk } ∧
        (∀ q, getPart v q = getPart s q) ∧ Keeps [.keeper] s v)

/-- A record that opens as IDE_KEYS for the function's stream installs the key set's 240 bytes on the named port; a valid END record ends the
session, destroys its keys, and drains the command key; a buffer that is no valid END record is AUTH_FAIL and ends nothing. Rests on the
model's choices of assumptions 2, 70, 71 and 160. -/
def Obligations.SessionRecordsActOnTheSession : Prop :=
  (∀ (s : State) (ref : CmdRef) (t : Taken) (buf : Bytes) (o : Opened) (g : Fn), KeeperReady s ref 0x0B02 t →
    openRecord (sessionOf s ref.fn) t.desc.counter.toNat 8 (buf.take t.desc.length) = .ok o → o.content.length = 256 →
    zeros o.content 3 5 = true → zeros o.content 248 8 = true → field o.content 0 1 ≤ 1 → field o.content 2 1 ≤ 1 →
    g = onPort ref.fn (portOf (field o.content 0 1)) → field o.content 1 1 = ideStream g →
    Succeeds (.sessionRecord ref buf) s t {} (fun v =>
      Table.get? (getFn v g).ideKeys (field o.content 2 1) = some (field o.content 1 1, slice o.content 8 240) ∧
      Keeps [.fns] (keeperServed s t) v)) ∧
  (∀ (s : State) (ref : CmdRef) (t : Taken) (buf : Bytes) (o : Opened), KeeperReady s ref 0x0B03 t →
    openRecord (sessionOf s ref.fn) t.desc.counter.toNat 9 (buf.take t.desc.length) = .ok o → o.content = [] →
    Succeeds (.sessionEnd ref buf) s t { r1 := (drainCommandKey (keeperServed s t) ref.fn).2 } (fun v =>
      (sessionOf v ref.fn).live = false ∧ (sessionOf v ref.fn).prk = [] ∧ (sessionOf v ref.fn).h2d = [] ∧
      (sessionOf v ref.fn).d2h = [] ∧ (sessionOf v ref.fn).exporter = [] ∧
      (sessionOf v ref.fn).number = (sessionOf s ref.fn).number ∧ (sessionOf v ref.fn).binding = (sessionOf s ref.fn).binding ∧
      (∀ p k, fnPart ref.fn = some p → (getPart s p).cmdKey = some k → (getPart v p).cmdKey = none ∧
        ∃ d, (getPart v p).drains = (getPart s p).drains ++ [d] ∧ handleKind d.handle = 0x81 ∧ d.value = k) ∧
      Keeps [.parts, .keeper] s v)) ∧
  ∀ (s : State) (ref : CmdRef) (t : Taken) (buf : Bytes), KeeperReady s ref 0x0B03 t →
    (∀ o, openRecord (sessionOf s ref.fn) t.desc.counter.toNat 9 (buf.take t.desc.length) = .ok o → o.content ≠ []) →
    exec (.sessionEnd ref buf) s = .next (complete (keeperServed s t) t .authFail)

/-- ATTEST writes a report over the nonce at the command's address and completes with the report's length: under the tamper lock with no draw
and no pending pair; otherwise with a fresh pair, from a whole cell of the device instance, pending for the function with the digest of
the report's body. A buffer below 70,448 bytes is RANGE. The outsider challenge is answered with the 16-byte state block and its MAC under
root 3, in place of an earlier answer; while the Keeper's clock stands still the latest challenge waits unanswered; once the attestation
certificate is signed after boot, the key pairs and the certificate are cached sealed, the identity is ready and vector 48 signals. Rests
on the model's choices of assumptions 2, 13 and 72. -/
def Obligations.DeviceAttests : Prop :=
  ((∀ (s : State) (ref : CmdRef) (t : Taken) (nonce : Bytes), KeeperReady s ref 0x0C01 t → 70448 ≤ t.desc.length → s.keeper.locked = true →
     Succeeds (.attest ref nonce) s t { r0 := 70448 } (fun v =>
       v.outputs = s.outputs ++ [.data (fnPort ref.fn) t.desc.address (reportBytes s (reportBody s ref.fn (padTo 32 nonce) []))] ∧
       Keeps [.outputs] (keeperServed s t) v)) ∧
   (∀ (s : State) (ref : CmdRef) (t : Taken) (nonce c : Bytes) (cs : List Bytes), KeeperReady s ref 0x0C01 t → 70448 ≤ t.desc.length →
     s.keeper.locked = false → s.keeper.identity = true → (getInst s 64).live = true → (getInst s 64).stalled = false →
     (getInst s 64).queue = c :: cs →
     Succeeds (.attest ref nonce) s t { r0 := 70448 } (fun v =>
       Table.get? v.keeper.pendingEk ref.fn = some (c, Sys2Proof.Config.sha256
         (reportBody s ref.fn (padTo 32 nonce) (Sys2Proof.Config.mlkem1024Ek c))) ∧
       (getInst v 64).queue = cs ∧
       v.outputs = s.outputs ++ [.data (fnPort ref.fn) t.desc.address
         (reportBytes s (reportBody s ref.fn (padTo 32 nonce) (Sys2Proof.Config.mlkem1024Ek c)))] ∧
       Keeps [.keeper, .entropy, .outputs] s v)) ∧
   ∀ (s : State) (ref : CmdRef) (t : Taken) (nonce : Bytes), KeeperReady s ref 0x0C01 t → t.desc.length < 70448 →
     exec (.attest ref nonce) s = .next (complete (keeperServed s t) t .range)) ∧
  ((∀ (s : State) (c : Bytes), s.pins.pwrgood = true → s.islands.stalled.getLsbD 35 = false → s.islands.stalled.getLsbD 30 = false →
    Completes (.outsiderChallenge c) s (fun u =>
     u.i3c.challenge = some c ∧ u.i3c.response = some (outsiderState s ++ Sys2Proof.Config.hmacSha256 (rootKey s 3)
       (ascii "CHIELM-OUTSIDER" ++ c ++ outsiderState s)) ∧ u.i3c.sel = s.i3c.sel ∧ Keeps [.i3c] s u)) ∧
   (∀ (s : State) (c : Bytes), s.pins.pwrgood = true → s.islands.stalled.getLsbD 35 = false → s.islands.stalled.getLsbD 30 = true →
    Completes (.outsiderChallenge c) s (fun u => u.i3c.response = none ∧ (getCrossing u 30).holding = some c ∧
     (∀ i, i ≠ 30 → getCrossing u i = getCrossing s i) ∧ u.outputs = s.outputs ∧ Keeps [.i3c, .outputs] s u)) ∧
   ∀ s : State, s.keeper.identity = false → s.hub.bootState = 3 → s.keeper.locked = false →
     Completes .attestationCertificateSigned s (fun u => u.keeper = { s.keeper with
         identity := true, cache := areaSeal s (identitySeeds s 1 ++ identitySeeds s 2 ++ attestationCert s) } ∧
       (∀ port, (Table.getD (getFn s (.pf port)).msix 48 {}).masked = false → Output.msix (.pf port) 48 ∈ u.outputs) ∧
       (∀ port, (Table.getD (getFn s (.pf port)).msix 48 {}).masked = true → (Table.getD (getFn u (.pf port)).msix 48 {}).pending = true) ∧
       Keeps [.keeper, .fns, .outputs, .free] s u))

/-- KEY.ROTATE places the key of epoch e + 1 in the controllers, makes it current with epoch e live beside it, whose bit every line written so
far carries (assumption 84), and reports the new epoch, or answers KEY_DRAINING while an earlier one is live; while a step of the
partition runs, it waits and lets no further step start; the end of the re-encryption sweep leaves no line of the old epoch and destroys
that epoch in the controllers. A KEY.INSTALL record of 48 bytes for a handle of its kind installs its 32-byte key. A DRAINING key that
nothing uses is gone. Commands are looked at in their order and the Keeper's mailboxes served in theirs: a command whose turn has not
come, or that the Keeper does not serve next, changes nothing; what the Keeper serves next is the oldest of its mailbox, and no head of a
mailbox is of a higher class; of two heads of one class it serves the one whose mailbox comes first after the mailbox served last. Rests
on the model's choices of assumptions 2, 109 and 110. -/
def Obligations.KeysAreRotatedInstalledAndDrained : Prop :=
  ((∀ (s : State) (ref : CmdRef) (t : Taken) (p : Nat), KeeperReadyOn s ref 0x0701 t p → (getPart s p).oldLive = false →
     stepRunning s p = false →
     Succeeds (.keyRotate ref) s t { r0 := ((getPart s p).epoch + 1) % 2 ^ 32 } (fun v =>
       getPart v p = { markLines true (getPart s p) with epoch := (getPart s p).epoch + 1, oldLive := true, keeperHold := false } ∧
       (s.keeper.locked = false → Table.get? v.hbm.xts (p, (getPart s p).epoch + 1) = some (xtsKey s p ((getPart s p).epoch + 1))) ∧
       v.hbm.gran = s.hbm.gran ∧ v.hbm.images = s.hbm.images ∧ (∀ cv, (getCv v cv).work = (getCv s cv).work) ∧
       OnlyPart p s v ∧ Keeps [.parts, .hbm, .caravans] (keeperServed s t) v)) ∧
   (∀ (s : State) (ref : CmdRef) (t : Taken) (p : Nat), KeeperReadyOn s ref 0x0701 t p → (getPart s p).oldLive = false →
     stepRunning s p = true →
     Completes (.keyRotate ref) s (fun u => getPart u p = { getPart s p with keeperHold := true } ∧ canStep u p = false ∧
       u.cmd.taken = s.cmd.taken.map (fun y => if y.order = t.order then { t with begun := true } else y) ∧
       OnlyPart p s u ∧ Keeps [.parts, .taken] (keeperServed s t) u)) ∧
   (∀ (s : State) (ref : CmdRef) (t : Taken) (p : Nat), KeeperReadyOn s ref 0x0701 t p → (getPart s p).oldLive = true →
     exec (.keyRotate ref) s = .next (complete (keeperServed s t) t .keyDraining)) ∧
   (∀ (s : State) (p : Nat), (getPart s p).oldLive = true → (getPart s p).phase = .live →
     Completes (.reencryptionSweepEnd p) s (fun u => own (getPart u p) = { own (markLines false (getPart s p)) with oldLive := false } ∧
       oldLineCount (getPart u p) = 0 ∧
       Table.get? u.hbm.xts (p, (getPart s p).epoch - 1) = none ∧ u.hbm.gran = s.hbm.gran ∧ u.hbm.images = s.hbm.images ∧
       (∃ e, e ∈ (getPart u p).events ∧ e.kind = .key) ∧ OnlyPart p s u ∧ Keeps [.parts, .partCells, .hbm] s u)) ∧
   (∀ (s : State) (ref : CmdRef) (t : Taken) (p : Nat) (buf : Bytes) (o : Opened) (h : W32), KeeperReadyOn s ref 0x0702 t p →
     openRecord (getPart s p).session t.desc.counter.toNat 2 (buf.take t.desc.length) = .ok o → o.content.length = 48 →
     h = BitVec.ofNat 32 (field o.content 4 4) → 1 ≤ handleKind h → handleKind h ≤ 4 → field o.content 0 1 = handleKind h →
     zeros o.content 1 3 = true → field o.content 8 4 = 32 → zeros o.content 12 4 = true →
     field o.content 4 4 = t.desc.param 0 4 → handleIndex h ≤ 255 →
     Succeeds (.keyInstall ref buf) s t { r1 := (installDrains (getPart s p) h).length } (fun v =>
       getPart v p = { getPart s p with
         keys := Table.put (getPart s p).keys h { value := slice o.content 16 32 }
         drains := (getPart s p).drains ++ installDrains (getPart s p) h } ∧ OnlyPart p s v ∧ Keeps [.parts] (keeperServed s t) v)) ∧
   ∀ (s : State) (p : Nat) (k : DrainKey), (getPart s p).drains = [k] → drainInUse s p k = false →
     Completes (.keyDrainEnd p k.handle) s (fun u => (getPart u p).drains = [] ∧ (getPart u p).keys = (getPart s p).keys ∧
       OnlyPart p s u ∧ Keeps [.parts, .partCells] s u)) ∧
  ((∀ (s : State) (ref : CmdRef) (t : Taken) (buf : Bytes), findTaken s ref = some t →
     (inOrder s t = false ∨ (t.begun = false ∧ (keeperNext s).map (fun x => x.order) ≠ some t.order)) →
     exec (.keyRotate ref) s = .next s ∧ exec (.keyInstall ref buf) s = .next s ∧ exec (.partCreate ref) s = .next s ∧
     exec (.partRelease ref) s = .next s ∧ exec (.sessionStart ref buf) s = .next s ∧ exec (.sessionRecord ref buf) s = .next s ∧
     exec (.sessionEnd ref buf) s = .next s ∧ exec (.attest ref buf) s = .next s) ∧
   (∀ (s : State) (ref : CmdRef) (t : Taken), findTaken s ref = some t → inOrder s t = false →
     exec (.fence ref) s = .next s ∧ exec (.quiesceEnter ref) s = .next s ∧ exec (.roundClose ref) s = .next s ∧
     exec (.portFailover ref) s = .next s) ∧
   ∀ (s : State) (t : Taken), keeperNext s = some t → t ∈ keeperMail s ∧
     (∀ x, x ∈ keeperMail s → keeperBox s x = keeperBox s t → t.order ≤ x.order) ∧
     (∀ x, x ∈ keeperMail s → isHead s (keeperMail s) x = true → t.cls.prio ≤ x.cls.prio ∧
       (x.cls.prio = t.cls.prio →
         boxRank (Table.getD s.keeper.lastServed t.cls.prio 8) (keeperBox s t)
           ≤ boxRank (Table.getD s.keeper.lastServed t.cls.prio 8) (keeperBox s x))))

-- ------------------------------------------------------------------ partitions

/-- PART.CREATE on an absent partition with free granules and a cell of the device instance: a live partition of the home port and class
named, with the granules asked for, each of which was free and is now its own, the create_nonce drawn, epoch 0, no session, no key and no
round, and its memory key in the controllers; its DRBG is instantiated at once where two seed blocks are there and no other instance waits
for them; result0 carries the partition and its Steward. While too few granules are free, or the partition is being scrubbed, RETRY_LATER
carries the Keeper's estimate of the time until the fill has ended. Rests on the model's choices of assumption 9. -/
def Obligations.PartitionCreation : Prop :=
  (∀ (s : State) (ref : CmdRef) (t : Taken) (p g0 g1 : Nat) (c : Bytes) (cs : List Bytes), KeeperReady s ref 0x0101 t →
    p = t.desc.param 0 1 → g0 = t.desc.param 3 1 → g1 = t.desc.param 4 1 → p ≤ 63 → t.desc.param 1 1 ≤ 1 → t.desc.param 2 1 ≤ 1 →
    (getPart s p).phase = .absent → 0 < g0 → 0 < g1 → dieLost s 0 = false → dieLost s 1 = false → g0 ≤ freeGran s 0 →
    g1 ≤ freeGran s 1 → (getInst s 64).live = true → (getInst s 64).stalled = false → (getInst s 64).queue = c :: cs →
    Succeeds (.partCreate ref) s t { r0 := p + 256 * stewardOf s p } (fun v =>
      let x := getPart v p
      x.phase = .live ∧ x.home = portOf (t.desc.param 1 1) ∧ x.serving = some x.home ∧ x.latency = decide (t.desc.param 2 1 = 1) ∧
      x.steward = stewardOf s p ∧ x.nonce = c.take 16 ∧ x.epoch = 0 ∧ x.oldLive = false ∧ x.counter = 0 ∧ x.session = {} ∧
      x.cmdKey = none ∧ x.keys = [] ∧ x.round = none ∧ x.quiesced = false ∧
      x.gran0.length = g0 ∧ x.gran1.length = g1 ∧
      (∀ g, g ∈ x.gran0 ++ x.gran1 → getGran s g = .free ∧ getGran v g = .owned p) ∧
      (∀ g, g ∉ x.gran0 ++ x.gran1 → getGran v g = getGran s g) ∧
      (s.keeper.locked = false → Table.get? v.hbm.xts (p, 0) = some (xtsKey v p 0)) ∧
      (getInst v 64).queue = cs ∧
      (2 ≤ s.entropy.seeds.length → s.entropy.erased = false → (getInst s p).live = false →
        (∀ m, m < 65 → m ≠ p → wantsSeed s m = false) → (getInst v p).live = true) ∧
      OnlyPart p s v ∧ Keeps [.parts, .partCells, .hbm, .entropy, .fns, .outputs] (keeperServed s t) v)) ∧
  (∀ (s : State) (ref : CmdRef) (t : Taken) (p g0 g1 : Nat), KeeperReady s ref 0x0101 t →
    p = t.desc.param 0 1 → g0 = t.desc.param 3 1 → g1 = t.desc.param 4 1 → p ≤ 63 → t.desc.param 1 1 ≤ 1 → t.desc.param 2 1 ≤ 1 →
    (getPart s p).phase = .absent → 0 < g0 → 0 < g1 → dieLost s 0 = false → dieLost s 1 = false →
    (freeGran s 0 < g0 ∨ freeGran s 1 < g1) →
    exec (.partCreate ref) s = .next (complete (keeperServed s t) t .retryLater (retryHint (roomHint (keeperServed s t) g0 g1)))) ∧
  ∀ (s : State) (ref : CmdRef) (t : Taken) (p : Nat), KeeperReady s ref 0x0101 t → p = t.desc.param 0 1 → p ≤ 63 →
    t.desc.param 1 1 ≤ 1 → t.desc.param 2 1 ≤ 1 → (getPart s p).phase = .scrubbing →
    exec (.partCreate ref) s = .next (complete (keeperServed s t) t .retryLater (retryHint (max 50 (scrubTime (keeperServed s t) p))))

/-- PART.RELEASE of a live partition: every command taken for it but the release itself, FENCEs and PART.CREATEs has ended, and no step of it
starts again. While none runs, the epoch has advanced, keys, session, round, sets, weights and ciphertexts are gone, no caravan holds a
work of it, its DRBG is uninstantiated and its granules wait for their zero-fill; otherwise all that waits for the running steps, and the
last of them to end brings it. The end of the zero-fill: the granules are free, the partition is absent, its memory key is gone, and the
waiting PART.RELEASE has completed; granules that a tamper lock left unfilled are free when their fill after the next boot ends. Under the
tamper lock, and before the erasure, nothing is filled. Rests on the model's choices of assumptions 75 and 84. -/
def Obligations.PartitionReleaseErases : Prop :=
  ((∀ (s : State) (ref : CmdRef) (t : Taken) (p : Nat), KeeperReady s ref 0x0102 t → p = t.desc.param 0 1 → (getPart s p).phase = .live →
     stepRunning s p = false →
     Completes (.partRelease ref) s (fun u =>
       let x := getPart u p
       let y := getPart s p
       x.phase = .scrubbing ∧ x.erasing = false ∧ canStep u p = false ∧ x.epoch = y.epoch + 1 ∧ Table.get? u.hbm.xts (p, y.epoch) = none ∧ x.oldLive = false ∧ x.counter = y.counter ∧ x.gran0 = y.gran0 ∧
       x.gran1 = y.gran1 ∧ x.cmdKey = none ∧ x.keys = [] ∧ x.drains = [] ∧ x.session = {} ∧ x.round = none ∧ x.itins = [] ∧
       x.keySets = [] ∧ x.weights = none ∧ x.store = [] ∧ x.saved = [] ∧
       (∀ g, g ∈ y.gran0 ++ y.gran1 → getGran u g = (if getGran s g = .unavailable then .unavailable else .scrubbing p)) ∧
       (∀ cv w, (getCv u cv).work = some w → w.part ≠ p) ∧ (getInst u p).live = false ∧
       (∀ k, k ∈ u.cmd.taken → k.part = some p → k.order = t.order ∨ k.desc.opcode = 0x0F01 ∨ k.desc.opcode = 0x0101) ∧
       (∀ q, q ≠ p → own (getPart u q) = own (getPart s q)) ∧
       Keeps [.fns, .taken, .cells, .partCells, .outputs, .parts, .caravans, .entropy, .hbm] (keeperServed s t) u)) ∧
   (∀ (s : State) (ref : CmdRef) (t : Taken) (p : Nat), KeeperReady s ref 0x0102 t → p = t.desc.param 0 1 → (getPart s p).phase = .live →
     stepRunning s p = true →
     Completes (.partRelease ref) s (fun u =>
       (getPart u p).phase = .scrubbing ∧ (getPart u p).erasing = true ∧ (getPart u p).release = holders s p ∧ canStep u p = false ∧
       (∀ k, k ∈ u.cmd.taken → k.part = some p → k.order = t.order ∨ k.desc.opcode = 0x0F01 ∨ k.desc.opcode = 0x0101) ∧
       (∀ q, q ≠ p → own (getPart u q) = own (getPart s q)) ∧
       Keeps [.fns, .taken, .cells, .partCells, .outputs, .parts] (keeperServed s t) u)) ∧
   ∀ (s : State) (cv p : Nat) (w : Work), (getCv s cv).stepping = true → stepOver s cv = true → (getCv s cv).work = some w →
     w.part = p → (getPart s p).phase = .scrubbing → (getPart s p).erasing = true →
     stepRunning (setCv s cv { getCv s cv with work := none, stepping := false, openBuf := [], sealBuf := [] }) p = false →
     Completes (.stepBudgetEnd cv) s (fun u => (getPart u p).phase = .scrubbing ∧ (getPart u p).erasing = false ∧
       (getPart u p).epoch = (getPart s p).epoch + 1 ∧ (getPart u p).cmdKey = none ∧ (getPart u p).keys = [] ∧
       (getPart u p).round = none ∧ (∀ k x, (getCv u k).work = some x → x.part ≠ p))) ∧
  ((∀ (s : State) (p : Nat), s.keeper.locked = false → (getPart s p).phase = .scrubbing → (getPart s p).erasing = false →
     Completes (.scrubFillDone p) s (fun u => (getPart u p).phase = .absent ∧ Table.get? u.hbm.xts (p, (getPart s p).epoch) = none ∧ (getPart u p).nonce = [] ∧ (getPart u p).epoch = 0 ∧
       (∀ g, g ∈ (getPart s p).gran0 ++ (getPart s p).gran1 → getGran s g = .scrubbing p → getGran u g = .free) ∧
       (∀ t, s.cmd.taken.find? (fun t => decide (t.desc.opcode = 0x0102 ∧ t.part = some p) && t.waiting) = some t →
         ∀ k, k ∈ u.cmd.taken → k.order ≠ t.order) ∧
       (∀ q, q ≠ p → own (getPart u q) = own (getPart s q)) ∧
       Keeps [.fns, .taken, .cells, .partCells, .outputs, .parts, .hbm] s u)) ∧
   (∀ (s : State) (p : Nat), s.keeper.locked = false → (getPart s p).phase ≠ .scrubbing → (getPart s p).erasing = false →
     Completes (.scrubFillDone p) s (fun u => (∀ g, getGran s g = .scrubbing p → getGran u g = .free) ∧
       (∀ g, getGran s g ≠ .scrubbing p → getGran u g = getGran s g) ∧ Keeps [.hbm] s u)) ∧
   ∀ (s : State) (p : Nat), (s.keeper.locked = true ∨ (getPart s p).erasing = true) → exec (.scrubFillDone p) s = .next s)

/-- PORT.FAILOVER to the other port moves service there and holds a PORT event with the target and cause 4; naming the port that serves
completes and does nothing else. Rests on the model's choices of assumptions 50 and 74. -/
def Obligations.FailoverMovesService : Prop :=
  (∀ (s : State) (ref : CmdRef) (t : Taken) (p : Nat) (target : Port), ReadyOn s ref 0x0103 t p → t.desc.param 1 1 ≤ 1 →
    target = portOf (t.desc.param 1 1) → (getPart s p).serving ≠ some target →
    Succeeds (.portFailover ref) s t {} (fun v => (getPart v p).serving = some target ∧
      (∃ e, e ∈ (getPart v p).events ∧ e.kind = .port ∧ e.result1 = BitVec.ofNat 64 (portNat target + 256 * 4)) ∧
      (∀ q, q ≠ p → own (getPart v q) = own (getPart s q)) ∧
      Keeps [.fns, .taken, .cells, .partCells, .outputs, .parts, .caravans] s v)) ∧
  ∀ (s : State) (ref : CmdRef) (t : Taken) (p : Nat), ReadyOn s ref 0x0103 t p → t.desc.param 1 1 ≤ 1 →
    (getPart s p).serving = some (portOf (t.desc.param 1 1)) → exec (.portFailover ref) s = .next (complete s t .ok)

/-- A FENCE before which no taken command of its partition stands completes, and any other waits. QUIESCE ENTER lets no new step start for the
partition, completes at once when none runs and otherwise waits; LEAVE lifts the state and completes. Rests on the model's choices of
assumptions 66 and 75. -/
def Obligations.FenceAndQuiesce : Prop :=
  (∀ (s : State) (ref : CmdRef) (t : Taken), Ready s ref 0x0F01 t →
    (∀ x, x ∈ s.cmd.taken → ¬ (x.order < t.order ∧ x.part = t.part)) → exec (.fence ref) s = .next (complete s t .ok)) ∧
  (∀ (s : State) (ref : CmdRef) (t x : Taken), Ready s ref 0x0F01 t → x ∈ s.cmd.taken → x.order < t.order → x.part = t.part →
    Completes (.fence ref) s (fun u => u.cmd.taken = s.cmd.taken.map (fun y => if y.order = t.order then { t with waiting := true } else y) ∧
      Keeps [.taken] s u)) ∧
  (∀ (s : State) (ref : CmdRef) (t : Taken) (p : Nat), ReadyOn s ref 0x0F03 t p → t.desc.param 0 1 % 2 = 1 →
    NoneErasing s →
    Completes (.quiesceEnter ref) s (fun u => (getPart u p).quiesced = true ∧ canStep u p = false ∧
      (stepRunning s p = false → ∀ k, k ∈ u.cmd.taken → k.order ≠ t.order) ∧
      (stepRunning s p = true → ∃ k, k ∈ u.cmd.taken ∧ k.order = t.order ∧ k.waiting = true) ∧
      (∀ q, q ≠ p → own (getPart u q) = own (getPart s q)) ∧
      Keeps [.fns, .taken, .cells, .partCells, .outputs, .parts] s u)) ∧
  ∀ (s : State) (ref : CmdRef) (t : Taken) (p : Nat), ReadyOn s ref 0x0F03 t p → t.desc.param 0 1 % 2 = 0 →
    Succeeds (.quiesceLeave ref) s t {} (fun v => getPart v p = { getPart s p with quiesced := false } ∧ OnlyPart p s v ∧
      (∀ cv, (getCv v cv).work = (getCv s cv).work) ∧ Keeps [.parts, .caravans] s v)

/-- An FLR of a VF leaves its queues disabled; an FLR of a VF or a PF, a data link that goes down and an asserted PERST# each move the service
of a partition that the port served to the other port while auto_failover is 1, and end it otherwise; of no other is the service moved;
and the last two leave the link down. An FLR of a PF changes no field of the port, CMD.LOCK among them. Rests on the model's choices of
assumptions 50, 68 and 144. -/
def Obligations.LostFunctionsAndPorts : Prop :=
  ∀ (s : State) (port : Port) (n : Nat) (sv : Option Port), n < 64 →
    sv = (if (getPart s n).phase = .absent ∨ (getPart s n).serving ≠ some port then (getPart s n).serving
      else if (getPort s port).autoFailover then some (otherPort port) else none) →
    Completes (.flrVf port n) s (fun u => (getPart u n).serving = sv ∧
      (∀ k, (getSq u (.vf port n) k).enable = false ∧ (getCq u (.vf port n) k).enable = false) ∧
      (∀ q, q ≠ n → own (getPart u q) = own (getPart s q)) ∧
      Keeps [.fns, .taken, .cells, .partCells, .outputs, .parts, .caravans] s u) ∧
    Completes (.flrPf port) s (fun u => (getPart u n).serving = sv ∧
      (∀ k, (getSq u (.pf port) k).enable = false ∧ (getCq u (.pf port) k).enable = false) ∧
      Keeps [.fns, .taken, .cells, .partCells, .outputs, .parts, .caravans] s u) ∧
    Completes (.linkDown port) s (fun u => (getPart u n).serving = sv ∧ (getPort u port).linkUp = false ∧
      (getPort u port).vc1 = false ∧ (getPort u port).speed = 0 ∧ (getPort u port).width = 0 ∧
      getPort u (otherPort port) = getPort s (otherPort port) ∧
      Keeps [.ports, .fns, .taken, .cells, .partCells, .outputs, .parts, .caravans] s u) ∧
    (s.pins.pwrgood = true → Completes (.perstAssert port) s (fun u => (getPart u n).serving = sv ∧ (getPort u port).perst = true ∧
      (getPort u port).linkUp = false ∧ (getPort u port).lock = (getPort s port).lock ∧
      Keeps [.ports, .fns, .taken, .cells, .partCells, .outputs, .parts, .caravans] s u)) ∧
    (s.pins.pwrgood = false → exec (.perstAssert port) s = .next s)

-- ------------------------------------------------------------------ rounds

/-- ROUND.OPEN of a partition whose record, checks and regions pass: an OPEN round with the descriptor and KEM of the record, nothing
admitted, numbers from 1 and the secret drawn from the partition's instance; its keys stand in the engines, its key record is written and
its round_id counts as opened. One whose draw fails completes with the draw's status in the state that the draw left. Rests on the model's
choices of assumptions 2 and 59. -/
def Obligations.RoundOpens : Prop :=
  ∀ (s : State) (ref : CmdRef) (t : Taken) (p : Nat) (buf : Bytes) (o : Opened) (r : Round),
    ReadyOn s ref 0x0201 t p → roundFree s p = none →
    openRecord (getPart s p).session t.desc.counter.toNat 1 (buf.take t.desc.length) = .ok o →
    descCheck2 (parseRound o.content) o.content o.option (t.desc.param 0 4) = true →
    keyRecordAddressOk (t.desc.param 8 8) = true →
    descCheck3 (parseRound o.content) ((namedItin (getPart s p) (parseRound o.content).itinDigest).map (fun e => e.2)) = true →
    lateRoundChecks s p (parseRound o.content) o.option false = .ok r → Alone r →
    (∀ (st : Status) (v : State), drawOp s p = ((st, []), v) → st ≠ .ok → exec (.roundOpen ref buf) s = .next (complete v t st)) ∧
    (∀ (c : Bytes) (cs : List Bytes), (getInst s 64).live = true → (getInst s p).live = true → (getInst s p).stalled = false →
     (getInst s p).queue = c :: cs →
    Succeeds (.roundOpen ref buf) s t {} (fun v => ∃ x, getRound v p = some x ∧ x.state = .opened ∧
      x.desc = parseRound o.content ∧ x.kem = o.option ∧ x.secret = c.take 32 ∧ x.index = [] ∧ x.nextSeq = 1 ∧ x.journal = [] ∧
      x.engineKeys = some (engineKeysOf x) ∧ x.wDigest = loadedDigest (getPart s p) r ∧ x.desc.roundId ∈ (getPart v p).opened ∧ (getInst v p).queue = cs ∧
      (Output.data (fnPort t.ref.fn) (BitVec.ofNat 64 (t.desc.param 8 8))
        (keyRecord (getPart s p).session t.desc.counter.toNat x)) ∈ v.outputs ∧
      OnlyPart p s v ∧ Keeps [.parts, .hbm, .entropy, .outputs] s v))

/-- ROUND.RESUME from a checkpoint that unseals and passes the checks: the round stands at the checkpoint's watermark, with its secret,
guestbook index and number, in OPEN, or in CLOSING with the survivor set fixed. Rests on the model's choices of assumptions 2 and 25. -/
def Obligations.RoundResumesAtTheWatermark : Prop :=
  ∀ (s : State) (ref : CmdRef) (t : Taken) (p : Nat) (buf b body : Bytes) (k : Restored) (c : Option Circuit) (r : Round),
    ReadyOn s ref 0x0203 t p → b = buf.take t.desc.length → roundFree s p = none → keyRecordAddressOk (t.desc.param 8 8) = true →
    checkpointUnseal s b = some body → k = parseBody body → field b 4 4 = t.desc.param 0 4 →
    k.desc.roundId.toNat = t.desc.param 0 4 →
    c = (namedItin (getPart s p) k.desc.itinDigest).bind (fun e => (match circuitOf k.desc e.2 with | .ok c => c | .error _ => none)) →
    loadedDigest (getPart s p) (freshRound k.desc k.kem c) = k.wDigest → lateRoundChecks s p k.desc k.kem true = .ok r → Alone r →
    Completes (.roundResume ref buf) s (fun u => ∃ x, getRound u p = some x ∧ x.desc = k.desc ∧ x.secret = k.secret ∧
      x.state = (if k.state = 2 then .closing else .opened) ∧ x.index = k.index ∧ x.nextSeq = k.w + 1 ∧ x.lastW = k.w ∧
      x.ckptNo = k.number ∧ x.lodgedW = some k.w ∧ x.wDigest = k.wDigest ∧ x.finalDone = ckptFinal b ∧ x.finalLodged = ckptFinal b ∧
      x.engineKeys = some (engineKeysOf x) ∧
      x.survivors = (if k.state = 2 then sortNat (Table.keys k.index) else []) ∧
      (∀ q, q ≠ p → own (getPart u q) = own (getPart s q)))

/-- ROUND.CLOSE of the OPEN round it names: CLOSING, with the survivor set fixed to the admitted clients; any other round state or name, and a
round that can only be aborted, is POLICY_DENIED. ROUND.RETIRE of an EXPORTED or ABORTED round leaves only its name and state, no work and
no key of it, and counts one retired round; the end of an aborted round's destruction leaves its name and state; ROUND.OUTBUF registers a
buffer in its slot and nothing else, and a buffer number above 1 is RANGE. Rests on the model's choices of assumption 85. -/
def Obligations.RoundsCloseAndRetire : Prop :=
  ((∀ (s : State) (ref : CmdRef) (t : Taken) (p : Nat) (r : Round), ReadyOn s ref 0x0202 t p → NamedRound s p t r → Alone r →
     r.state = .opened → r.lost = false →
     Succeeds (.roundClose ref) s t {} (fun v => ∃ x, getRound v p = some x ∧ x.state = .closing ∧
       x.survivors = sortNat (Table.keys r.index) ∧ x.index = r.index ∧ x.nextSeq = r.nextSeq ∧ x.tiles = r.tiles ∧
       x.unmask.tooBig = (r.unmask.tooBig || decide (x.desc.mode = 0 ∧ x.jCap0 + x.jCap1 < unmaskArea x)) ∧
       OnlyPart p s v ∧ Keeps [.parts, .partCells] s v)) ∧
   ∀ (s : State) (ref : CmdRef) (t : Taken) (p : Nat), ReadyOn s ref 0x0202 t p →
     (∀ r, getRound s p = some r → r.desc.roundId.toNat ≠ t.desc.param 0 4 ∨ r.state ≠ .opened ∨ r.lost = true) →
     exec (.roundClose ref) s = .next (complete s t .policyDenied)) ∧
  ((∀ (s : State) (ref : CmdRef) (t : Taken) (p : Nat) (r : Round), ReadyOn s ref 0x0204 t p → NamedRound s p t r → Alone r →
     (r.state = .exported ∨ r.state = .aborted) →
     Succeeds (.roundRetire ref) s t { r1 := if r.secret = [] then 0 else 1 } (fun v =>
       (∃ x, getRound v p = some x ∧ x.state = .retired ∧ x.desc = r.desc ∧ x.secret = [] ∧ x.index = [] ∧ x.tiles = [] ∧
         x.engineKeys = none ∧ x.journal = [] ∧ x.outbufs = []) ∧ (getPart v p).retiredCnt = (getPart s p).retiredCnt + 1 ∧
       (∀ cv e, e ∈ (getCv v cv).slots → e.1.2.1 ≠ p) ∧ (∀ cv w, (getCv v cv).work = some w → w.part ≠ p) ∧
       (getPart v p).saved = [] ∧ (∀ e, e ∈ (getPart v p).spaces → e.1.1 % 16 ≠ 2) ∧ OnlyPart p s v ∧
       Keeps [.parts, .caravans] s v)) ∧
   (∀ (s : State) (p : Nat) (r : Round), getRound s p = some r → r.destroying = true → stepRunning s p = false →
     Completes (.roundStateDestroyed p) s (fun u => (∃ x, getRound u p = some x ∧ x.state = r.state ∧ x.destroying = false ∧
       x.index = [] ∧ x.tiles = [] ∧ x.journal = []) ∧ (∀ e, e ∈ (getPart u p).spaces → e.1.1 % 16 ≠ 2) ∧ OnlyPart p s u ∧
       Keeps [.parts, .hbm] s u)) ∧
   (∀ (s : State) (ref : CmdRef) (t : Taken) (p : Nat), ReadyOn s ref 0x0205 t p → 1 < t.desc.param 4 1 →
     exec (.roundOutbuf ref) s = .next (complete s t .range)) ∧
   ∀ (s : State) (ref : CmdRef) (t : Taken) (p : Nat) (r : Round), ReadyOn s ref 0x0205 t p → NamedRound s p t r → r.lost = false →
     (r.state = .opened ∨ r.state = .closing ∨ r.state = .unmasking ∨ r.state = .finishing) → t.desc.param 4 1 ≤ 1 →
     Succeeds (.roundOutbuf ref) s t {} (fun v => getRound v p = some { r with
         outbufs := Table.put r.outbufs (t.desc.param 4 1) (t.desc.address, t.desc.length, fnPort t.ref.fn) } ∧ OnlyPart p s v ∧
       Keeps [.parts] s v))

/-- ABORT of a round in OPEN, CLOSING, UNMASKING or FINISHING: it is ABORTED without its secret, its keys and its output buffers, its pending
ADMIT, UNMASK.SEEDS, SHARE and round commands have ended, no REFRESH is under way, no caravan outside a running step holds a work or a key
of the partition and none a message of it, and one key moves to DRAINING; from FINISHING result0 counts the APPLIED tiles. The verdict on
a P0 ABORT before which no other waits under its key: passed, the round is aborted; failed, the command completes with the check's status;
and either way the partition goes on, unless another ABORT of it awaits its verdict. Rests on the model's choices of assumption 85. -/
def Obligations.AbortEndsTheRound : Prop :=
  (∀ (s : State) (ref : CmdRef) (t : Taken) (p : Nat) (r : Round), ReadyOn s ref 0x0F02 t p → NamedRound s p t r → Alone r →
     (r.state = .opened ∨ r.state = .closing ∨ r.state = .unmasking ∨ r.state = .finishing) → r.secret ≠ [] →
     ∃ (v : State) (x : Round), exec (.abort ref) s = .next (complete v t .ok
         { r0 := if r.state = .finishing then appliedCount x else 0, r1 := 1 }) ∧
       getRound v p = some x ∧ x.state = .aborted ∧ x.secret = [] ∧ x.engineKeys = none ∧ x.outbufs = [] ∧ x.destroying = true ∧
       x.desc = r.desc ∧ (∀ e, e ∈ (getPart v p).store → e.2.refreshing = none) ∧
       (getPart v p).flights = [] ∧ (getPart v p).saved = [] ∧ ((∀ k, k ∈ s.cmd.taken → k.unproved = false) → (getPart v p).held = false) ∧
       (∃ d, d ∈ (getPart v p).drains ∧ d.handle = roundKeyHandle r.desc.roundId ∧ d.value = r.secret) ∧
       (∀ k, k ∈ v.cmd.taken → endsWithRound p t.order r k = false) ∧
       (∀ cv m, m ∈ (getCv v cv).mailbox → m.part ≠ p) ∧
       (∀ cv, (getCv v cv).stepping = false → (∀ w, (getCv v cv).work = some w → w.part ≠ p) ∧
         ∀ e, e ∈ (getCv v cv).slots → e.1.2.1 ≠ p) ∧
       (∀ q, q ≠ p → own (getPart v q) = own (getPart s q)) ∧
       Keeps [.fns, .taken, .cells, .partCells, .outputs, .parts, .caravans] s v) ∧
  ((∀ (s s1 : State) (f : Fn) (k p : Nat) (t : Taken) (r : Round), unprovedOf s f k = some t → t.part = some p →
     verdictBefore s f t.order = false → islandWaits s t = false → t.desc.opcode = 0x0F02 →
     lateChecks s f t.desc = (none, s1) → NamedRound s1 p t r → Alone r →
     (r.state = .opened ∨ r.state = .closing ∨ r.state = .unmasking ∨ r.state = .finishing) →
     Completes (.p0TagVerdict f k) s (fun u =>
       ((∀ y, y ∈ s.cmd.taken → y.part = some p → y.order ≠ t.order → y.unproved = false) → (getPart u p).held = false) ∧ (∃ x, getRound u p = some x ∧ x.state = .aborted) ∧
       (∀ y, y ∈ u.cmd.taken → y.order ≠ t.order))) ∧
   ∀ (s s1 : State) (f : Fn) (k p : Nat) (t : Taken) (st : Status) (r : Results), unprovedOf s f k = some t → t.part = some p →
     verdictBefore s f t.order = false → islandWaits s t = false →
     lateChecks s f t.desc = (some (st, r), s1) →
     ∃ v, exec (.p0TagVerdict f k) s = .next (complete v t st r) ∧ getPart v p = { getPart s1 p with held := stillHeld s t } ∧
       OnlyPart p s1 v ∧ Keeps [.parts, .caravans] s1 v)

-- ------------------------------------------------------------------ admission

/-- ADMIT, whose header a Porter of a port that is up reads: quiesced, RETRY_LATER with a hint of 1,000 us; past the gates it draws two more
cells; one that fails check 1, 2 or 3 completes with the check's status, and otherwise it waits, with a flight and its journal bytes
reserved, and consumes no number yet. Rests on the model's choices of assumption 26. -/
def Obligations.AdmitReservesAndWaits : Prop :=
  (∀ (s : State) (ref : CmdRef) (t : Taken) (p : Nat) (h e : Bytes), ReadyOn s ref 0x0301 t p →
    (getPort s (fnPort ref.fn)).linkUp = true → (getPart s p).quiesced = true →
    exec (.admitEnvelope ref h e) s = .next (complete s t .retryLater { r0 := 1000 })) ∧
  ∀ (s s1 : State) (ref : CmdRef) (t : Taken) (p : Nat) (r : Round) (h e : Bytes) (c : Cells), ReadyOn s ref 0x0301 t p →
    (getPort s (fnPort ref.fn)).linkUp = true → (getPart s p).quiesced = false → NamedRound s p t r → r.state = .opened → r.lost = false → Alone r →
    gateRefusal s p t = none → journalLacks r (proofOf (getPart s p) r) = false → drawCells s (some p) 2 = some (c, s1) →
    (headerChecks r (proofOf (getPart s p) r) h t.desc.length ≠ 0 → exec (.admitEnvelope ref h e) s =
      .next (complete s1 { t with cells := addCells t.cells c }
        (checkStatus (headerChecks r (proofOf (getPart s p) r) h t.desc.length)))) ∧
    (headerChecks r (proofOf (getPart s p) r) h t.desc.length = 0 → Completes (.admitEnvelope ref h e) s (fun u =>
      Table.get? (getPart u p).flights ref = some { header := h, enc := e, client := headerClient h
                                                    jour0 := partBytes r (proofOf (getPart s p) r) 0
                                                    jour1 := partBytes r (proofOf (getPart s p) r) 1 } ∧
      (∃ x, getRound u p = some x ∧ x.index = r.index ∧ x.nextSeq = r.nextSeq ∧ x.state = .opened ∧
        x.jUse0 = r.jUse0 + partBytes r (proofOf (getPart s p) r) 0 ∧ x.jUse1 = r.jUse1 + partBytes r (proofOf (getPart s p) r) 1) ∧
      (∃ y, y ∈ u.cmd.taken ∧ y.ref = t.ref ∧ y.waiting = true ∧ y.cells = addCells t.cells c) ∧
      (∀ q, q ≠ p → getPart u q = getPart s q) ∧ Keeps [.taken, .cells, .partCells, .parts] s u))

/-- A segment that a Porter of a port that is up stages stands in the flight, padded to its length, and in the staging of a duty caravan of
its home die; the envelope's first one brings the envelope's key to a slot of every duty caravan of its dies. A pass over it records
whether its tag verified under the caravan's slot, empties its staging place and zeroes the segment buffer; it is no step, and neither
quiescing nor holding a partition keeps it back. Rests on the model's choices of assumption 2. -/
def Obligations.SegmentsAreStagedAndPassed : Prop :=
  (∀ (s : State) (ref : CmdRef) (i p cv n : Nat) (seg : Bytes) (f : Flight) (r : Round), flightOf s ref = some (p, f) →
    getRound s p = some r → (getPort s (fnPort ref.fn)).linkUp = true → (ownSegs r (proofOf (getPart s p) r)).contains i = true → Table.has f.segs i = false →
    stageAt s (segDie r.desc i) = some cv → (f.slot = some n ∨ (f.slot = none ∧ freeOpenSlot (getPart s p) = some n)) →
    Completes (.porterSegmentStage ref i seg) s (fun u =>
      (getCv u cv).staged = (getCv s cv).staged ++ [(ref, i)] ∧ (∀ k, k ≠ cv → (getCv u k).staged = (getCv s k).staged) ∧
      (f.slot = none → ∀ key base, envelopeContext r f.header f.enc = some (key, base) →
        ∀ die k, die ∈ envelopeDies r (proofOf (getPart s p) r) → k ∈ dutyCaravans s die →
          slotKey u k .opens p n = some (padTo 32 key ++ base)) ∧
      (f.slot = some n → OnlyCv cv s u) ∧
      (∃ g, Table.get? (getPart u p).flights ref = some g ∧ g.header = f.header ∧ g.passed = f.passed ∧ g.slot = some n ∧
        Table.get? g.segs i = some (padTo (segBytes (payloadLen r.desc (proofOf (getPart s p) r)) i + 16) seg)) ∧
      OnlyPart p s u ∧ Keeps [.parts, .caravans] s u)) ∧
  ∀ (s : State) (cv i p : Nat) (ref : CmdRef) (f : Flight) (r : Round), flightOf s ref = some (p, f) → getRound s p = some r →
    (getCv s cv).duty = true → cvServes s cv = true → (getCv s cv).stepping = false → stagedOnDie s cv ref i = true →
    s.keeper.locked = false → chainEmptied s cv = true →
    Completes (.admissionPass cv ref i) s (fun u =>
      (∃ g, Table.get? (getPart u p).flights ref = some g ∧ g.segs = f.segs ∧
        Table.get? g.passed i = some (match f.slot.bind (slotKey s cv .opens p) with
          | none => false
          | some k => (openEnvelopeSeg (k.take 32) (k.drop 32) f.header i (Table.getD f.segs i [])).isSome)) ∧
      (getCv u cv).openBuf = [] ∧ (∀ k, (ref, i) ∉ (getCv u k).staged) ∧ OnlyPart p s u ∧ Keeps [.parts, .caravans] s u)

/-- The commit of an ADMIT whose segments have all passed: a client admitted before is DUPLICATE with its first number, leaves the index and
the numbers alone and gives its journal bytes back; a new one gets the next sequence number in the index, in its completion and in a
journal record, its flight is over, and the round closes when the admitted count reaches n_max. Rests on the model's choices of
assumptions 76, 77 and 154. -/
def Obligations.AdmissionCommitsInOrder : Prop :=
  ∀ (s : State) (ref : CmdRef) (t : Taken) (p : Nat) (f : Flight) (r : Round), findTaken s ref = some t →
    t.desc.opcode = 0x0301 → flightOf s ref = some (p, f) → field f.header 4 4 = r.desc.roundId.toNat → getRound s p = some r → Alone r → r.state = .opened → r.lost = false →
    (∀ i, i ∈ ownSegs r (proofOf (getPart s p) r) → Table.has f.passed i = true) → bodyChecks (getPart s p) r (proofOf (getPart s p) r) f = 0 →
    (Table.has r.index f.client = true →
      ∃ v, exec (.admissionCommit ref) s = .next (complete v { t with replayed := f.replayed } .duplicate
          { r0 := Table.getD r.index f.client 0, r1 := r.desc.roundId.toNat + 2 ^ 32 * f.client }) ∧
        (∃ x, getRound v p = some x ∧ x.index = r.index ∧ x.nextSeq = r.nextSeq ∧ x.journal = r.journal ∧ x.state = .opened ∧
          x.jUse0 = r.jUse0 - f.jour0 ∧ x.jUse1 = r.jUse1 - f.jour1) ∧
        Table.get? (getPart v p).flights ref = none ∧ OnlyPart p s v ∧ Keeps [.parts, .caravans] s v) ∧
    (Table.has r.index f.client = false →
      Completes (.admissionCommit ref) s (fun u => (∃ x, getRound u p = some x ∧ Table.get? x.index f.client = some r.nextSeq ∧
          (∀ c, c ≠ f.client → Table.get? x.index c = Table.get? r.index c) ∧ x.nextSeq = r.nextSeq + 1 ∧
          (∃ j, x.journal = r.journal ++ [j] ∧ j.seq = r.nextSeq ∧ j.client = f.client ∧ j.header = f.header ∧
            j.segs = (ownSegs r (proofOf (getPart s p) r)).map (fun i => Table.getD f.segs i [])) ∧
          x.state = (if r.desc.nMax ≤ r.nextSeq then .closing else .opened)) ∧
        (∃ v, u = closeWhenFull (complete v { t with replayed := f.replayed } .ok
          { r0 := r.nextSeq, r1 := r.desc.roundId.toNat + 2 ^ 32 * f.client }) p) ∧
        Table.get? (getPart u p).flights ref = none ∧ (getPart u p).admissions = (getPart s p).admissions + 1 ∧
        (∀ y, y ∈ u.cmd.taken → y.order ≠ t.order) ∧
        (∀ q, q ≠ p → own (getPart u q) = own (getPart s q))))

-- ------------------------------------------------------------------ masked-sum, share-sum, cipher-sum

/-- UNMASK.SEEDS in CLOSING takes the payload and changes no round state, survivor set or guestbook; with the last flag set it is remembered,
and NOT_READY when a required secret is still open; every completion there carries the counts, that of a round whose journal is too small,
RANGE, too; it waits while its partition may not step; in OPEN it is ROUND_CLOSED and changes nothing, and of a round that can only be
aborted POLICY_DENIED. Beside the round only a detected fault of the reconstruction changes anything. A required secret is reconstructed
from its stored shares, by a step of its partition on a caravan that has room for one, and the vault is rebuilt in its order; while the
partition may not step or no caravan has room, it waits; a pair key whose record's tag fails when an engine unwraps it is a detected
fault, leaves the vault as it was and is to be reconstructed again. The end of a tile's unmask makes the uncommitted bank the committed
one with phase UNMASKED and mirrors the record; a round with no mask keeps its bank. Rests on the model's choices of assumptions 62, 147
and 155. -/
def Obligations.Unmasking : Prop :=
  ((∀ (s : State) (ref : CmdRef) (t : Taken) (p : Nat) (r : Round) (buf : Bytes), ReadyOn s ref 0x0401 t p → NamedRound s p t r →
     r.state = .closing → r.lost = false → r.desc.mode = 0 → r.unmask.tooBig = false → canStep s p = true →
     ∃ v x st acc rej, exec (.unmaskSeeds ref buf) s = .next (complete v t st (seedResults x acc rej)) ∧ getRound v p = some x ∧
       OnlyPart p s v ∧ Keeps [.parts, .rel, .fns, .outputs, .free] s v ∧
       x.state = .closing ∧ x.desc = r.desc ∧ x.survivors = r.survivors ∧ x.index = r.index ∧ x.tiles = r.tiles ∧
       x.unmask.lastSeen = (r.unmask.lastSeen || t.desc.last) ∧
       (t.desc.last = true → openSecrets x ≠ [] → st = .notReady)) ∧
   (∀ (s : State) (ref : CmdRef) (t : Taken) (p : Nat) (r : Round) (buf : Bytes), ReadyOn s ref 0x0401 t p → NamedRound s p t r →
     r.state = .closing → r.lost = false → r.desc.mode = 0 →
     (r.unmask.tooBig = true → exec (.unmaskSeeds ref buf) s = .next (complete s t .range (seedResults r 0 0))) ∧
     (r.unmask.tooBig = false → canStep s p = false → exec (.unmaskSeeds ref buf) s = .next (updTaken s { t with begun := true }))) ∧
   ∀ (s : State) (ref : CmdRef) (t : Taken) (p : Nat) (r : Round) (buf : Bytes), ReadyOn s ref 0x0401 t p → NamedRound s p t r →
     r.state = .opened → exec (.unmaskSeeds ref buf) s = .next (complete s t (if r.lost then .policyDenied else .roundClosed))) ∧
  ((∀ (s : State) (p c : Nat) (r : Round), getRound s p = some r → r.state = .closing → r.desc.mode = 0 → r.lost = false →
     r.unmask.tooBig = false → canStep s p = true → stepRoom s .p2 = true → windowsGood r c = true → badSecrets (tryReconstruct r c) = [] →
     Completes (.secretReconstruct p c) s (fun u => ∃ x, getRound u p = some x ∧ x.unmask.vault = vaultOf (tryReconstruct r c) ∧
       x.unmask.secrets = (tryReconstruct r c).unmask.secrets ∧ x.unmask.failed = (tryReconstruct r c).unmask.failed ∧
       x.state = r.state ∧ OnlyPart p s u ∧ Keeps [.parts] s u)) ∧
   (∀ (s : State) (p c : Nat), (canStep s p = false ∨ stepRoom s .p2 = false) → exec (.secretReconstruct p c) s = .next s) ∧
   (∀ (s : State) (p c : Nat) (r : Round), getRound s p = some r → r.state = .closing → r.desc.mode = 0 → r.lost = false →
     r.unmask.tooBig = false → canStep s p = true → stepRoom s .p2 = true → windowsGood r c = true → badSecrets (tryReconstruct r c) ≠ [] →
     Completes (.secretReconstruct p c) s (fun u => u.rel.detected = satInc s.rel.detected ∧
       (∃ x, getRound u p = some x ∧ x.state = r.state ∧ x.unmask.vault = r.unmask.vault ∧
         ∀ j, j ∈ badSecrets (tryReconstruct r c) → Table.get? x.unmask.secrets j = none) ∧
       OnlyPart p s u ∧ Keeps [.parts, .rel, .fns, .outputs, .free] s u)) ∧
   ∀ (s : State) (p i : Nat) (r : Round) (x : Tile), getRound s p = some r → x = getTile r i → r.state = .unmasking →
     r.desc.mode = 0 → r.lost = false → (ownTiles r).contains i = true → x.prim.phase = .accumulating → foldGroups r ≤ x.groups →
     Completes (.unmaskTileDone p i) s (fun u => ∃ y, getRound u p = some y ∧ (getTile y i).prim.phase = .unmasked ∧
       (getTile y i).prim.bank = (if foldGroups r = 0 then x.prim.bank else !x.prim.bank) ∧ (getTile y i).mirrored = true ∧
       (getTile y i).prim.bank0 = x.prim.bank0 ∧ (getTile y i).prim.bank1 = x.prim.bank1 ∧
       (∀ j, j ≠ i → getTile y j = getTile r j) ∧ y.state = .unmasking ∧ OnlyPart p s u ∧ Keeps [.parts] s u))

/-- Once a VERIFY work has run on an admitted share, decided or not, the device's own verifier record is kept, one record is written for each
peer, and an event carries the client_id and the count of records; the decision over all records is the verdict of R174. Rests on the
model's choices of assumptions 2, 63, 131 and 156. -/
def Obligations.SharesAreVerifiedAndDecided : Prop :=
  (∀ (s s1 : State) (p c : Nat) (r r1 : Round) (q : Proof) (j : JournalRec) (v : VRec), getRound s p = some r →
    proofOf (getPart s p) r = some q → journalOf r c = some j → q.kind = 1 → shareStates.contains r.state = true → r.lost = false →
    Table.has r.share.own c = false → r.share.verified.contains c = true → canStep s p = true →
    v = verifierRecord r.desc q (servingKey (getPart s p) r.desc q.verify) c (journalPayload r j (ownSegs r (some q))) →
    writeRecords s p r ((peersOf r.desc).map (fun b => sealToPeer (getPart s p) r.desc q c b (vrecBody v))) = some (s1, r1) →
    Completes (.verifierRecord p c) s (fun u => (∃ x, getRound u p = some x ∧ Table.get? x.share.own c = some v ∧
      x.share.written = r.share.written + (peersOf r.desc).length ∧ x.share.verdicts = r.share.verdicts ∧ x.index = r.index) ∧
      (∃ e, e ∈ (getPart u p).events ∧ e.kind = .verifierOut ∧
        e.result1 = BitVec.ofNat 64 (r.share.written + (peersOf r.desc).length) ∧ e.result2 = BitVec.ofNat 64 c) ∧
      u.outputs = s1.outputs ∧ (∀ k, k ≠ p → getPart u k = getPart s k) ∧ Keeps [.parts, .partCells, .outputs] s u)) ∧
  ∀ (s : State) (p c : Nat) (r : Round) (q : Proof) (j : JournalRec) (own : VRec) (recs : List VRec), getRound s p = some r →
    proofOf (getPart s p) r = some q → journalOf r c = some j → Table.get? r.share.own c = some own → q.kind = 1 →
    shareStates.contains r.state = true → verdictOf r c = .undecided →
    (List.range r.desc.aggCount).map (fun b => if b = r.desc.aggIndex then some own else Table.get? r.share.peers (c, b)) =
      recs.map some →
    Completes (.clientDecide p c) s (fun u => (∃ x, getRound u p = some x ∧
      verdictOf x c = decideClient r.desc q (parseShare r.desc q (journalPayload r j (ownSegs r (some q)))) own recs ∧
      (∀ k, k ≠ c → verdictOf x k = verdictOf r k) ∧ x.index = r.index) ∧ OnlyPart p s u ∧
      (r.state ≠ .unmasking → Keeps [.parts] s u) ∧ Keeps [.parts, .partCells, .outputs] s u)

/-- SHARE.OUTBUF registers the verifier output buffer, into which a sum record that is due goes at once; SHARE.DROP rejects an undecided
client and leaves a decided one. SHARE.VERIFY takes a payload of whole records and changes no verdict and no guestbook entry;
SHARE.COMBINE takes one of whole sum records likewise and, once every peer's sum stands and its own is written, adds the shares; outside
UNMASKING it is POLICY_DENIED. Rests on the model's choices of assumptions 27, 28, 41, 63 and 146. -/
def Obligations.SharesAreSummed : Prop :=
  ((∀ (s : State) (ref : CmdRef) (t : Taken) (p : Nat) (r : Round), ReadyOn s ref 0x0501 t p → NamedRound s p t r →
     r.lost = false → r.desc.mode = 1 → shareStates.contains r.state = true →
     Succeeds (.shareOutbuf ref) s t {} (fun v =>
       v = sendSums (setRound s p { r with share := { r.share with
         outbuf := some (t.desc.address, t.desc.length, fnPort t.ref.fn) } }) p ∧
       (∃ x, getRound v p = some x ∧ x.share.verdicts = r.share.verdicts ∧ x.state = r.state ∧ x.index = r.index ∧
         (r.state ≠ .unmasking → x.share.outbuf = some (t.desc.address, t.desc.length, fnPort t.ref.fn))) ∧
       OnlyPart p s v ∧ (r.state ≠ .unmasking → Keeps [.parts] s v) ∧ Keeps [.parts, .partCells, .outputs] s v)) ∧
   (∀ (s : State) (ref : CmdRef) (t : Taken) (p c : Nat) (r : Round), ReadyOn s ref 0x0503 t p → NamedRound s p t r →
     r.lost = false → r.desc.mode = 1 → shareStates.contains r.state = true → c = t.desc.param 4 4 → c < r.desc.nMax →
     verdictOf r c = .undecided →
     Succeeds (.shareDrop ref) s t {} (fun v => (∃ x, getRound v p = some x ∧ verdictOf x c = .reject ∧
       (∀ k, k ≠ c → verdictOf x k = verdictOf r k) ∧ x.state = r.state ∧ x.index = r.index) ∧ OnlyPart p s v ∧
       (r.state ≠ .unmasking → Keeps [.parts] s v) ∧ Keeps [.parts, .partCells, .outputs] s v)) ∧
   ∀ (s : State) (ref : CmdRef) (t : Taken) (p c : Nat) (r : Round), ReadyOn s ref 0x0503 t p → NamedRound s p t r →
     r.lost = false → r.desc.mode = 1 → shareStates.contains r.state = true → c = t.desc.param 4 4 → c < r.desc.nMax →
     verdictOf r c ≠ .undecided → exec (.shareDrop ref) s = .next (complete s t .ok)) ∧
  ((∀ (s : State) (ref : CmdRef) (t : Taken) (p : Nat) (r : Round) (q : Proof) (buf : Bytes), ReadyOn s ref 0x0502 t p →
     NamedRound s p t r → r.lost = false → r.desc.mode = 1 → shareStates.contains r.state = true →
     proofOf (getPart s p) r = some q → q.kind ≠ 0 → (buf.take t.desc.length).length % vrecLen q.chunk = 0 →
     (takeRecords (getPart s p) q (pieces (vrecLen q.chunk) (buf.take t.desc.length)) r none).2.2 = false →
     ∃ x st, exec (.shareVerify ref buf) s = .next (complete (setRound s p x) t st {}) ∧ x.share.verdicts = r.share.verdicts ∧
       x.share.own = r.share.own ∧ x.index = r.index ∧ x.state = r.state ∧ x.journal = r.journal) ∧
   (∀ (s : State) (ref : CmdRef) (t : Taken) (p : Nat) (r : Round) (q : Proof), ReadyOn s ref 0x0504 t p →
     NamedRound s p t r → r.lost = false → r.desc.mode = 1 → r.state = .unmasking → proofOf (getPart s p) r = some q → seesTotal r.desc = true →
     r.share.combined = false → r.share.sumSent = true → (∀ b, b ∈ peersOf r.desc → Table.has r.share.sums b = true) →
     Succeeds (.shareCombine ref []) s t {} (fun v => getRound v p = some (combineShares r) ∧ OnlyPart p s v ∧ Keeps [.parts] s v)) ∧
   (∀ (s : State) (ref : CmdRef) (t : Taken) (p : Nat) (r : Round) (q : Proof) (buf : Bytes), ReadyOn s ref 0x0504 t p →
     NamedRound s p t r → r.lost = false → r.desc.mode = 1 → r.state = .unmasking → proofOf (getPart s p) r = some q →
     seesTotal r.desc = true → r.share.combined = false →
     (buf.take t.desc.length).length % (16 + 32 + r.desc.vectorLength * laneBytes r.desc.laneFormat + 16) = 0 →
     ∃ x st, exec (.shareCombine ref buf) s = .next (complete (setRound s p x) t st {}) ∧ x.share.verdicts = r.share.verdicts ∧
       x.index = r.index ∧ x.state = r.state ∧ x.journal = r.journal) ∧
   ∀ (s : State) (ref : CmdRef) (t : Taken) (p : Nat) (buf : Bytes), ReadyOn s ref 0x0504 t p →
     (∀ r, getRound s p = some r → r.state ≠ .unmasking) → exec (.shareCombine ref buf) s = .next (complete s t .policyDenied))

/-- CT.ADD and CT.ROT whose turn has come, on a leveled channel or without a shortfall: a new handle of the channel, at the lower level of the
operands and the budget of R188, the operands untouched; result0 carries handle, level, budget and the flags. A key switch reads of its
key the digits and limbs of its level alone, and one under a key of another fingerprint gives KEY_MISMATCH and no ciphertext. What waited
behind the command follows it. Rests on the model's choices of assumptions 30, 32, 83 and 147. -/
def Obligations.CipherOperationsMakeNewHandles : Prop :=
  (∀ (s : State) (ref : CmdRef) (t : Taken) (p a b h : Nat) (r : Round) (k : KeySet) (x : Partition) (c1 c2 : Cipher),
    CtTurn s ref 0x0601 t p r k → x = getPart s p → a = t.desc.param 0 4 → b = t.desc.param 4 4 → h = x.nextHandle →
    Table.get? x.store a = some c1 → Table.get? x.store b = some c2 →
    (leveledChannel r t = true ∨ (shortfall k r.desc.refreshThreshold (.add a b) c1 = false ∧
      shortfall k r.desc.refreshThreshold (.add a b) c2 = false)) →
    ∃ v c, exec (.ctAdd ref) s = .next (pumpCt (complete v t .ok
        (ctResults h c (decide (c.budget < r.desc.refreshThreshold)) false)) p) ∧
      Table.get? (getPart v p).store h = some c ∧
      c.level = min c1.level c2.level ∧ c.channel = t.desc.channel.toNat ∧ c.fingerprint = c1.fingerprint ∧
      c.budget = cappedBudget k (min c1.level c2.level) (min c1.budget c2.budget) 1 ∧
      c.body = addBodies k (min c1.level c2.level) (switchDown k c1 (min c1.level c2.level)).body
        (switchDown k c2 (min c1.level c2.level)).body ∧
      (∀ g, g ≠ h → Table.get? (getPart v p).store g = Table.get? x.store g) ∧ (getPart v p).nextHandle = h + 1 ∧
      OnlyPart p s v ∧ Keeps [.parts] s v) ∧
  (∀ (s : State) (ref : CmdRef) (t : Taken) (p a g h fp : Nat) (r : Round) (k : KeySet) (x : Partition) (c1 : Cipher) (kb : List Nat),
    CtTurn s ref 0x0603 t p r k → x = getPart s p → a = t.desc.param 0 4 → h = x.nextHandle →
    g = rotationElement k.log2n (t.desc.param 4 4) (bitAt (t.desc.param 8 1) 0) →
    Table.get? x.store a = some c1 → galoisKey k g = some (1, g, fp, kb) →
    (leveledChannel r t = true ∨ shortfall k r.desc.refreshThreshold (.rot a g) c1 = false) →
    (fp = c1.fingerprint → ∃ v c, exec (.ctRot ref) s = .next (pumpCt (complete v t .ok
        (ctResults h c (decide (c.budget < r.desc.refreshThreshold)) false)) p) ∧
      Table.get? (getPart v p).store h = some c ∧
      c.level = c1.level ∧ c.channel = t.desc.channel.toNat ∧ c.budget = cappedBudget k c1.level c1.budget 2 ∧
      c.body = canonBody k c1.level (Sys2Proof.Config.keySwitchBody (keyNumbers k) (autoBody k.log2n g c1.body)
        (keyWords k c1.level kb)) ∧
      (∀ j, j ≠ h → Table.get? (getPart v p).store j = Table.get? x.store j) ∧ OnlyPart p s v ∧ Keeps [.parts] s v) ∧
    (fp ≠ c1.fingerprint → ∃ v, exec (.ctRot ref) s = .next (pumpCt (complete v t .keyMismatch
        { r0 := c1.fingerprint, r1 := fp, r2 := g + 2 ^ 32 * g }) p) ∧ (getPart v p).store = x.store ∧ OnlyPart p s v ∧
      Keeps [.parts] s v)) ∧
  ∀ (s : State) (p : Nat), (∀ y, y ∈ s.cmd.taken → isCt y = true → y.waiting = false) →
    (getPart (pumpCt s p) p).store = (getPart s p).store ∧ OnlyPart p s (pumpCt s p) ∧ Keeps [.parts] s (pumpCt s p)

/-- CT.PMUL with a record bound to the handle and the channel and a fresh record number: the product stands at one level lower under a new
handle, on a leveled channel whose operand has a level and on a refresh channel without a shortfall; a leveled channel's operand at level
0 gives LEVEL_EXHAUSTED, and a refresh channel's shortfall a REFRESH before the product. CT.LUT on a refresh channel starts a REFRESH with
its table and waits; on a leveled channel it is POLICY_DENIED, and a lut_id above 31 is RANGE. A REFRESH takes a step of at most 15,000
beats of entry at a time on a caravan that has room for a P3 step, and a phase's output stands at its end; after its fifth phase its
handle is left at the refresh output level and budget, with the words of that phase, and no longer refreshing; what waited for it, a CT
command or an unload, follows. The third phase gives every slot the table's value, which is the entry of R195 for a centred value within
the table and the value itself for the identity. Rests on the model's choices of assumptions 2, 31, 32, 83, 153 and 157. -/
def Obligations.PlaintextProductsTablesAndRefreshes : Prop :=
  ((∀ (s : State) (ref : CmdRef) (t : Taken) (p a w h : Nat) (r : Round) (k : KeySet) (x : Partition) (c1 : Cipher) (buf : Bytes)
     (o : Opened) (plain : List Nat), CtTurn s ref 0x0602 t p r k → x = getPart s p → Table.has x.plains t.order = false →
     a = t.desc.param 0 4 → w = t.desc.param 4 1 → h = x.nextHandle → Table.get? x.store a = some c1 →
     openRecord x.session t.desc.counter.toNat 6 (buf.take t.desc.length) = .ok o → x.session.plainNo.all (fun n => decide (n < o.counter)) = true →
     field o.content 0 4 = a → field o.content 4 1 = t.desc.channel.toNat → o.content.length = 8 + 8 * 2 ^ k.log2n →
     zeros o.content 5 3 = true → plain = bodyWords (o.content.drop 8) →
     ((leveledChannel r t = true ∧ 0 < c1.level) ∨ (leveledChannel r t = false ∧
         shortfall k r.desc.refreshThreshold (.pmul a w plain) c1 = false) →
       ∃ v c, exec (.ctPmul ref buf) s = .next (pumpCt (complete v t .ok
           (ctResults h c (decide (c.budget < r.desc.refreshThreshold)) false)) p) ∧
         Table.get? (getPart v p).store h = some c ∧ c.level = c1.level - 1 ∧ c.channel = t.desc.channel.toNat ∧
         c.budget = cappedBudget k (c1.level - 1) c1.budget (w + k.log2n / 2 + 4) ∧
         c.body = canonBody k (c1.level - 1) (Sys2Proof.Config.plainMulBody (keyNumbers k) c1.body plain) ∧
         (∀ g, g ≠ h → Table.get? (getPart v p).store g = Table.get? x.store g) ∧
         (getPart v p).session.plainNo = some o.counter ∧ OnlyPart p s v ∧ Keeps [.parts] s v) ∧
     (leveledChannel r t = true → c1.level = 0 → ∃ v, exec (.ctPmul ref buf) s = .next (pumpCt (complete v t .levelExhausted) p) ∧
       (getPart v p).store = x.store ∧ OnlyPart p s v ∧ Keeps [.parts] s v) ∧
     (leveledChannel r t = false → shortfall k r.desc.refreshThreshold (.pmul a w plain) c1 = true →
       c1.channel = t.desc.channel.toNat → ∃ v, exec (.ctPmul ref buf) s = .next (pumpCt v p) ∧
         Table.get? (getPart v p).store a = some { c1 with refreshing := some (startRefresh k 0 []) } ∧
         (∃ y, y ∈ v.cmd.taken ∧ y.ref = t.ref ∧ y.waiting = true ∧ y.inserted = [a]) ∧ OnlyPart p s v ∧ Keeps [.parts, .taken] s v)) ∧
   (∀ (s : State) (ref : CmdRef) (t : Taken) (p a id : Nat) (r : Round) (k : KeySet) (x : Partition) (c1 : Cipher) (l : List Nat),
     CtTurn s ref 0x0604 t p r k → x = getPart s p → leveledChannel r t = false → a = t.desc.param 0 4 → id = t.desc.param 4 1 → id ≤ 31 →
     Table.get? x.store a = some c1 → c1.channel = t.desc.channel.toNat → lutEntries x r k id = some l →
     ∃ v, exec (.ctLut ref) s = .next (pumpCt v p) ∧
       Table.get? (getPart v p).store a = some { c1 with refreshing := some (startRefresh k id l) } ∧
       (∃ y, y ∈ v.cmd.taken ∧ y.ref = t.ref ∧ y.waiting = true ∧ y.inserted = [a]) ∧ OnlyPart p s v ∧ Keeps [.parts, .taken] s v) ∧
   (∀ (s : State) (ref : CmdRef) (t : Taken) (p : Nat) (r : Round) (k : KeySet), CtTurn s ref 0x0604 t p r k → 31 < t.desc.param 4 1 →
     exec (.ctLut ref) s = .next (pumpCt (complete s t .range) p)) ∧
   ∀ (s : State) (ref : CmdRef) (t : Taken) (p : Nat) (r : Round) (k : KeySet) (c1 : Cipher),
     CtTurn s ref 0x0604 t p r k → t.desc.param 4 1 ≤ 31 → leveledChannel r t = true →
     Table.get? (getPart s p).store (t.desc.param 0 4) = some c1 →
     exec (.ctLut ref) s = .next (pumpCt (complete s t .policyDenied) p)) ∧
  ((∀ (s : State) (p h : Nat) (r : Round) (k : KeySet) (c : Cipher) (f : Refreshing), canStep s p = true →
     ctRound s p = some (r, k) → Table.get? (getPart s p).store h = some c → c.refreshing = some f → refreshMismatch k c = none →
     (f.phase ≤ 5 → libraryOn s p h = false → stepRoom s .p3 = true →
       Completes (.refreshCommit p h) s (fun u => ∃ g, Table.get? (getPart u p).store h = some { c with refreshing := some g } ∧
         (15000 < f.left → g = { f with left := f.left - 15000 }) ∧
         (f.left ≤ 15000 → g.phase = f.phase + 1 ∧ g.words = phaseWords k c ((lutEntries (getPart s p) r k f.lut).getD []) f.phase f.words) ∧
         (∀ j, j ≠ h → Table.get? (getPart u p).store j = Table.get? (getPart s p).store j) ∧ OnlyPart p s u ∧ Keeps [.parts] s u)) ∧
     (5 < f.phase → ∃ v y, exec (.refreshCommit p h) s = .next (settleUnloads (pumpCt v p)) ∧ Table.get? (getPart v p).store h = some y ∧
       y.level = k.refreshOut - 1 ∧ y.budget = cappedBudget k (k.refreshOut - 1) k.outBudget 0 ∧ y.refreshing = none ∧
       y.channel = c.channel ∧ y.fingerprint = c.fingerprint ∧ y.body = f.words ∧
       (∀ g, g ≠ h → Table.get? (getPart v p).store g = Table.get? (getPart s p).store g) ∧ OnlyPart p s v ∧
       Keeps [.parts, .caravans] s v)) ∧
   (∀ (k : KeySet) (c : Cipher) (entries words : List Nat),
     phaseWords k c entries 3 words = Sys2Proof.Config.slotCipher (keyNumbers k) words
       ((Sys2Proof.Config.slotValues (keyNumbers k) c.body).map (lutValue k.modulus entries))) ∧
   (∀ (t v : Nat) (entries : List Nat), entries ≠ [] → (v + entries.length / 2) % t < entries.length →
     lutValue t entries v = entries.getD ((v + entries.length / 2) % t) 0 % t) ∧
   ∀ (t v : Nat), lutValue t [] v = v)

-- ------------------------------------------------------------------ sets, weights, firmware

/-- A KEYSET record that opens and reads fills the lowest free set slot and reports it. KEYSET.UNLOAD and ITIN.UNLOAD of an empty slot
complete and change nothing; of a set that the round names they are POLICY_DENIED; of a set that a key switch or a work still uses they
wait; of any other they free its slot. WEIGHTS.LOAD of a whole image outside a running round replaces the partition's image and clears
torn; its read-back writes the image as a sealed record at the command's address and changes no partition; in either direction it is
POLICY_DENIED while a round runs, and the read-back also where the partition holds no image. Rests on the model's choices of assumptions
2, 29 and 34. -/
def Obligations.SetsAndWeightsAreLoaded : Prop :=
  ((∀ (s : State) (ref : CmdRef) (t : Taken) (p i : Nat) (buf : Bytes) (o : Opened) (k : KeySet), KeeperReadyOn s ref 0x0801 t p →
     openRecord (getPart s p).session t.desc.counter.toNat 3 (buf.take t.desc.length) = .ok o →
     freeSetSlot (getPart s p).keySets = some i → readKeySet o.content = .ok k →
     Succeeds (.keysetLoad ref buf) s t { r0 := i } (fun v =>
       getPart v p = { getPart s p with keySets := Table.put (getPart s p).keySets i k } ∧ OnlyPart p s v ∧
       Keeps [.parts] (keeperServed s t) v)) ∧
   (∀ (s : State) (ref : CmdRef) (t : Taken) (p i : Nat) (k : KeySet), ReadyOn s ref 0x0802 t p → i = t.desc.param 0 1 → i ≤ 3 →
     Table.get? (getPart s p).keySets i = some k → roundNamesKeySet (getPart s p) k.fingerprint = false →
     keySetBusy (getPart s p) k = false →
     Succeeds (.keysetUnload ref) s t {} (fun v => Table.get? (getPart v p).keySets i = none ∧
       (∀ j, j ≠ i → Table.get? (getPart v p).keySets j = Table.get? (getPart s p).keySets j) ∧ OnlyPart p s v ∧
       Keeps [.parts] s v)) ∧
   (∀ (s : State) (ref : CmdRef) (t : Taken) (p i : Nat), ReadyOn s ref 0x0802 t p → i = t.desc.param 0 1 → i ≤ 3 →
     (Table.get? (getPart s p).keySets i = none → exec (.keysetUnload ref) s = .next (complete s t .ok)) ∧
     (∀ k, Table.get? (getPart s p).keySets i = some k →
       (roundNamesKeySet (getPart s p) k.fingerprint = true → exec (.keysetUnload ref) s = .next (complete s t .policyDenied)) ∧
       (roundNamesKeySet (getPart s p) k.fingerprint = false → keySetBusy (getPart s p) k = true →
         exec (.keysetUnload ref) s = .next (updTaken s { t with waiting := true })))) ∧
   (∀ (s : State) (ref : CmdRef) (t : Taken) (p i : Nat) (m : ItinSet), ReadyOn s ref 0x0902 t p → i = t.desc.param 0 1 → i ≤ 3 →
     Table.get? (getPart s p).itins i = some m → roundNamesItin (getPart s p) m = false → itinBusy s p i = false →
     Succeeds (.itinUnload ref) s t {} (fun v => Table.get? (getPart v p).itins i = none ∧
       (∀ j, j ≠ i → Table.get? (getPart v p).itins j = Table.get? (getPart s p).itins j) ∧ OnlyPart p s v ∧ Keeps [.parts] s v)) ∧
   ∀ (s : State) (ref : CmdRef) (t : Taken) (p i : Nat), ReadyOn s ref 0x0902 t p → i = t.desc.param 0 1 → i ≤ 3 →
     (Table.get? (getPart s p).itins i = none → exec (.itinUnload ref) s = .next (complete s t .ok)) ∧
     (∀ m, Table.get? (getPart s p).itins i = some m →
       (roundNamesItin (getPart s p) m = true → exec (.itinUnload ref) s = .next (complete s t .policyDenied)) ∧
       (roundNamesItin (getPart s p) m = false → itinBusy s p i = true →
         exec (.itinUnload ref) s = .next (updTaken s { t with waiting := true })))) ∧
  ((∀ (s : State) (ref : CmdRef) (t : Taken) (p vl : Nat) (buf : Bytes) (o : Opened), KeeperReadyOn s ref 0x0A01 t p →
     t.desc.param 0 1 = 0 → weightsBusy s p = false →
     openRecord (getPart s p).session t.desc.counter.toNat 5 (buf.take t.desc.length) = .ok o → o.option ≤ 2 →
     o.content.length = 4 * weightParts o.option * vl → 1 ≤ vl → vl ≤ 2 ^ 34 →
     Succeeds (.weightsLoad ref buf) s t {} (fun v => (∃ w, (getPart v p).weights = some w ∧ w.optimiser = o.option ∧
       w.vectorLength = vl ∧ w.torn = false ∧ w.flat = (pieces 4 o.content).map (fun b => BitVec.ofNat 32 (leNat b)) ∧
       w.digest = imageDigest vl (weightParts o.option) w.flat) ∧ (getPart v p).round = (getPart s p).round ∧ OnlyPart p s v ∧
       Keeps [.parts] (keeperServed s t) v)) ∧
   (∀ (s : State) (ref : CmdRef) (t : Taken) (p : Nat) (w : Weights), KeeperReadyOn s ref 0x0A01 t p → t.desc.param 0 1 = 1 →
     weightsBusy s p = false → (getPart s p).weights = some w → (getPart s p).session.live = true →
     32 + recordBodyLen (wordsLe w.flat).length ≤ t.desc.length →
     Succeeds (.weightsReadBack ref) s t {} (fun v => v.outputs = s.outputs ++ [.data (fnPort t.ref.fn) t.desc.address
       (sealRecord (getPart s p).session 0x85 t.desc.counter.toNat w.optimiser (wordsLe w.flat))] ∧ Keeps [.outputs] (keeperServed s t) v)) ∧
   ∀ (s : State) (ref : CmdRef) (t : Taken) (p : Nat) (buf : Bytes), KeeperReadyOn s ref 0x0A01 t p →
     (weightsBusy s p = true → t.desc.param 0 1 = 0 →
       exec (.weightsLoad ref buf) s = .next (complete (keeperServed s t) t .policyDenied)) ∧
     (weightsBusy s p = true ∨ (getPart s p).weights = none → t.desc.param 0 1 = 1 →
       exec (.weightsReadBack ref) s = .next (complete (keeperServed s t) t .policyDenied)))

/-- A set carries an itinerary for any role 0 to 6 at most once: what loads carries no other role and none twice, and a set that does is
MALFORMED (R250). -/
def Obligations.SetsCarryEachRoleAtMostOnce : Prop :=
  (∀ (b : Bytes) (m : ItinSet), parseSet b = some m → (Table.keys m.itins).Nodup ∧ ∀ role, role ∈ Table.keys m.itins → role ≤ 6) ∧
  ∀ (s : State) (ref : CmdRef) (t : Taken) (p i : Nat) (buf : Bytes) (o : Opened), KeeperReadyOn s ref 0x0901 t p →
    openRecord (getPart s p).session t.desc.counter.toNat 4 (buf.take t.desc.length) = .ok o →
    freeSetSlot (getPart s p).itins = some i →
    (∀ m, parseSet o.content = some m → Succeeds (.itinLoad ref buf) s t { r0 := i } (fun v =>
      Table.get? (getPart v p).itins i = some m ∧ (∀ j, j ≠ i → Table.get? (getPart v p).itins j = Table.get? (getPart s p).itins j) ∧
      OnlyPart p s v ∧ Keeps [.parts] (keeperServed s t) v)) ∧
    (parseSet o.content = none → exec (.itinLoad ref buf) s = .next (complete (keeperServed s t) t .malformed))

-- ------------------------------------------------------------------ checkpoints, transitions, finishing, circuits

/-- A checkpoint that is due closes the batch at W and is in progress, or stands next behind the one whose copies run. A step of class P3, or
P2 while a drain of the tile waits, copies a tile's bank to the bank that its mirror's entry does not name, and the entry then names W;
after the last tile the journal up to W is free. An exported one is LODGED once its sealed bytes are written with a salt of the device
instance, and the next one is in progress. Rests on the model's choices of assumptions 13, 65, 121 and 147. -/
def Obligations.CheckpointsRunToLodged : Prop :=
  (∀ (s : State) (p : Nat) (cause : CkptCause) (r : Round), getRound s p = some r → Alone r →
    (r.state = .opened ∨ r.state = .closing) → canClose r = true → r.lost = false → (getPart s p).quiesced = false →
    s.keeper.locked = false → checkpointDue r cause = true →
    Completes (.checkpointTake p cause) s (fun u => (∃ x c, getRound u p = some x ∧ c.w = closableW r ∧ x.sinceCkpt = 0 ∧
      (r.ckpt = none → x.ckpt = some c ∧ c.number = r.ckptNo + 1) ∧
      (∀ b, r.ckpt = some b → x.ckpt = some b ∧ x.ckptNext = some c ∧ c.number = r.ckptNo + 1 + (if b.mirrorDone then 0 else 1)) ∧
      c.final = decide (cause = .final) ∧ c.mirrored = [] ∧ x.batchW = max r.batchW (closableW r) ∧
      x.index = r.index ∧ x.tiles = r.tiles ∧ x.journal = r.journal ∧ x.state = r.state) ∧ OnlyPart p s u ∧ Keeps [.parts] s u)) ∧
  (∀ (s : State) (p i : Nat) (r : Round) (c : Ckpt), getRound s p = some r → r.ckpt = some c → c.mirrorDone = false →
    c.mirrored.contains i = false → (ownTiles r).contains i = true → (getTile r i).prim.watermark = c.w → r.lost = false →
    s.rel.crossDown = false → canStep s p = true → stepRoom s (if drainWaits s p i then .p2 else .p3) = true →
    Completes (.mirrorCopyDone p i) s (fun u => (∃ x, getRound u p = some x ∧ (getTile x i).prim = (getTile r i).prim ∧
        (getTile x i).mirr.watermark = c.w ∧ (getTile x i).mirr.committed = (getTile r i).prim.committed ∧
        (getTile x i).mirr.batch = (getTile r i).prim.batch ∧ (getTile x i).mirr.phase = (getTile r i).prim.phase ∧
        (getTile x i).mirr.bank = !(getTile r i).mirr.bank ∧ (∀ j, j ≠ i → getTile x j = getTile r j) ∧
        ((ownTiles r).length ≤ (insertNat i c.mirrored).length → x.lastW = c.w ∧ x.ckptNo = c.number ∧
          (∀ j, j ∈ x.journal → c.w < j.seq) ∧ (∀ j, j ∈ r.journal → c.w < j.seq → j ∈ x.journal) ∧
          (c.exported = false → x.ckpt = r.ckptNext ∧ x.ckptNext = none ∧ x.finalDone = (r.finalDone || c.final))) ∧
        ((insertNat i c.mirrored).length < (ownTiles r).length → x.journal = r.journal)) ∧
      OnlyPart p s u ∧ Keeps [.parts] s u)) ∧
  ∀ (s : State) (p : Nat) (addr : W64) (r : Round) (c : Ckpt) (b : Bytes) (cs : List Bytes), getRound s p = some r → Alone r →
    r.ckpt = some c → c.mirrorDone = true → c.exported = true → r.lost = false → admittedHeld s p c.w = false →
    (getInst s 64).live = true → (getInst s 64).stalled = false → (getInst s 64).queue = b :: cs →
    Completes (.checkpointExportDone p addr) s (fun u => (∃ x, getRound u p = some x ∧ x.ckpt = r.ckptNext ∧ x.ckptNext = none ∧
        x.lodgedW = some c.w ∧ x.finalDone = (r.finalDone || c.final) ∧
        x.finalLodged = (r.finalLodged || ((r.finalDone || c.final) && decide (c.number = r.ckptNo)))) ∧ (getInst u 64).queue = cs ∧
      u.outputs = s.outputs ++ [.data (outPort (getPart s p)) addr (checkpointExport s r c (b.take 16))] ∧
      (∃ e, e ∈ (getPart u p).events ∧ e.kind = .lodged ∧ e.result1 = BitVec.ofNat 64 c.w) ∧
      (∀ q, q ≠ p → getPart u q = getPart s q) ∧ Keeps [.parts, .partCells, .entropy, .outputs] s u)

/-- CLOSING becomes UNMASKING when its condition holds, and a STATE event says so; UNMASKING, or CLOSING in cipher-sum, becomes FINISHING with
the noise key, where sigma is not 0, and the salt drawn from the partition's instance in this order, in the pass of its mode; FINISHING
becomes EXPORTED once every image is confirmed, and its image keys and the partition's SEAL and FINISH slots are gone. Rests on the
model's choices of assumptions 77, 82 and 106. -/
def Obligations.InternalTransitionsOfTheRound : Prop :=
  (∀ (s : State) (p : Nat) (r : Round), getRound s p = some r → Alone r → closingDone s p r = true → r.desc.mode ≠ 2 →
    s.keeper.locked = false →
    Completes (.enterUnmasking p) s (fun u => (∃ x, getRound u p = some x ∧ x.state = .unmasking ∧ x.desc = r.desc ∧ x.index = r.index ∧
        (r.desc.mode = 0 → x.tiles = r.tiles)) ∧
      (∃ e, e ∈ (getPart u p).events ∧ e.kind = .stateChange ∧ e.roundState = .unmasking) ∧
      (∀ q, q ≠ p → getPart u q = getPart s q) ∧ Keeps [.parts, .partCells, .outputs] s u ∧
      (r.desc.mode = 0 → Keeps [.parts, .partCells] s u))) ∧
  (∀ (s : State) (p : Nat) (r : Round) (kn : Option Bytes) (c : Bytes) (cs : List Bytes), getRound s p = some r → Alone r →
    finishReady s p r = true → s.keeper.locked = false → (getInst s 64).live = true → (getInst s p).live = true →
    (getInst s p).stalled = false →
    ((drawsNoise r = true ∧ ∃ b, kn = some (b.take 32) ∧ (getInst s p).queue = b :: c :: cs) ∨
      (drawsNoise r = false ∧ kn = none ∧ (getInst s p).queue = c :: cs)) →
    Completes (.enterFinishing p) s (fun u => (∃ x, getRound u p = some x ∧ x.state = .finishing ∧ x.unmask = {} ∧
        x.finish.kNoise = kn ∧ x.finish.salt = some (c.take 16) ∧ x.finish.pass = firstPass r.desc ∧
        Table.keys x.finish.imgKeys = imagesOf r.desc) ∧ (getInst u p).queue = cs ∧
      (∀ q, q ≠ p → getPart u q = getPart s q) ∧ Keeps [.parts, .partCells, .entropy] s u)) ∧
  ∀ (s : State) (p : Nat) (r : Round), getRound s p = some r → Alone r → r.state = .finishing → r.lost = false →
    s.keeper.locked = false → r.finish.pass ≠ .waitingEntropy → nextImage r = none →
    Completes (.enterExported p) s (fun u => (∃ x, getRound u p = some x ∧ x.state = .exported ∧ x.finish.imgKeys = [] ∧
        x.desc = r.desc) ∧ (∀ cv e, e ∈ (getCv u cv).slots → e.1.2.1 = p → e.1.1 = .opens) ∧
      (∀ q, q ≠ p → getPart u q = getPart s q) ∧ Keeps [.parts, .partCells, .caravans] s u)

/-- The passes and records of FINISHING: the update pass gives way to the row merge once every tile is FINISHED; a tile of the apply pass
whose staging slot is whole goes from untouched to STAGED with its leaf digest and maximum row partials, and from STAGED to APPLIED with
the record in the weights; an image that fits its buffer is written through the port that serves and confirmed, and one that does not fit
leaves only a NOT_READY event. Rests on the model's choices of assumptions 13, 47, 80, 81, 124 and 158. -/
def Obligations.FinishingCommits : Prop :=
  (∀ (s : State) (p : Nat) (r : Round), getRound s p = some r → Alone r → r.state = .finishing → r.lost = false → canStep s p = true →
    r.finish.pass = .update → (∀ t, t ∈ ownTiles r → (getTile r t).prim.phase = .finished) →
    Completes (.finishPassDone p) s (fun u => (∃ x, getRound u p = some x ∧ x.finish.pass = .rowMerge ∧ x.tiles = r.tiles ∧
      x.finish.rows = r.finish.rows) ∧ OnlyPart p s u ∧ Keeps [.parts] s u)) ∧
  (∀ (s : State) (p i : Nat) (r : Round) (w : Weights) (nw : List W32), getRound s p = some r → (getPart s p).weights = some w →
    r.state = .finishing → r.finish.pass = .apply → (ownTiles r).contains i = true → r.lost = false → canStep s p = true →
    (getTile r i).applyRec = .untouched → (getTile r i).staging = some nw →
    Completes (.applyTileCommit p i) s (fun u => (∃ x, getRound u p = some x ∧ (getTile x i).applyRec = .staged ∧
        (getTile x i).staging = some nw ∧ (getTile x i).leaf = leafDigest (wordsLe nw) ∧
        (getTile x i).maxima = tileMaxima (getPart s p) r.desc i ∧
        (∀ j, j ≠ i → getTile x j = getTile r j)) ∧ (getPart u p).weights = some w ∧ OnlyPart p s u ∧ Keeps [.parts] s u)) ∧
  (∀ (s : State) (p i : Nat) (r : Round) (w : Weights) (nw : List W32), getRound s p = some r → (getPart s p).weights = some w →
    r.state = .finishing → r.finish.pass = .apply → (ownTiles r).contains i = true → r.lost = false → canStep s p = true →
    (getTile r i).applyRec = .staged → (getTile r i).staging = some nw →
    Completes (.applyTileCommit p i) s (fun u => (∃ x v, getRound u p = some x ∧ (getPart u p).weights = some v ∧
        (getTile x i).applyRec = .applied ∧ (getTile x i).staging = none ∧
        v.flat = putRecord r.desc (weightParts w.optimiser) w.flat i nw ∧ v.torn = w.torn ∧
        (∀ j, j ≠ i → getTile x j = getTile r j)) ∧ OnlyPart p s u ∧ Keeps [.parts] s u)) ∧
  (∀ (s : State) (p k len : Nat) (a : W64) (port given : Port) (r : Round), getRound s p = some r → r.state = .finishing →
    r.finish.pass = .exporting → nextImage r = some k → r.lost = false → canStep s p = true → sealedWhole (getPart s p) r k = true →
    Table.get? r.outbufs (if k = 1 then 1 else 0) = some (a, len, given) → (sealedImage (getPart s p) r k).length ≤ len →
    (getPart s p).serving = some port → (getPort s port).linkUp = true →
    Completes (.imageWriteConfirm p k) s (fun u => u.outputs = s.outputs ++ [.data port a (sealedImage (getPart s p) r k)] ∧
      (∃ x, getRound u p = some x ∧ x.finish.confirmed = r.finish.confirmed ++ [k] ∧ x.finish.sealed = [] ∧ x.state = .finishing) ∧
      OnlyPart p s u ∧
      Keeps [.parts, .outputs] s u)) ∧
  ∀ (s : State) (p k : Nat) (r : Round), getRound s p = some r → r.state = .finishing → r.finish.pass = .exporting →
    nextImage r = some k → r.lost = false → canStep s p = true → sealedWhole (getPart s p) r k = true →
    (∀ b, Table.get? r.outbufs (if k = 1 then 1 else 0) = some b → b.2.1 < (sealedImage (getPart s p) r k).length) →
    Completes (.imageWriteConfirm p k) s (fun u => u.outputs = s.outputs ∧ getRound u p = some r ∧
      (∃ e, e ∈ (getPart u p).events ∧ e.kind = .roundStatus ∧ e.status = .notReady ∧ e.result1 =
        BitVec.ofNat 64 (sealedImage (getPart s p) r k).length) ∧ Keeps [.partCells] s u)

/-- The lead answers a member whose proof, descriptor digest and watermark are right with the round's secret and counts it joined; a wrong
proof is answered with a refusal and joins nobody. A row's owner keeps a member's partial under the row and the member: 40 bytes after the
update pass. A member takes the sequence number that the lead sends and confirms it; the lead keeps a member's verdict while another is
missing and assigns no number; a member follows the lead into CLOSING with the lead's survivor set, and into UNMASKING. Rests on the
model's choices of assumptions 13, 22 and 154. -/
def Obligations.CircuitMembersJoinAndFollow : Prop :=
  ((∀ (s : State) (p m w : Nat) (proof dd : Bytes) (r : Round) (c : Circuit), (getPart s p).opening = some r → r.circuit = some c →
     c.self = 0 → 0 < m → m < c.members.length → c.joined.contains m = false →
     c.joined.length + 2 < c.members.length →
     Completes (.circuitJoin p m proof dd w) s (fun u =>
       (proof = joinProof (keyAt (getPart s p) r.desc.ownerKey) r.desc.roundId (c.members.getD m (0, 0, 0)).1
           (c.members.getD m (0, 0, 0)).2.1 → dd = Sys2Proof.Config.sha256 r.desc.raw → w = r.lastW →
         (p, m, CircuitMsg.change (.opened r.secret)) ∈ u.porush.messages ∧
         ∃ x k, (getPart u p).opening = some x ∧ x.circuit = some k ∧ k.joined = insertNat m c.joined) ∧
       (proof ≠ joinProof (keyAt (getPart s p) r.desc.ownerKey) r.desc.roundId (c.members.getD m (0, 0, 0)).1
           (c.members.getD m (0, 0, 0)).2.1 →
         (p, m, CircuitMsg.change .refused) ∈ u.porush.messages ∧ (getPart u p).opening = some r) ∧
       (getPart u p).round = (getPart s p).round ∧ (∀ q, q ≠ p → own (getPart u q) = own (getPart s q)))) ∧
   ∀ (s : State) (p row m : Nat) (b : Bytes) (r : Round) (c : Circuit), getRound s p = some r → r.circuit = some c →
     r.state = .finishing → r.lost = false → ownsRow r row = true → (rowOthers r row).contains m = true → b.length = 40 →
     Completes (.rowPartialMerge p row m b) s (fun u => (∃ x k, getRound u p = some x ∧ x.circuit = some k ∧
       Table.get? k.partials (row, m) = some (parseLong b) ∧
       (∀ e, e ≠ (row, m) → Table.get? k.partials e = Table.get? c.partials e) ∧ x.state = r.state ∧ x.tiles = r.tiles) ∧
       OnlyPart p s u ∧ Keeps [.parts] s u)) ∧
  ((∀ (s : State) (p cl n : Nat) (r : Round) (c : Circuit) (t : Taken) (f : Flight), getRound s p = some r → r.circuit = some c →
     c.self ≠ 0 → clientFlight s p cl = some (t, f) →
     Completes (.circuitVerdict p 0 cl (.number n)) s (fun u => (p, 0, CircuitMsg.report cl .committed) ∈ u.porush.messages ∧
       ∃ x, getRound u p = some x ∧ Table.get? x.index f.client = some n ∧ x.nextSeq = n + 1 ∧
         (∃ j, x.journal = r.journal ++ [j] ∧ j.seq = n ∧ j.client = f.client))) ∧
   (∀ (s : State) (p m cl k : Nat) (code : Byte) (r : Round) (c : Circuit), getRound s p = some r → r.circuit = some c → c.self = 0 →
     0 < m → m < c.members.length → k < c.members.length → k ≠ m → Table.has c.verdicts (cl, k) = false →
     Completes (.circuitVerdict p m cl (.verdict code)) s (fun u => (∃ x d, getRound u p = some x ∧ x.circuit = some d ∧
       Table.get? d.verdicts (cl, m) = some code.toNat ∧ d.assigned = c.assigned ∧ x.nextSeq = r.nextSeq ∧ x.index = r.index) ∧
       OnlyPart p s u ∧ Keeps [.parts] s u)) ∧
   (∀ (s : State) (p : Nat) (l : List Nat) (r : Round) (c : Circuit), getRound s p = some r → r.circuit = some c → c.self ≠ 0 →
     r.state = .opened →
     Completes (.circuitStateChange p (.close l)) s (fun u => (∃ x, getRound u p = some x ∧ x.state = .closing ∧
       x.survivors = sortNat l ∧ x.index = r.index) ∧ (∀ q, q ≠ p → getPart u q = getPart s q) ∧
       Keeps [.parts, .partCells] s u)) ∧
   ∀ (s : State) (p : Nat) (r : Round) (c : Circuit), getRound s p = some r → r.circuit = some c → c.self ≠ 0 → r.state = .closing →
     Completes (.circuitStateChange p .unmasking) s (fun u => (∃ x, getRound u p = some x ∧ x.state = .unmasking ∧ x.index = r.index) ∧
       (∀ q, q ≠ p → getPart u q = getPart s q) ∧ Keeps [.parts, .partCells] s u))

-- ------------------------------------------------------------------ Falnyx

/-- The scalar, descriptor, ledger-handle and predicate registers read as they were last written; Q0 always reads 1 and a write to it is
ignored. No write touches another register file. The Sequencer's register instructions: each issues whenever it can, takes the program
counter to the next instruction, or for a taken BR to its target, and changes its destination register alone. A word that does not stand
at the program counter does nothing. -/
def Obligations.RegisterInstructionsCompute : Prop :=
  ((∀ (g : SeqRegs) (i j : BitVec 4) (v : W64), getX (setX g i v) j = (if j = i then v else getX g j) ∧
     (setX g i v).s = g.s ∧ (setX g i v).l = g.l ∧ (setX g i v).q = g.q ∧ (setX g i v).pc = g.pc) ∧
   (∀ (g : SeqRegs) (i j : BitVec 4) (v : StreamDesc), getS (setS g i v) j = (if j = i then v else getS g j) ∧
     (setS g i v).x = g.x ∧ (setS g i v).l = g.l ∧ (setS g i v).q = g.q ∧ (setS g i v).pc = g.pc) ∧
   (∀ (g : SeqRegs) (i j : BitVec 4) (v : W64), getL (setL g i v) j = (if j.toNat % 4 = i.toNat % 4 then v else getL g j) ∧
     (setL g i v).x = g.x ∧ (setL g i v).s = g.s ∧ (setL g i v).q = g.q ∧ (setL g i v).pc = g.pc) ∧
   ∀ (g : SeqRegs) (i j : Nat) (v : Bool), i < 8 → j < 8 → getQ g 0 = true ∧ setQ g 0 v = g ∧
     getQ (setQ g i v) j = (if j = 0 then true else if j = i then v else getQ g j) ∧
     (setQ g i v).x = g.x ∧ (setQ g i v).s = g.s ∧ (setQ g i v).l = g.l ∧ (setQ g i v).pc = g.pc) ∧
  (let b := fun (f : FWord) (g : SeqRegs) => if f.modif.getLsbD 0 then f.imm.signExtend 64 else getX g f.srcB
   Computes 0x00 .nop (fun _ g => g) ∧
   Computes 0x01 .set (fun f g => setX g f.dst (if f.modif.getLsbD 0 then
     BitVec.ofNat 64 (f.imm.toNat * 2 ^ 32 + (getX g f.dst).toNat % 2 ^ 32) else f.imm.signExtend 64)) ∧
   Computes 0x02 .addx (fun f g => setX g f.dst (BitVec.ofNat 64 ((getX g f.srcA).toNat + (b f g).toNat))) ∧
   Computes 0x03 .subx (fun f g => setX g f.dst (BitVec.ofNat 64 ((getX g f.srcA).toNat + 2 ^ 64 - (b f g).toNat))) ∧
   Computes 0x04 .mulx (fun f g => setX g f.dst (BitVec.ofNat 64 ((getX g f.srcA).toNat * (b f g).toNat))) ∧
   Computes 0x05 .minx (fun f g => setX g f.dst (BitVec.ofNat 64 (min (getX g f.srcA).toNat (b f g).toNat))) ∧
   Computes 0x06 .shx (fun f g => setX g f.dst (BitVec.ofNat 64 (if f.modif.getLsbD 1 then
     (getX g f.srcA).toNat / 2 ^ ((b f g).toNat % 64) else (getX g f.srcA).toNat * 2 ^ ((b f g).toNat % 64)))) ∧
   Computes 0x07 .andx (fun f g => setX g f.dst (getX g f.srcA &&& b f g)) ∧
   Computes 0x08 .cmp (fun f g => setQ g f.dst.toNat (match f.modif.toNat / 2 with
     | 0 => decide (getX g f.srcA = b f g)
     | 1 => decide (getX g f.srcA ≠ b f g)
     | 2 => decide ((getX g f.srcA).toNat < (b f g).toNat)
     | 3 => decide ((b f g).toNat ≤ (getX g f.srcA).toNat)
     | 4 => decide ((getX g f.srcA).toInt < (b f g).toInt)
     | _ => decide ((b f g).toInt ≤ (getX g f.srcA).toInt))) ∧
   Computes 0x09 .br (fun f g => if getQ g (f.srcA.toNat % 8) ≠ f.srcA.getLsbD 3 then { g with pc := f.imm.setWidth 12 } else g) ∧
   Computes 0x0D .sset (fun f g => setS g f.dst (putDescBits (getS g f.dst) (ssetField f.modif.toNat).1 (ssetField f.modif.toNat).2
     (getX g f.srcA).toNat)) ∧
   Computes 0x0E .lset (fun f g => setL g f.dst (BitVec.ofNat 64 ((getX g f.srcA).toNat % 2 ^ 32 +
     (if (getX g f.srcB).getLsbD 0 then 2 ^ 32 else 0)))) ∧
   (∀ (s : State) (cv : Nat) (f : FWord) (w : Work) (r : Round), CanIssue s cv 0x0C f w r →
     Completes (.sdesc cv f) s (Issued s cv w { w with regs := setS (nextPc w.regs) f.dst (templateOf (getPart s w.part) w f.imm.toNat) })) ∧
   ∀ (s : State) (cv : Nat) (f : FWord) (w : Work), (getCv s cv).work = some w →
     (programOf (getPart s w.part) w)[w.regs.pc.toNat]? ≠ some (wordOf 0x02 f) → exec (.addx cv f) s = .next s)

/-- The markers: each arms its stage, with its word and the registers it reads, for the sweeps after it, and touches no other stage; BYP
bypasses the stage that its class names, and of the islands it can change the back chain's retention alone. A marker whose own condition
fails stops its work with its status: OPEN, FINISH and SEAL with AUTH_FAIL where the caravan's slot holds no key of the partition. Rests
on the model's choices of assumption 120. -/
def Obligations.MarkersArmTheirStages : Prop :=
  let always := fun (_ : FWord) (_ : Work) (_ : Round) => True
  Arms 0x13 .byp (fun f _ _ => f.cls = 1) (fun c _ => { c with openS := none }) ∧
  (∀ (s : State) (cv : Nat) (f : FWord) (w : Work) (r : Round), CanIssue s cv 0x13 f w r →
    Completes (.byp cv f) s (fun u => getCv u cv = issuedCv (getCv s cv) w { nextWork w with chain := bypass f.cls.toNat w.chain } ∧
      OnlyCv cv s u ∧ (f.cls.toNat < 6 → u.islands = s.islands) ∧ { u.islands with retention := s.islands.retention } = s.islands ∧
      (∀ n, n ≠ backIsland cv → u.islands.retention.getLsbD n = s.islands.retention.getLsbD n) ∧ Keeps [.caravans, .islands] s u)) ∧
  (∀ c : Chain, bypass 8 c = { c with rows := none, noise := none, scale := none, clip := none, apply := none } ∧
    bypass 9 c = { c with sealS := none, hash := none }) ∧
  (∀ (s : State) (cv : Nat) (f : FWord) (w : Work) (r : Round), CanIssue s cv 0x20 f w r →
    let key := slotKey s cv .opens w.part (if f.modif = 2 then 0 else f.imm.toNat)
    ((f.modif = 3 ∨ key.isSome = true) → Completes (.openAead cv f) s (Issued s cv w
      { nextWork w with chain := { w.chain with openS := some (armed 0x20 f w.regs) } })) ∧
    (f.modif ≠ 3 → key = none → Completes (.openAead cv f) s (Stops s cv w .authFail))) ∧
  Arms 0x28 .unpack always (fun c a => { c with unpack := some a }) ∧
  Arms 0x31 .ksFold (fun f w _ => 1 ≤ (getX w.regs f.srcB).toNat ∧ (getX w.regs f.srcB).toNat ≤ 4096) (fun c a => { c with ks := some a }) ∧
  StopsWhen 0x31 .ksFold (fun f w _ => getX w.regs f.srcB = 0 ∨ 4096 < (getX w.regs f.srcB).toNat) .malformed ∧
  Arms 0x50 .ledgAcc always (fun c a => { c with ledger := some a }) ∧
  Arms 0x60 .turn always (fun c a => { c with turn := some a }) ∧
  Arms 0x70 .nttF always (fun c a => { c with ntt := some a }) ∧
  Arms 0x71 .nttI always (fun c a => { c with ntt := some a }) ∧
  Arms 0x72 .auto (fun f _ r => f.imm.toNat % 2 = 1 ∧ f.imm.toNat < 2 ^ (r.desc.log2n + 1)) (fun c a => { c with ntt := some a }) ∧
  StopsWhen 0x72 .auto (fun f _ r => f.imm.toNat % 2 = 0 ∨ 2 ^ (r.desc.log2n + 1) ≤ f.imm.toNat) .malformed ∧
  Arms 0x80 .finRows always (fun c a => { c with rows := some a }) ∧
  (∀ (s : State) (cv : Nat) (f : FWord) (w : Work) (r : Round), CanIssue s cv 0x81 f w r →
    ((slotKey s cv .finish w.part f.imm.toNat).isSome = true → Completes (.finNoise cv f) s (Issued s cv w
      { nextWork w with chain := { w.chain with noise := some (armed 0x81 f w.regs) } })) ∧
    (slotKey s cv .finish w.part f.imm.toNat = none → Completes (.finNoise cv f) s (Stops s cv w .authFail))) ∧
  Arms 0x82 .finScale always (fun c a => { c with scale := some a }) ∧
  Arms 0x83 .finClip always (fun c a => { c with clip := some a }) ∧
  Arms 0x84 .finApply (fun _ w _ => w.role = 3) (fun c a => { c with apply := some a }) ∧
  StopsWhen 0x84 .finApply (fun _ w _ => w.role ≠ 3) .policyDenied ∧
  (∀ (s : State) (cv : Nat) (f : FWord) (w : Work) (r : Round), CanIssue s cv 0x90 f w r →
    ((slotKey s cv .seals w.part f.imm.toNat).isSome = true → Completes (.sealAead cv f) s (Issued s cv w
      { nextWork w with chain := { w.chain with sealS := some (armed 0x90 f w.regs) } })) ∧
    (slotKey s cv .seals w.part f.imm.toNat = none → Completes (.sealAead cv f) s (Stops s cv w .authFail))) ∧
  Arms 0x91 .hash always (fun c a => { c with hash := some a }) ∧
  (∀ (op : Nat) (mk : Nat → FWord → Instr), (op, mk) = (0x40, Instr.combAdd) ∨ (op, mk) = (0x41, Instr.combSub) ∨
    (op, mk) = (0x42, Instr.combMul) → ∀ (s : State) (cv : Nat) (f : FWord) (w : Work) (r : Round), CanIssue s cv op f w r →
    Completes (mk cv f) s (Issued s cv w { nextWork w with chain := { w.chain with comb := some { armed op f w.regs with
      xa := getX w.regs (f.srcA - 8), xb := getX w.regs (f.srcB - 8) } } }))

/-- The instructions that act on the work: END keeps the progress word and the work waits; STEP ends the step, in a chain only when its rings
are empty and no caravan before it in the chain runs its step, and the rest of the work waits for another; STEP.yield shows the Steward's
request in a predicate; LINK joins the chain before the first SWEEP, once the die's rings leave room for its ring; WAIT passes when what
it waits for has come, and until then nothing issues; KS.LOAD fills seed slots from the vault, or waits in the chain while a sweep or an
earlier load needs them. Rests on the model's choices of assumptions 40 and 90. -/
def Obligations.ControlInstructionsActOnTheWork : Prop :=
  (∀ (s : State) (cv : Nat) (f : FWord) (w : Work) (r : Round), CanIssue s cv 0x0A f w r →
    Completes (.endWork cv f) s (Issued s cv w { nextWork w with ending := some (getX w.regs f.srcA) })) ∧
  (∀ (s : State) (cv : Nat) (f : FWord) (w : Work) (r : Round), CanIssue s cv 0x0B f w r → f.modif = 0 →
    chainStill s cv w = true → r.state ≠ .aborted → r.state ≠ .retired → (getPart s w.part).phase = .live → NoneErasing s →
    Completes (.step cv f) s (fun u => (getCv u cv).stepping = false ∧ (getCv u cv).work = some (nextWork w) ∧
      (getCv u cv).mailbox = (getCv s cv).mailbox ++ [nextMail (getCv s cv) (getPart s w.part).steward .p2 w.part] ∧ OnlyCv cv s u ∧
      Keeps [.caravans, .fns, .taken, .cells, .partCells, .outputs, .parts] s u)) ∧
  (∀ (s : State) (cv : Nat) (f : FWord) (w : Work) (r : Round), CanIssue s cv 0x0B f w r → f.modif = 0 → chainStill s cv w = false →
    exec (.step cv f) s = .next s) ∧
  (∀ (s : State) (cv : Nat) (f : FWord) (w : Work) (r : Round), CanIssue s cv 0x0B f w r → f.modif = 1 →
    Completes (.stepYield cv f) s (Issued s cv w { w with regs := setQ (nextPc w.regs) f.dst.toNat w.yieldAsk })) ∧
  (∀ (s : State) (cv : Nat) (f : FWord) (w : Work) (r : Round), CanIssue s cv 0x10 f w r → w.chained.isSome = true →
    let units := if f.imm.toNat / 256 % 16 = 0 then 16 else f.imm.toNat / 256 % 16
    let fits := decide (ringUnitsOn (setWork s cv { w with chained := some (f.imm.toNat % 4), linked := true, ringUnits := units })
      (dieOf cv) ≤ 240)
    (fits = true → w.swept = false → Completes (.link cv f) s (Issued s cv w
      { nextWork w with chained := some (f.imm.toNat % 4), linked := true, ringUnits := units })) ∧
    (fits = true → w.swept = true → Completes (.link cv f) s (Stops s cv w .malformed)) ∧
    (fits = false → exec (.link cv f) s = .next s)) ∧
  StopsWhen 0x10 .link (fun _ w _ => w.chained = none) .malformed ∧
  (∀ (s : State) (cv : Nat) (f : FWord) (w : Work) (r : Round), CanIssue s cv 0x12 f w r → waitReady f.modif.toNat w = true →
    Completes (.wait cv f) s (Issued s cv w
      (if f.modif = 0 then { nextWork w with unordered := w.unordered.filter (fun u => u.1) }
       else if f.modif = 1 then settleLoad { nextWork w with unordered := w.unordered.filter (fun u => !u.1) } else nextWork w))) ∧
  (∀ (s : State) (cv : Nat) (f : FWord) (w : Work), (getCv s cv).work = some w → waitReady f.modif.toNat w = false →
    exec (.wait cv f) s = .next s) ∧
  (∀ (s : State) (cv : Nat) (f : FWord) (w : Work) (r : Round) (d : StreamDesc) (q : SeedLoad), CanIssue s cv 0x30 f w r →
    d = getS w.regs f.srcA → descOk d = true → descSpace d = 7 → descKind d = 0 → descBase d + descLength d ≤ r.unmask.vault.length →
    q = ⟨descBase d, (getX w.regs f.srcB).toNat, descLength d⟩ →
    (slotsBusy w q.slot q.count = true →
      Completes (.ksLoad cv f) s (Issued s cv w { nextWork w with flow := w.flow ++ [.load q] })) ∧
    (∀ seeds, slotsBusy w q.slot q.count = false → fillSeeds r w.seeds q = some seeds →
      Completes (.ksLoad cv f) s (Issued s cv w { nextWork w with seeds := seeds }))) ∧
  StopsWhen 0x30 .ksLoad (fun f w _ => descOk (getS w.regs f.srcA) = false ∨ descSpace (getS w.regs f.srcA) ≠ 7) .malformed

/-- A SWEEP that passes the checks of R241 joins the chain with the stages armed now: behind a swap it waits; with nothing ahead of it and a
budget that holds all its beats it takes them, and has its effect, in this step. One that fails the checks stops its work with the status
of the first that fails, and none issues while eight are outstanding. Rests on the model's choices of assumptions 78, 87, 88, 150 and 151.
-/
def Obligations.SweepsAreCheckedAndEnterTheChain : Prop :=
  (∀ (s : State) (cv : Nat) (f : FWord) (w : Work) (r : Round) (d : StreamDesc) (dst : Option StreamDesc) (n : Nat) (v : Work)
    (a u : State) (e : Env), CanIssue s cv 0x11 f w r → sweepsOut w < 8 → d = getS w.regs f.srcA →
    dst = (if f.modif.getLsbD 0 then some (getS w.regs f.dst) else none) → n = f.imm.toNat →
    a = setCv s cv (issuedCv (getCv s cv) w (nextWork w)) → e = envOf a cv (nextWork w) r → sweepFault e w.chain d dst n = none →
    v = { nextWork w with flow := w.flow ++ [.sweep w.chain d dst n 0 []], swept := true } →
    u = setCv s cv (issuedCv (getCv s cv) w v) →
    exec (.sweep cv f) s = .next (pumpFlow u cv) ∧
    (w.chained = none → ∀ b l, w.flow = .swap b :: l → exec (.sweep cv f) s = .next u) ∧
    (∀ t, w.chained = none → w.flow = [] → w.exitQ = [] → descSpace d ≠ 6 →
      entryBeats (envOf u cv v r) w.chain d n ≤ (getCv s cv).entryLeft →
      sweepEffect (setCv u cv { getCv u cv with
          entryLeft := (getCv s cv).entryLeft - entryBeats (envOf u cv v r) w.chain d n, work := some { v with flow := [] } })
        cv { v with flow := [] } r w.chain d dst n [] = .ok t → exec (.sweep cv f) s = .next t)) ∧
  (∀ (s : State) (cv : Nat) (f : FWord) (w : Work) (r : Round) (st : Status), CanIssue s cv 0x11 f w r →
    sweepsOut w < 8 →
    sweepFault (envOf (setCv s cv (issuedCv (getCv s cv) w (nextWork w))) cv (nextWork w) r) w.chain (getS w.regs f.srcA)
      (if f.modif.getLsbD 0 then some (getS w.regs f.dst) else none) f.imm.toNat = some st → Completes (.sweep cv f) s (Stops s cv w st)) ∧
  ∀ (s : State) (cv : Nat) (f : FWord) (w : Work) (r : Round), (getCv s cv).work = some w → getRound s w.part = some r →
    8 ≤ sweepsOut w → exec (.sweep cv f) s = .next s

/-- The ledger sets: a LEDG.LOAD of a tile of the caravan's die fills the shadow set from the bank that its handle names, with fresh check
words, or waits behind a swap; no operation of the shadow port issues while four are outstanding; a LEDG.SAVE drains a HELD shadow set
that agrees with its check words, a routed one through its stages; a LEDG.SWAP joins the chain, and needs a load before it unless it is
final; the swap exchanges the sets; the acknowledgement of a drain commits what the role commits, unless the round is lost, and leaves the
set EMPTY. Rests on the model's choices of assumptions 79, 89 and 119. -/
def Obligations.LedgerSetsLoadSwapAndDrain : Prop :=
  (∀ (s : State) (cv t : Nat) (f : FWord) (w : Work) (r : Round) (l : W64), CanIssue s cv 0x53 f w r → l = getL w.regs f.srcA →
    t = l.toNat % 2 ^ 32 → w.shadowQ = [] → w.draining = none → w.swapsIssued ≤ w.swapsDone → (shadowSet w).state ≠ .draining →
    heldElsewhere s w.part cv t = false → (ownTiles r).contains t = true → t % 2 = dieOf cv →
    ((activeSet w).state = .empty ∨ (activeSet w).tile ≠ t) →
    let data := bankFull r.desc t ((getTile r t).prim.bankOf ((getTile r t).prim.bank != l.getLsbD 32))
    Completes (.ledgLoad cv f) s (Issued s cv w { putShadow (nextWork w)
      { state := .loading, tile := t, data := data, check := setWords r.desc false data } with loadSince := true })) ∧
  (∀ (s : State) (cv : Nat) (f : FWord) (w : Work) (r : Round) (l : W64), CanIssue s cv 0x53 f w r → l = getL w.regs f.srcA →
    w.shadowQ = [] → w.draining = none → w.swapsDone < w.swapsIssued →
    Completes (.ledgLoad cv f) s (Issued s cv w { nextWork w with loadSince := true, shadowQ :=
      [⟨true, l.toNat % 2 ^ 32, l.getLsbD 32, false, w.swapsIssued, w.chain⟩] })) ∧
  (∀ (s : State) (cv : Nat) (f : FWord) (w : Work) (r : Round), CanIssue s cv 0x52 f w r → f.modif.getLsbD 0 = false →
    w.shadowQ = [] → w.draining = none → w.swapsIssued ≤ w.swapsDone → (shadowSet w).state = .held → setAgrees r.desc (shadowSet w) = true →
    Completes (.ledgSave cv f) s (Issued s cv w { putShadow (nextWork w) { shadowSet w with state := .draining } with
        draining := some ((getL w.regs f.srcA).toNat % 2 ^ 32, (shadowSet w).data) })) ∧
  (∀ (s : State) (cv : Nat) (f : FWord) (w : Work) (r : Round) (v : Work) (a b : State) (op : ShadowOp), CanIssue s cv 0x52 f w r →
    f.modif.getLsbD 0 = true → w.shadowQ = [] → w.draining = none → w.swapsIssued ≤ w.swapsDone → (shadowSet w).state = .held →
    setAgrees r.desc (shadowSet w) = true → backReady s cv w.chain = true → a = setCv s cv (issuedCv (getCv s cv) w (nextWork w)) →
    routedFault (envOf a cv (nextWork w) r) (routedChain w.chain) = none →
    op = ⟨false, (getL w.regs f.srcA).toNat % 2 ^ 32, (getL w.regs f.srcA).getLsbD 32, true, w.swapsIssued, w.chain⟩ →
    v = { nextWork w with shadowQ := [op] } → b = setCv s cv (issuedCv (getCv s cv) w v) →
    slotsEmpty (envOf b cv v r) (routedChain w.chain) = false →
    (routedData b cv (envOf b cv v r) op (shadowSet w).data).2.any (fun o => !o.2.good) = false →
    Completes (.ledgSave cv f) s (fun u => ∃ x, (getCv u cv).work = some x ∧ (shadowSet x).state = .draining ∧
      x.draining = some (op.tile, (routedData b cv (envOf b cv v r) op (shadowSet w).data).1) ∧ x.regs = nextPc w.regs)) ∧
  (∀ (s : State) (cv : Nat) (f : FWord) (w : Work) (r : Round), CanIssue s cv 0x51 f w r → (f.modif.getLsbD 0 = true ∨ w.loadSince = true) →
    Completes (.ledgSwap cv f) s (Issued s cv w
      { nextWork w with flow := w.flow ++ [.swap (f.modif.getLsbD 0)], swapsIssued := w.swapsIssued + 1, loadSince := false })) ∧
  (∀ (s : State) (cv : Nat) (f : FWord) (w : Work) (r : Round), (getCv s cv).work = some w → getRound s w.part = some r →
    4 ≤ w.shadowQ.length + (if w.draining.isSome then 1 else 0) + (if (shadowSet w).state = .loading then 1 else 0) →
    exec (.ledgLoad cv f) s = .next s ∧ exec (.ledgSave cv f) s = .next s) ∧
  StopsWhen 0x51 .ledgSwap (fun f w _ => f.modif.getLsbD 0 = false ∧ w.loadSince = false) .malformed ∧
  (∀ (s : State) (cv : Nat) (w : Work) (r : Round) (b : Bool), (getCv s cv).work = some w → getRound s w.part = some r →
    w.flow = [.swap b] → w.stopped = false → w.shadowQ = [] → w.draining = none → w.chained = none →
    (shadowSet (settleLoad w)).state = (if b then .empty else .held) →
    Completes (.swapAtLedger cv) s (fun u => (getCv u cv).work =
        some { settleLoad w with activeA := !w.activeA, swapsDone := w.swapsDone + 1, flow := [] } ∧
      OnlyCv cv s u ∧ Keeps [.caravans] s u)) ∧
  ∀ (s : State) (cv t : Nat) (w : Work) (r : Round) (data : List Nat), (getCv s cv).work = some w → getRound s w.part = some r →
    w.draining = some (t, data) → w.stopped = false → r.state ≠ .aborted → mirrorWaits w r t = false → w.shadowQ = [] →
    (w.role ≠ 0 ∨ r.desc.mode ≠ 1) →
    Completes (.ledgSaveAck cv) s (fun u => (getCv u cv).work = some { putShadow w {} with draining := none, savedTiles := w.savedTiles ++ [t] } ∧
      (∃ x, getRound u w.part = some x ∧ (∀ j, j ≠ t → getTile x j = getTile r j) ∧ x.index = r.index ∧ x.state = r.state ∧
        (w.role = 0 → r.lost = false → (getTile r t).prim.watermark < w.batchW → (runTiles w.args).contains t = true →
          (getTile x t).prim.committed = data ∧ (getTile x t).prim.watermark = w.batchW ∧
          (getTile x t).prim.batch = w.batchNo ∧ (getTile x t).prim.phase = .accumulating) ∧
        (w.role = 2 → r.lost = false → argNat w.args 0 = t → (getTile x t).prim.committed = data ∧ (getTile x t).prim.phase = .finished) ∧
        ((w.role = 0 → r.lost = true ∨ w.batchW ≤ (getTile r t).prim.watermark ∨ (runTiles w.args).contains t = false) →
          (w.role = 2 → r.lost = true ∨ argNat w.args 0 ≠ t) → (getTile x t).prim.committed = (getTile r t).prim.committed ∧
          (getTile x t).prim.watermark = (getTile r t).prim.watermark ∧ (getTile x t).prim.phase = (getTile r t).prim.phase)) ∧
      OnlyCv cv s u ∧ OnlyPart w.part s u ∧ Keeps [.caravans, .parts] s u)

/-- KSW on a ciphertext of the store, under an evaluation key that matches it, with no shortfall or after the REFRESH that one brought: a new
handle of channel 0 with the same level and the budget of R188 stands in Xd. On a shortfall a REFRESH with the identity table comes first,
in place on a ciphertext of channel 0 and on a private copy otherwise, and the instruction stands at the program counter again. REFRESH on
a ciphertext of channel 0 starts the routine with its table; on another channel's it stops the work with POLICY_DENIED, and without its
table with MALFORMED. Rests on the model's choices of assumptions 83 and 92. -/
def Obligations.LibraryRoutinesRun : Prop :=
  (∀ (s : State) (cv h kind g fp : Nat) (f : FWord) (w : Work) (r : Round) (k : KeySet) (x : Partition) (c : Cipher) (kb : List Nat),
    CanIssue s cv 0xA0 f w r → x = getPart s w.part → h = (getX w.regs f.srcA).toNat → r.desc.mode = 2 →
    roundKeySet x r.desc = some k → Table.get? x.store (workKey x cv h) = some c → c.refreshing = none →
    (shortfall k r.desc.refreshThreshold (CtOp.rot h 1) c = false ∨ w.inserted = true →
      k.evalKeys[f.imm.toNat]? = some (kind, g, fp, kb) → fp = c.fingerprint →
      Completes (.ksw cv f) s (fun u => (∃ n, Table.get? (getPart u w.part).store x.nextHandle = some n ∧ n.level = c.level ∧
          n.channel = 0 ∧ n.budget = cappedBudget k c.level c.budget 2 ∧ n.fingerprint = c.fingerprint ∧
          n.body = canonBody k c.level (Sys2Proof.Config.keySwitchBody (keyNumbers k) c.body (keyWords k c.level kb))) ∧
        (∀ j, j ≠ x.nextHandle → j ≠ workCopyKey cv h → Table.get? (getPart u w.part).store j = Table.get? x.store j) ∧
        (getPart u w.part).nextHandle = x.nextHandle + 1 ∧
        (getCv u cv).work = some { w with regs := setX (nextPc w.regs) f.dst (BitVec.ofNat 64 x.nextHandle), inserted := false } ∧
        OnlyCv cv s u ∧ OnlyPart w.part s u ∧ Keeps [.caravans, .parts] s u)) ∧
    (∀ at_, shortfall k r.desc.refreshThreshold (CtOp.rot h 1) c = true → w.inserted = false →
      at_ = (if c.channel = 0 then h else workCopyKey cv h) →
      Completes (.ksw cv f) s (fun u => Table.get? (getPart u w.part).store at_ = some { c with refreshing := some (startRefresh k 0 []) } ∧
        (∀ j, j ≠ at_ → Table.get? (getPart u w.part).store j = Table.get? x.store j) ∧
        (getCv u cv).work = some { w with library := some at_ } ∧ OnlyCv cv s u ∧ OnlyPart w.part s u ∧ Keeps [.caravans, .parts] s u))) ∧
  (∀ (s : State) (cv h : Nat) (f : FWord) (w : Work) (r : Round) (k : KeySet) (x : Partition) (c : Cipher) (l : List Nat),
    CanIssue s cv 0xA1 f w r → x = getPart s w.part → h = (getX w.regs f.srcA).toNat → r.desc.mode = 2 →
    roundKeySet x r.desc = some k → Table.has x.store (workCopyKey cv h) = false → Table.get? x.store h = some c → c.refreshing = none →
    lutEntries x r k f.imm.toNat = some l →
    (c.channel = 0 → Completes (.refresh cv f) s (fun u =>
      Table.get? (getPart u w.part).store h = some { c with refreshing := some (startRefresh k f.imm.toNat l) } ∧
      (∀ j, j ≠ h → Table.get? (getPart u w.part).store j = Table.get? x.store j) ∧
      (getCv u cv).work = some { nextWork w with library := some h } ∧ OnlyCv cv s u ∧ OnlyPart w.part s u ∧
      Keeps [.caravans, .parts] s u)) ∧
    (c.channel ≠ 0 → Completes (.refresh cv f) s (Stops s cv w .policyDenied))) ∧
  ∀ (s : State) (cv h : Nat) (f : FWord) (w : Work) (r : Round) (k : KeySet) (x : Partition),
    CanIssue s cv 0xA1 f w r → x = getPart s w.part → h = (getX w.regs f.srcA).toNat → r.desc.mode = 2 → roundKeySet x r.desc = some k →
    (Table.get? x.store (workKey x cv h)).any (fun c => c.refreshing.isSome) = false → lutEntries x r k f.imm.toNat = none →
    Completes (.refresh cv f) s (Stops s cv w .malformed)

/-- A Steward's message starts a work on a caravan: its arguments in X0 to X7, its program counter at the role's entry, every other register
0, the round's keys in the caravan's slots, and a message for its first step out; where another partition's work stands there, the new one
waits in the context area. An UNMASK whose tile another work holds asks that work to yield. A step of a waiting partition begins with its
budgets and what its chain holds goes on; the budget's end suspends the work with every register unchanged, in a chain once its rings are
empty; END of a work with empty sets and nothing outstanding leaves the caravan without a work and, in a round that is not lost, commits
what its role commits: the groups of an UNMASK, the record of an APPLY, the segments of an EXPORT, the share of a VERIFY, the ciphertexts
of a CT_FINISH; with a set that is not empty the work stops with MALFORMED. A context switch of a caravan without admission duty saves the
outgoing work without its seed store in its partition's context area and restores the incoming one, whose check words agree and whose
seeds load again; with admission duty it runs in four pieces, each moving half an image: OPEN holds nothing after the first, the caravan's
stores are zero after the second, and the incoming work stands there after the fourth. A switch waits until the chain has emptied, and
brings the back chain up for a work that needs it. Rests on the model's choices of assumptions 40, 90, 109, 115, 116, 124, 147 and 152. -/
def Obligations.WorksRunAndContextsSwitch : Prop :=
  ((∀ (s : State) (cv p role slot entry : Nat) (args : List W64) (chain : Option Nat) (r : Round) (code : List W64),
     getRound s p = some r → roleEntry (getPart s p) r role = some (slot, entry, code) → cvServes s cv = true → canStep s p = true →
     r.lost = false → roleDue r role = true → argsOk s p r cv role args = true → hasWork s cv p = false → (getCv s cv).switching = none →
     (∀ k, chain = some k → k ≤ 3 ∧ (getCv s cv).duty = false ∧ ∀ e, e ∈ chainWorks s p role (dieOf cv) → chainPos e.2 ≠ k) →
     reservedFree s (some p) ≠ 0 → (role = 1 → unmaskHolder s p (argNat args 0) = none) →
     Completes (.workStart cv p role args chain) s (fun u => ∃ w : Work, w.part = p ∧ w.role = role ∧
       w.setSlot = slot ∧ w.regs.pc = BitVec.ofNat 12 entry ∧ (∀ i : BitVec 4, getX w.regs i = (if i.toNat < 8 then args.getD i.toNat 0 else 0)) ∧
       (∀ i : BitVec 4, getS w.regs i = 0) ∧ (∀ i : BitVec 4, getL w.regs i = 0) ∧ w.regs.q = 0 ∧ w.chain = {} ∧ w.setA = {} ∧
       w.setB = {} ∧ w.chained = chain ∧ w.batchW = r.batchW ∧ w.ending = none ∧
       ((getCv s cv).work = none → ((getCv s cv).owner = none ∨ (getCv s cv).owner = some p) →
         (getCv u cv).work = some w ∧ (getCv u cv).owner = some p) ∧
       (∀ o, (getCv s cv).work = some o → (getCv u cv).work = some o ∧ Table.get? (getPart u p).saved cv = some w) ∧
       (∀ k, r.engineKeys = some k → slotKey u cv .opens p 0 = some k.2.1) ∧
       (∀ k, r.finish.kNoise = some k → slotKey u cv .finish p 0 = some k) ∧
       (role ≠ 1 → getRound u p = some r) ∧
       nextMail (getCv s cv) (getPart s p).steward .p2 p ∈ (getCv u cv).mailbox ∧ OnlyCv cv s u ∧ OnlyPart p s u ∧ Keeps [.caravans, .parts] s u)) ∧
   ∀ (s : State) (cv p k slot entry : Nat) (args : List W64) (r : Round) (code : List W64) (w : Work),
     getRound s p = some r → roleEntry (getPart s p) r 1 = some (slot, entry, code) → cvServes s cv = true → canStep s p = true →
     r.lost = false → roleDue r 1 = true → hasWork s cv p = false → (getCv s cv).switching = none → reservedFree s (some p) ≠ 0 →
     unmaskHolder s p (argNat args 0) = some k → argNat args 0 % 2 = dieOf cv → (getCv s k).work = some w → w.part = p →
     w.ending = none →
     Completes (.workStart cv p 1 args none) s (fun u => (getCv u k).work = some { w with yieldAsk := true } ∧ OnlyCv k s u ∧
       Keeps [.caravans] s u)) ∧
  ((∀ (s : State) (cv p st n : Nat) (k : Cls) (c : Caravan) (w : Work), c = getCv s cv → c.work = some w → w.part = p → wantsStep w = true →
     w.chained = none → k ≠ .p0 → c.mailbox = [⟨st, k, p, n⟩] → cvServes s cv = true → canStep s p = true → c.stepping = false →
     c.switching = none → c.staged = [] →
     ∃ b, exec (.stepDispatch cv) s = .next (pumpShadow (pumpFlow b cv) cv) ∧
       getCv b cv = { c with stepping := true, entryLeft := (if c.duty then 3200 else 15000), issued := 0, mailbox := [],
                             mailTook := Table.put c.mailTook st n, lastServed := Table.put c.lastServed k.prio st, sinceP3 := 0 } ∧
       OnlyCv cv s b ∧ Keeps [.caravans] s b ∧ (w.flow = [] → w.shadowQ = [] → pumpShadow (pumpFlow b cv) cv = b)) ∧
   (∀ (s : State) (cv : Nat) (w : Work) (r : Round), (getCv s cv).work = some w → (getCv s cv).stepping = true →
     getRound s w.part = some r → r.state ≠ .aborted → r.state ≠ .retired → (getPart s w.part).phase = .live → NoneErasing s →
     w.ending = none → w.stopped = false → w.library = none → ((getCv s cv).entryLeft = 0 ∨ 15000 ≤ (getCv s cv).issued) →
     chainStill s cv w = true →
     Completes (.stepBudgetEnd cv) s (fun u => (getCv u cv).stepping = false ∧ (getCv u cv).work = some w ∧
       (getCv u cv).mailbox = (getCv s cv).mailbox ++ [nextMail (getCv s cv) (getPart s w.part).steward .p2 w.part] ∧ OnlyCv cv s u ∧
       Keeps [.caravans, .fns, .taken, .cells, .partCells, .outputs, .parts] s u)) ∧
   (∀ (s : State) (cv : Nat) (w : Work) (r : Round) (word : W64), (getCv s cv).work = some w → getRound s w.part = some r →
     w.ending = some word → w.flow = [] → w.shadowQ = [] → w.draining = none → w.loadQ = [] → w.stopped = false → w.ring = [] →
     w.exitQ = [] → chainStill s cv w = true →
     (w.setA.state = .empty → w.setB.state = .empty → NoneErasing s →
       Completes (.workEndComplete cv) s (fun u => (getCv u cv).work = none ∧ (getCv u cv).stepping = false ∧
         (∀ m, m ∈ (getCv u cv).mailbox → m.part ≠ w.part) ∧
         (w.role = 1 → r.state = .unmasking → r.lost = false → ∃ x, getRound u w.part = some x ∧ (getTile x (argNat w.args 0)).groups =
           (getTile r (argNat w.args 0)).groups + min word.toNat (argNat w.args 2)) ∧
         (w.role = 3 → r.state = .finishing → r.lost = false → ∃ x, getRound u w.part = some x ∧
           (getTile x (argNat w.args 0)).staging = some (stagedRecord (getPart s w.part) r cv (argNat w.args 0))) ∧
         (w.role = 4 → r.state = .finishing → r.lost = false → nextImage r = some (argNat w.args 0) → ∃ x, getRound u w.part = some x ∧
           ∀ i, x.finish.sealed.contains i = (r.finish.sealed.contains i ||
             decide (argNat w.args 1 ≤ i ∧ i < argNat w.args 1 + argNat w.args 2))) ∧
         (w.role = 5 → r.lost = false → ∃ x, getRound u w.part = some x ∧ x.share.verified.contains (argNat w.args 1) = true) ∧
         (w.role = 6 → r.state = .finishing → r.lost = false → ∃ x, getRound u w.part = some x ∧
           ∀ i, x.finish.ctDone.contains i = (r.finish.ctDone.contains i ||
             decide (argNat w.args 0 ≤ i ∧ i < argNat w.args 0 + argNat w.args 1))) ∧
         (w.role = 0 ∨ w.role = 2 ∨ r.lost = true → getRound u w.part = some r) ∧ OnlyCv cv s u ∧
         Keeps [.caravans, .fns, .taken, .cells, .partCells, .outputs, .parts] s u)) ∧
     ((w.setA.state ≠ .empty ∨ w.setB.state ≠ .empty) → r.state ≠ .aborted → Completes (.workEndComplete cv) s (fun u =>
       (∃ v, (getCv u cv).work = some v ∧ v.stopped = true ∧ v.setA = {} ∧ v.setB = {} ∧ v.regs = w.regs) ∧
       getRound u w.part = some { r with lost := true } ∧
       (∃ e, e ∈ (getPart u w.part).events ∧ e.kind = .roundStatus ∧ e.status = .malformed) ∧ OnlyCv cv s u ∧ OnlyPart w.part s u ∧
       Keeps [.caravans, .parts, .partCells] s u)))) ∧
  ((∀ (s : State) (cv p : Nat) (c : Caravan) (k v : Work) (r : Round), c = getCv s cv → cvServes s cv = true → c.stepping = false →
     c.staged = [] → c.switching = none → c.duty = false → switchingOn s (dieOf cv) < 3 → nextIs s cv p = true →
     chainEmptied s cv = true → (∀ w, c.work = some w → w.part ≠ p ∧ w.chained = none) → Table.get? (getPart s p).saved cv = some k → k.part = p →
     k.chained = none → getRound s p = some r → imageAgrees r.desc k = true → loadSeeds r k = some v →
     Completes (.contextSwitch cv p) s (fun u =>
       (∀ w, c.work = some w → ∃ o, Table.get? (getPart u w.part).saved cv = some o ∧ o.regs = w.regs ∧ o.chain = w.chain ∧
         o.setA = w.setA ∧ o.setB = w.setB ∧ o.flow = w.flow ∧ o.seeds = []) ∧
       (getCv u cv).work = some v ∧ v.regs = k.regs ∧ v.chain = k.chain ∧ v.setA = k.setA ∧ v.setB = k.setB ∧ v.flow = k.flow ∧
       v.loadQ = [] ∧ (getCv u cv).owner = some p ∧ (getCv u cv).pages = 0 ∧ (getCv u cv).switching = none ∧
       (getCv u cv).openBuf = [] ∧ (getCv u cv).sealBuf = [] ∧
       { u.islands with retention := s.islands.retention } = s.islands ∧
       (∀ n, n ≠ backIsland cv → u.islands.retention.getLsbD n = s.islands.retention.getLsbD n) ∧
       (backArmed k.chain = true → islandUp u (backIsland cv) = true) ∧ OnlyCv cv s u ∧
       (∀ j, j ≠ p → (∀ w, c.work = some w → j ≠ w.part) → getPart u j = getPart s j) ∧ Keeps [.caravans, .parts, .islands] s u)) ∧
   ∀ (s : State) (cv p : Nat) (c : Caravan), c = getCv s cv → cvServes s cv = true → c.stepping = false → c.staged = [] →
     (c.switching = none → c.duty = true → switchingOn s (dieOf cv) < 3 → nextIs s cv p = true →
       (∀ w, c.work = some w → w.part ≠ p) →
       (chainEmptied s cv = false → exec (.contextSwitch cv p) s = .next s) ∧
       (chainEmptied s cv = true → Completes (.contextSwitch cv p) s (fun u =>
         getCv u cv = { c with switching := some (p, 1), half := c.work.map firstSaved, openBuf := [] } ∧ OnlyCv cv s u ∧
         Keeps [.caravans] s u))) ∧
     (c.switching = some (p, 1) → Completes (.contextSwitch cv p) s (fun u => (getCv u cv).work = none ∧ (getCv u cv).owner = none ∧
       (getCv u cv).switching = some (p, 2) ∧ (getCv u cv).twiddle = none ∧ (getCv u cv).half = none ∧
       (getCv u cv).openBuf = [] ∧ (getCv u cv).sealBuf = [] ∧ OnlyCv cv s u ∧ Keeps [.caravans, .parts] s u)) ∧
     (c.switching = some (p, 2) → Completes (.contextSwitch cv p) s (fun u =>
       getCv u cv = { c with switching := some (p, 3), half := (workOn s cv p).map firstRestored } ∧ OnlyCv cv s u ∧
       Keeps [.caravans] s u)) ∧
     (c.switching = some (p, 3) → (∀ k r, Table.get? (getPart s p).saved cv = some k → getRound s p = some r →
         imageAgrees r.desc k = true ∧ (loadSeeds r k).isSome = true) →
       Completes (.contextSwitch cv p) s (fun u => (getCv u cv).owner = some p ∧ (getCv u cv).switching = none ∧
         (∀ k r, Table.get? (getPart s p).saved cv = some k → getRound s p = some r → ∃ v, loadSeeds r k = some v ∧
           (getCv u cv).work = some v) ∧ OnlyCv cv s u ∧ OnlyPart p s u ∧ Keeps [.caravans, .parts, .islands] s u)))

-- ------------------------------------------------------------------ Porush

/-- A written retrain and a link failure leave the link down, in training and without its key, and an open one reports an event; the retry
timer trains a link again that is down for cause 2, 5 or 7 and no other. A failed lane of a link that is down is noted; an open link with
a good half goes on at half width, resends its replay buffer and counts what it resent; one without a good half goes down with cause 7 and
trains. Rests on the model's choices of assumption 100. -/
def Obligations.LinksGoDownAndTrainAgain : Prop :=
  ((∀ (i : Instr) (s : State) (l : Nat) (k : Link), (i = .linkRetrain l ∨ i = .porushLinkFail l) → l < 4 → k = getLink s l →
     Completes i s (fun u => (getLink u l).up = false ∧ (getLink u l).training = true ∧ (getLink u l).key = [] ∧ (getLink u l).replay = [] ∧
       (getLink u l).cause = 0 ∧ (getLink u l).failed = k.failed ∧ (getLink u l).replays = k.replays ∧ (k.up = true → (getLink u l).event = true) ∧
       (∀ cv, (getCv u cv).work = (getCv s cv).work) ∧
       Keeps [.porush, .fns, .outputs, .taken, .cells, .partCells, .parts, .caravans] s u)) ∧
   (∀ (s : State) (l : Nat), l < 4 → (getLink s l).up = false → (getLink s l).training = false →
     ((getLink s l).cause = 2 ∨ (getLink s l).cause = 5 ∨ (getLink s l).cause = 7) →
     Completes (.porushRetryTimer l) s (fun u => getLink u l = { getLink s l with training := true } ∧
       (∀ j, j ≠ l → getLink u j = getLink s j) ∧ Keeps [.porush] s u)) ∧
   ∀ (s : State) (l : Nat), ((getLink s l).up = true ∨ ((getLink s l).cause ≠ 2 ∧ (getLink s l).cause ≠ 5 ∧ (getLink s l).cause ≠ 7)) →
     exec (.porushRetryTimer l) s = .next s) ∧
  ((∀ (s : State) (l lane : Nat), l < 4 → lane < 8 → (getLink s l).up = false →
     Completes (.porushLaneFail l lane) s (fun u => getLink u l = { getLink s l with failed := (getLink s l).failed ||| (1 <<< lane) } ∧
       (∀ j, j ≠ l → getLink u j = getLink s j) ∧ Keeps [.porush] s u)) ∧
   ∀ (s : State) (l lane : Nat) (k : Link) (b : BitVec 8), l < 4 → lane < 8 → k = getLink s l → k.up = true → b = k.failed ||| (1 <<< lane) →
     ((b.toNat % 16 = 0 ∨ b.toNat / 16 = 0) → Completes (.porushLaneFail l lane) s (fun u => (getLink u l).up = true ∧
       (getLink u l).narrow = true ∧ (getLink u l).failed = b ∧ (getLink u l).key = k.key ∧ (getLink u l).txCtr = k.txCtr ∧
       (getLink u l).rxCtr = k.rxCtr ∧ (getLink u l).replay = k.replay ∧
       (getLink u l).replays = BitVec.ofNat 32 (min (2 ^ 32 - 1) (k.replays.toNat + k.replay.length)) ∧
       (∀ e, e ∈ k.replay → Output.flit l e.2 ∈ u.outputs) ∧ (∀ j, j ≠ l → getLink u j = getLink s j) ∧ Keeps [.porush, .fns, .outputs] s u)) ∧
     ((b.toNat % 16 ≠ 0 ∧ b.toNat / 16 ≠ 0) → Completes (.porushLaneFail l lane) s (fun u => (getLink u l).up = false ∧
       (getLink u l).training = true ∧ (getLink u l).cause = 7 ∧ (getLink u l).failed = b ∧ (getLink u l).key = [])))

/-- Training of a link ends: a failing check leaves it down with its cause and derives no key; otherwise the epoch goes to flash, a wrong
confirmation is cause 5, and the right one opens the link with its counters at 0 and its first flit sent. The training block goes out once
the link can send, and the device's own confirmation before the partner's is verified (their form is log entry 139). Rests on the model's
choices of assumptions 2, 13, 99, 100, 105 and 139. -/
def Obligations.LinksOpen : Prop :=
  ∀ (s : State) (l : Nat) (t : TrainingInputs), l < 4 → (getLink s l).training = true → (getLink s l).up = false → s.keeper.locked = false →
    s.hub.bootState = 3 → s.power.state ≠ .sleep → s.pins.thermtrip = false →
    (∀ c, trainingCause s t = some c → Completes (.porushLinkOpen l t) s (fun u =>
      getLink u l = { getLink s l with training := false, cause := c } ∧ (∀ j, j ≠ l → getLink u j = getLink s j) ∧
      (u.outputs = if trained t then s.outputs ++ [.flit l (trainingFlit (trainingBlock s l))] else s.outputs) ∧ Keeps [.porush, .outputs] s u)) ∧
    (trainingCause s t = none → ∀ (serial epoch : Nat) (own : Bytes) (lower : Bool) (key want : Bytes), serial = field t.partnerBlock 16 8 →
      own = trainingBlock s l → lower = decide (Sys2Proof.Config.deviceSerial.toNat < serial) →
      epoch = max (storedCounter s l + 1) (field t.partnerBlock 24 8) →
      key = (if lower then linkKey s (linkIdentity Sys2Proof.Config.deviceSerial.toNat l) (linkIdentity serial (field t.partnerBlock 9 1)) epoch
        else linkKey s (linkIdentity serial (field t.partnerBlock 9 1)) (linkIdentity Sys2Proof.Config.deviceSerial.toNat l) epoch) →
      want = (if lower then confirmation key 1 own t.partnerBlock else confirmation key 0 t.partnerBlock own) →
      (t.confirmation ≠ want → Completes (.porushLinkOpen l t) s (fun u =>
        getLink u l = { getLink s l with training := false, cause := 5 } ∧
        Table.get? u.flash.linkCtr l = some (areaSeal s (toLe 8 epoch)) ∧
        Output.flit l (trainingFlit (if lower then confirmation key 0 own t.partnerBlock else confirmation key 1 t.partnerBlock own)) ∈
          u.outputs ∧ Keeps [.porush, .flash, .outputs, .free] s u)) ∧
      (t.confirmation = want → Completes (.porushLinkOpen l t) s (fun u => (getLink u l).up = true ∧ (getLink u l).key = key ∧
        (getLink u l).epoch = epoch ∧ (getLink u l).partner = BitVec.ofNat 64 serial ∧ (getLink u l).cause = 0 ∧
        (getLink u l).narrow = !t.full ∧ (getLink u l).lower = lower ∧ (getLink u l).txCtr = 1 ∧ (getLink u l).rxCtr = 0 ∧
        (getLink u l).event = true ∧ (∃ f, Output.flit l f ∈ u.outputs ∧ field f 0 1 ≤ 1) ∧
        Table.get? u.flash.linkCtr l = some (areaSeal s (toLe 8 epoch)) ∧
        Output.flit l (trainingFlit (if lower then confirmation key 0 own t.partnerBlock else confirmation key 1 t.partnerBlock own)) ∈
          u.outputs ∧ Keeps [.porush, .flash, .fns, .outputs, .free] s u)))

/-- A flit with a bad CRC is counted as corrected and discarded, and the next flit out asks for it again; one whose tag verifies and whose
counter is the next expected is taken; a tag failure is a detected fault and the link trains. A flit goes out in the same flit time. A
whole message for this package that is next in its order is delivered once. Rests on the model's choices of assumptions 2, 48, 99 and 103.
-/
def Obligations.FlitsAndMessagesArrive : Prop :=
  (∀ (s : State) (l : Nat) (b : Bytes), l < 4 → (getLink s l).up = true → (getLink s l).replay.length < 512 → (b.length ≠ 256 ∨ field b 0xF8 8 ≠ (crc64 (b.take 0xF8)).toNat) →
    Completes (.porushFlitReceive l b) s (fun u => (getLink u l).rxCtr = (getLink s l).rxCtr ∧
      (getLink u l).partials = (getLink s l).partials ∧ (getLink u l).txCtr = (getLink s l).txCtr + 1 ∧
      u.rel.corrected = satInc s.rel.corrected ∧ (∃ f, Output.flit l f ∈ u.outputs ∧ bitAt (field f 1 1) 2 = true) ∧
      (∀ j, j ≠ l → getLink u j = getLink s j) ∧ Keeps [.porush, .rel, .free, .fns, .outputs] s u)) ∧
  (∀ (s : State) (l : Nat) (b payload : Bytes) (k : Link), l < 4 → k = getLink s l → k.up = true → k.replay.length < 512 → b.length = 256 →
    field b 0xF8 8 = (crc64 (b.take 0xF8)).toNat → flitCounter k.rxCtr (field b 8 4) = k.rxCtr →
    Sys2Proof.Config.aeadOpen 0 k.key (flitNonce k.rxCtr (!k.lower)) (b.take 16) (slice b 0x10 232) = some payload →
    field b 0 1 = 1 → field b 1 1 < 3 →
    Completes (.porushFlitReceive l b) s (fun u => (getLink u l).rxCtr = k.rxCtr + 1 ∧
      Table.getD (getLink u l).partials (field b 1 1) [] = Table.getD k.partials (field b 1 1) [] ++ payload.take (min 216 (field b 2 1)) ∧
      (getLink u l).txCtr = k.txCtr + 1 ∧ (∀ j, j ≠ l → getLink u j = getLink s j) ∧ Keeps [.porush, .outputs] s u)) ∧
  (∀ (s : State) (l : Nat) (b : Bytes) (k : Link), l < 4 → k = getLink s l → k.up = true → b.length = 256 →
    field b 0xF8 8 = (crc64 (b.take 0xF8)).toNat →
    Sys2Proof.Config.aeadOpen 0 k.key (flitNonce (flitCounter k.rxCtr (field b 8 4)) (!k.lower)) (b.take 16) (slice b 0x10 232) = none →
    Completes (.porushFlitReceive l b) s (fun u => (getLink u l).up = false ∧ (getLink u l).training = true ∧ (getLink u l).key = [] ∧
      u.rel.detected = satInc s.rel.detected)) ∧
  ∀ (s : State) (l p : Nat) (c : Circuit) (msg rest : Bytes) (key : Nat × Nat × Nat), l < 4 → 16 ≤ msg.length → field msg 8 4 = msg.length →
    Table.getD (getLink s l).partials (field msg 2 1) [] = msg ++ rest → circuitOwner s (field msg 0 1) (field msg 1 1) = some (p, c) →
    field msg 1 1 = c.self → s.porush.unacked = [] → key = (field msg 0 1, field msg 1 1, field msg 2 1) →
    field msg 4 4 = Table.getD s.porush.delivered key 0 →
    Completes (.porushMessage l msg) s (fun u => u.porush.inbox = s.porush.inbox ++ [msg] ∧
      Table.getD u.porush.delivered key 0 = (field msg 4 4 + 1) % 2 ^ 32 ∧
      Table.getD (getLink u l).partials (field msg 2 1) [] = rest ∧ Keeps [.porush] s u)

-- ------------------------------------------------------------------ power, boot, reset

/-- Doze: a write of PWR.CTRL.doze and the last PF's D3hot begin the entry in D0; once no step runs the contexts are saved, the state is Doze
and the parked islands are parked; each of the three causes brings D0 back. PWR.CTRL.sleep: with a partition it only sets sleep_refused;
with none the device sleeps, keeping identity, configuration, images' digests, flash, the fault registers and the tamper count, and
nothing in flight. A wake whose images agree returns to D0 with the images in place and the device-level counter at its ceiling (the
return of the counter is assumption 56), and outside Sleep a wake does nothing. Rests on the model's choices of assumptions 50, 53 and
104. -/
def Obligations.DozeAndSleepAreEnteredAndLeft : Prop :=
  ((∀ s : State, Completes .pwrDoze s (fun u => u.power.doze = true ∧
     u.power.entering = (s.power.entering || decide (s.power.state = .d0)) ∧ u.power.state = s.power.state ∧ Keeps [.power] s u)) ∧
   (∀ (s : State) (port : Port), (getPort s port).linkUp = true → s.power.state = .d0 →
     Completes (.d3hotEntry port) s (fun u => getPort u port = { getPort s port with d3hot := true } ∧
       getPort u (otherPort port) = getPort s (otherPort port) ∧
       u.power.entering = (s.power.entering || !(getPort s (otherPort port)).linkUp || (getPort s (otherPort port)).d3hot) ∧
       Keeps [.ports, .power] s u)) ∧
   (∀ s : State, s.power.entering = true → (∀ e, e ∈ s.caravans → e.2.stepping = false) →
     Completes .dozeEntry s (fun u => u.power.state = .doze ∧ u.power.entering = false ∧
       (∀ cv, cv < 48 → (getCv u cv).work = none ∧ ∀ w, (getCv s cv).work = some w →
         ∃ v, Table.get? (getPart u w.part).saved cv = some v ∧ v.regs = w.regs ∧ v.setA = w.setA ∧ v.setB = w.setB ∧ v.flow = w.flow) ∧
       (∀ cv, (getCv u cv).switching = none ∧ (getCv u cv).half = none ∧ (getCv u cv).mailbox = (getCv s cv).mailbox) ∧
       u.islands.parked = s.islands.parked ||| dozeParked ∧ u.islands.retention = s.islands.retention ||| dozeRetention ∧
       (∀ p, getRound u p = getRound s p) ∧ Keeps [.power, .islands, .caravans, .parts] s u)) ∧
   ∀ (s : State) (c : DozeExitCause), s.pins.thermtrip = false → s.power.state = .doze → (c = .command → s.cmd.taken ≠ []) →
     Completes (.dozeExit c) s (fun u => u.power.state = .d0 ∧ u.power.entering = false ∧
       u.power.doze = (if c = .ctrlWrite then false else s.power.doze) ∧ u.islands.parked = s.islands.parked &&& ~~~dozeParked ∧
       u.islands.retention = s.islands.retention &&& ~~~dozeRetention ∧
       (∀ port, c = .d0Return port → (getPort u port).d3hot = false) ∧
       (∀ cv m, m ∈ (getCv s cv).mailbox → m ∈ (getCv u cv).mailbox) ∧
       (∀ cv, { getCv u cv with mailbox := (getCv s cv).mailbox, mailSent := (getCv s cv).mailSent } = getCv s cv) ∧
       Keeps [.power, .islands, .ports, .caravans] s u)) ∧
  ((∀ (s : State) (p : Nat), s.pins.thermtrip = false → s.power.state ≠ .sleep → s.hub.bootState = 3 → (getPart s p).phase ≠ .absent →
     Completes .pwrSleep s (fun u => u.power.error = s.power.error ||| 8 ∧ u.power.state = s.power.state ∧
       Keeps [.power, .pins, .fns, .outputs] s u)) ∧
   (∀ s : State, s.pins.thermtrip = false → s.power.state ≠ .sleep → s.hub.bootState = 3 → (∀ e, e ∈ s.parts → e.2.phase = .absent) →
     Completes .pwrSleep s (fun u => u.power.state = .sleep ∧ u.cmd.taken = [] ∧ u.keeper.identity = s.keeper.identity ∧
       u.keeper.tamperCount = s.keeper.tamperCount ∧ u.keeper.locked = s.keeper.locked ∧ u.hub.fw = s.hub.fw ∧ u.hub.config = s.hub.config ∧
       u.hub.configDigest = s.hub.configDigest ∧ u.flash = s.flash ∧ u.islands.volts = s.islands.volts ∧ u.rel.log = s.rel.log ∧
       (∀ b, (getBank u b).failures = (getBank s b).failures) ∧ (∀ n, (getInst u n).live = false) ∧
       (∀ f n, (getSq u f n).enable = false ∧ (getCq u f n).enable = false) ∧ u.outputs = s.outputs ∧ u.pending = s.pending)) ∧
   (∀ (i : Instr) (b : BootInputs) (s : State), (i = .sleepWake b ∨ i = .i3cWake b) → s.power.state = .sleep → s.keeper.retentionLost = false →
     (∀ g, g < 6 → sameImage s g = true) →
     Completes i s (fun u => u.power.state = .d0 ∧ u.islands.parked = 0 ∧ u.islands.retention = 0 ∧
       u.keeper.counter = u.keeper.ceiling ∧
       (∀ c, flashCeiling s = some c → u.keeper.ceiling = BitVec.ofNat 64 c ∧ u.flash = s.flash) ∧
       (flashCeiling s = none → u.keeper.ceiling = 0x8000000000000000) ∧
       (∀ g, g < 5 → Table.get? u.hbm.images g = some (flashSlot s g (getFw s g).slot)) ∧
       u.keeper.identity = s.keeper.identity ∧ u.hub.fw = s.hub.fw ∧ u.hub.bootState = s.hub.bootState)) ∧
   ∀ (i : Instr) (b : BootInputs) (s : State), (i = .sleepWake b ∨ i = .i3cWake b) → s.power.state ≠ .sleep → exec i s = .next s)

/-- Each duty evaluation lowers a die's duty by one sixteenth for power or for 100 C, to at most four from 105 C, never below one; the
hundredth calm evaluation in a row raises it by one, never above sixteen. The thermal trip asserts THERMTRIP# and holds every voltage
island at retention. Rests on the model's choices of assumption 54. -/
def Obligations.DutyFollowsPowerAndHeat : Prop :=
  (∀ (s : State) (r : DutyReadings) (t : Int) (hot : Bool), s.pins.pwrgood = true → s.power.state ≠ .sleep → clockStopped s 37 = false →
    1 ≤ s.power.duty0 → s.power.duty0 ≤ 16 → t = r.temps.getD 0 0 → hot = (overPower s r 0 || decide (100 ≤ t)) →
    Completes (.dutyEvaluation r) s (fun u => 1 ≤ u.power.duty0 ∧ u.power.duty0 ≤ 16 ∧
      (hot = true → t < 105 → calmDie s r 0 = false → u.power.duty0 = max 1 (s.power.duty0 - 1) ∧ u.power.calm0 = 0) ∧
      (105 ≤ t → calmDie s r 0 = false → u.power.duty0 = min 4 (max 1 (s.power.duty0 - 1)) ∧ u.power.error.getLsbD 2 = true) ∧
      (hot = false → calmDie s r 0 = true → s.power.calm0 = 99 → u.power.duty0 = min 16 (s.power.duty0 + 1) ∧ u.power.calm0 = 0) ∧
      (hot = false → calmDie s r 0 = true → s.power.calm0 < 99 → u.power.duty0 = s.power.duty0 ∧ u.power.calm0 = s.power.calm0 + 1) ∧
      (hot = false → calmDie s r 0 = false → u.power.duty0 = s.power.duty0 ∧ u.power.calm0 = 0) ∧
      u.power.temp0 = BitVec.ofInt 8 t ∧ u.power.power = min 1023 r.package ∧ u.power.limit = s.power.limit ∧
      Keeps [.power, .pins, .fns, .outputs] s u)) ∧
  ∀ s : State, s.pins.pwrgood = true → Completes .thermalTrip s (fun u => u.pins.thermtrip = true ∧ u.islands.retention = BitVec.allOnes 120 ∧
    u.pins.alert = decide (s.power.state ≠ .sleep) ∧ u.islands.volts = s.islands.volts ∧ Keeps [.pins, .islands] s u)

/-- A cold boot with no alarm and images that can be taken: booting, the tamper monitor armed, the device-level counter at its ceiling, no
partition, and a port trains where PERST# is deasserted. An asserted tamper source ends in tamper hold, and counts as an alarm where it
had raised none since it was asserted; a Keeper fault ends in boot hold, no Keeper image in recovery. A power loss ends every partition
and command; flash, the tamper count and the PERST# pins stay. A deasserted PERST# starts training on its port where the boot got that
far; the data link that comes up shows flit mode with a negotiated rate and width of those that exist, and makes a device ready that was
booting. Rests on the model's choices of assumptions 4, 55, 97, 105 and 137. -/
def Obligations.DeviceBootsAndPortsComeUp : Prop :=
  ((∀ (s a s1 s2 s3 : State) (b : BootInputs), s.pins.pwrgood = false → b.tamper = [] → b.keeperFault = false → s.rel.keeperDown = false →
     a = { poweredUp s with keeper := { (poweredUp s).keeper with asserted := [] } } → loadGroup a 0 [] = some s1 → loadConfig s1 = some s2 →
     loadGroups [1, 2, 3, 4] [0] (rederiveXts (bootCounter { s2 with keeper := { s2.keeper with derived := true } })) = (s3, none) →
     (∀ e, e ∈ b.bridges → bridgeVersion e.1 e.2 ≠ none) → b.badStacks = 0 → b.caravans = 0 → b.stewards ≠ 0xFF →
     Completes (.pwrgoodAssert b) s (fun u => u.hub.bootState = 2 ∧ u.pins.pwrgood = true ∧ u.keeper.armed = true ∧
       u.keeper.counter = u.keeper.ceiling ∧
       (∀ c, flashCeiling s2 = some c → u.keeper.ceiling = BitVec.ofNat 64 c ∧ u.flash = s.flash) ∧
       (flashCeiling s2 = none → u.keeper.ceiling = 0x8000000000000000 ∧ u.flash.ceiling0 = areaSeal s2 (toLe 8 (2 ^ 63)) ∧
         u.flash.ceiling1 = areaSeal (bumpFree s2) (toLe 8 (2 ^ 63))) ∧
       (∀ p, (getPart u p).phase = .absent) ∧ u.cmd.taken = [] ∧ u.rel.stewards = b.stewards ∧
       u.cmd.port0.training = !s.cmd.port0.perst ∧ u.cmd.port1.training = !s.cmd.port1.perst)) ∧
   (∀ (s : State) (b : BootInputs) (c : Nat) (cs : List Nat), s.pins.pwrgood = false → b.tamper = c :: cs →
     Completes (.pwrgoodAssert b) s (fun u => u.hub.bootState = 4 ∧ u.hub.cause = 6 ∧ u.keeper.tamperHold = true ∧ u.keeper.locked = true ∧
       u.keeper.lastPhase = 1 ∧ u.pins.tamperOut = true ∧ u.cmd.port0.training = false ∧ u.cmd.port1.training = false ∧
       u.keeper.asserted = b.tamper ∧
       (∀ d ds, b.tamper.filter (fun x => !s.keeper.asserted.contains x) = d :: ds → u.keeper.lastCause = d ∧
         u.keeper.tamperCount = min 1023 ((poweredUp s).keeper.tamperCount + 1)) ∧
       ((∀ x, x ∈ b.tamper → s.keeper.asserted.contains x = true) → u.keeper.lastCause = c ∧
         u.keeper.tamperCount = (poweredUp s).keeper.tamperCount))) ∧
   (∀ (s : State) (b : BootInputs), s.pins.pwrgood = false → b.tamper = [] → (b.keeperFault = true ∨ s.rel.keeperDown = true) →
     Completes (.pwrgoodAssert b) s (fun u => u.hub.bootState = 5 ∧ u.hub.cause = 7)) ∧
   (∀ (s : State) (b : BootInputs), s.pins.pwrgood = false → b.tamper = [] → b.keeperFault = false → s.rel.keeperDown = false →
     loadGroup { poweredUp s with keeper := { (poweredUp s).keeper with asserted := [] } } 0 [] = none →
     Completes (.pwrgoodAssert b) s (fun u => u.hub.bootState = 1 ∧ u.hub.cause = 1 ∧ u.cmd.port0.training = !s.cmd.port0.perst ∧
       u.cmd.port1.training = false)) ∧
   ∀ s : State, Completes .powerLoss s (fun u => u.pins.pwrgood = false ∧ u.parts = [] ∧ u.cmd.taken = [] ∧ u.flash = s.flash ∧
     u.keeper.tamperCount = s.keeper.tamperCount ∧ u.keeper.locked = false ∧ u.cmd.port0.perst = s.cmd.port0.perst ∧
     u.cmd.port1.perst = s.cmd.port1.perst ∧ u.pending = s.pending ∧ u.outputs = s.outputs)) ∧
  ((∀ (s : State) (port : Port), s.pins.pwrgood = true → s.power.state ≠ .sleep → s.pins.thermtrip = false → (getPort s port).linkUp = false →
     (s.hub.bootState = 2 ∨ s.hub.bootState = 3) →
     Completes (.perstDeassert port) s (fun u => (getPort u port).perst = false ∧ (getPort u port).training = true ∧
       (getPort u port).linkUp = false ∧ (getPort u (otherPort port)).perst = (getPort s (otherPort port)).perst ∧ Keeps [.ports] s u)) ∧
   (∀ (s : State) (port : Port), s.pins.pwrgood = false → Completes (.perstDeassert port) s (fun u =>
     getPort u port = { getPort s port with perst := false } ∧ Keeps [.ports] s u)) ∧
   ∀ (s : State) (port : Port), s.pins.pwrgood = true → s.pins.thermtrip = false → (getPort s port).perst = false → (getPort s port).linkUp = false →
     (s.hub.bootState = 2 ∨ s.hub.bootState = 3) →
     Completes (.dataLinkUp port) s (fun u => (getPort u port).linkUp = true ∧ (getPort u port).flitMode = true ∧
       (getPort u port).training = false ∧ 1 ≤ (getPort u port).speed.toNat ∧ (getPort u port).speed.toNat ≤ 6 ∧
       (getPort u port).width.toNat ∈ [1, 2, 4, 8, 16] ∧ u.hub.bootState = 3 ∧ (getPort u port).lock = (getPort s port).lock ∧
       getPort u (otherPort port) = getPort s (otherPort port) ∧
       (s.hub.bootState = 2 → ∀ l, l < 4 → (getLink s l).up = false → (getLink u l).training = true) ∧
       Keeps [.ports, .hub, .porush, .free] s u))

/-- A write of any other value than the key to a reset register is ignored. The key resets warm, and where every stack trains: every live
partition keeps its round, keys, session and counter, with the journal space of envelopes that were not admitted given back, every unmask
back at its tile's committed bank and the image that is due not yet sealed; no command is left, no queue enabled and no DRBG instance
live; the running configuration, the tamper count, the fault log and the lock bits stay. Rests on the model's choices of assumption 96. -/
def Obligations.WarmResetKeepsPartitions : Prop :=
  (∀ (i : Instr) (v : W32) (b : BootInputs) (s : State), (i = .hubReset v b ∨ i = .i3cReset v b) → v ≠ 0x5741524D → exec i s = .next s) ∧
  ∀ (i : Instr) (b : BootInputs) (s : State), (i = .hubReset 0x5741524D b ∨ i = .i3cReset 0x5741524D b) → s.pins.pwrgood = true →
    s.power.state ≠ .sleep → s.pins.thermtrip = false → s.hub.bootState ≠ 4 → b.tamper = [] → b.badStacks = 0 →
    Completes i s (fun u => (∀ p, (getPart s p).phase = .live → (getPart u p).phase = .live ∧
        (∀ r, getRound s p = some r → ∃ x, getRound u p = some x ∧ SameButProgress r x ∧
          x.jUse0 = r.jUse0 - sumNat ((getPart s p).flights.map (fun e => e.2.jour0)) ∧
          x.jUse1 = r.jUse1 - sumNat ((getPart s p).flights.map (fun e => e.2.jour1)) ∧
          x.finish.sealed = [] ∧ ∀ t, (getTile r t).prim.phase = .accumulating → (getTile x t).groups = 0) ∧
        (getPart u p).keys = (getPart s p).keys ∧ (getPart u p).session = (getPart s p).session ∧ (getPart u p).cmdKey = (getPart s p).cmdKey ∧
        (getPart u p).counter = (getPart s p).counter ∧ (getPart u p).weights = (getPart s p).weights ∧ (getPart u p).epoch = (getPart s p).epoch ∧
        (getPart u p).flights = [] ∧ (getPart u p).opening = none ∧ (getPart u p).saved = [] ∧
        (∀ h o, Table.get? (getPart u p).store h = some o → o.refreshing = none)) ∧
      u.cmd.taken = [] ∧ (∀ f n, (getSq u f n).enable = false ∧ (getCq u f n).enable = false) ∧ (∀ n, (getInst u n).live = false) ∧
      u.keeper.tamperCount = s.keeper.tamperCount ∧ u.keeper.locked = s.keeper.locked ∧ u.rel.log = s.rel.log ∧ u.hub.warm = true ∧
      u.hub.config = s.hub.config ∧ u.hub.configDigest = s.hub.configDigest ∧ u.hub.rolling = s.hub.rolling ∧
      u.cmd.port0.lock = s.cmd.port0.lock ∧ u.cmd.port1.lock = s.cmd.port1.lock ∧ u.entropy.lock = s.entropy.lock ∧ u.flash = s.flash)

/-- FW.STAGE writes the image to the slot that its group, one of 0 to 4, does not run from, and to no other place; the running slot and group
5 are POLICY_DENIED, and an image that exceeds the slot is RANGE. DEBUG.SET writes a configuration block that verifies to the slot with
the lower sequence, and refuses any other with AUTH_FAIL. Recovery takes chunks that follow without a gap for the group it asks for,
starts again at offset 0 on any other, and after the last chunk of an image that verifies writes both slots and boots as from cold;
outside recovery nothing happens. A group restart under rolling runs the newer slot where it verifies and is compatible, keeps the running
image and sets stage_failed where it does not, and is ignored for groups 0 and 5. Rests on the model's choices of assumptions 2, 57, 71
and 98. -/
def Obligations.FirmwareIsStagedAndRecovered : Prop :=
  ((∀ (s : State) (ref : CmdRef) (t : Taken) (g : Nat) (b : Bool) (buf : Bytes), KeeperReady s ref 0x1001 t → g = t.desc.param 0 1 → g < 5 →
     t.desc.param 1 1 ≤ 1 → b = decide (t.desc.param 1 1 = 1) → (getFw s g).slot ≠ b → t.desc.length ≤ slotBytes g →
     Succeeds (.fwStage ref buf) s t {} (fun v => flashSlot v g b = buf.take t.desc.length ∧
       (∀ h c, (h, c) ≠ (g, b) → flashSlot v h c = flashSlot s h c) ∧ v.flash.cert = s.flash.cert ∧
       v.flash.ceiling0 = s.flash.ceiling0 ∧ v.flash.ceiling1 = s.flash.ceiling1 ∧ Keeps [.flash] (keeperServed s t) v)) ∧
   (∀ (s : State) (ref : CmdRef) (t : Taken) (buf : Bytes), KeeperReady s ref 0x1001 t → t.desc.param 0 1 < 5 → t.desc.param 1 1 ≤ 1 →
     (getFw s (t.desc.param 0 1)).slot = decide (t.desc.param 1 1 = 1) →
     exec (.fwStage ref buf) s = .next (complete (keeperServed s t) t .policyDenied)) ∧
   (∀ (s : State) (ref : CmdRef) (t : Taken) (buf : Bytes), KeeperReady s ref 0x1001 t → t.desc.param 1 1 ≤ 1 →
     (t.desc.param 0 1 = 5 → exec (.fwStage ref buf) s = .next (complete (keeperServed s t) t .policyDenied)) ∧
     (t.desc.param 0 1 < 5 → (getFw s (t.desc.param 0 1)).slot ≠ decide (t.desc.param 1 1 = 1) → slotBytes (t.desc.param 0 1) < t.desc.length →
       exec (.fwStage ref buf) s = .next (complete (keeperServed s t) t .range))) ∧
   ∀ (s : State) (ref : CmdRef) (t : Taken) (buf : Bytes), KeeperReady s ref 0x1002 t →
     (configVerifies (buf.take t.desc.length) = true →
       Succeeds (.debugSet ref buf) s t {} (fun v => flashSlot v 5 (!firstSlot s 5) = buf.take t.desc.length ∧
         flashSlot v 5 (firstSlot s 5) = flashSlot s 5 (firstSlot s 5) ∧ v.hub.config = s.hub.config ∧ Keeps [.flash] (keeperServed s t) v)) ∧
     (configVerifies (buf.take t.desc.length) = false → exec (.debugSet ref buf) s = .next (complete (keeperServed s t) t .authFail))) ∧
  ((∀ (i : Instr) (s s0 : State) (v : W64) (b : BootInputs) (path : Bool) (data img : Bytes),
     ((i = .recoveryCtrl v b ∧ path = false ∧ s0 = s ∧ data = Memory.reads s.hub.recBuf 0 (v.toNat / 2 ^ 32 % 2 ^ 17)) ∨
      (i = .i3cRecoveryCtrl v b ∧ path = true ∧ s.power.state ≠ .sleep ∧ s0 = { s with hub := { s.hub with recI3cData := [] } } ∧
        data = s.hub.recI3cData.take (v.toNat / 2 ^ 32 % 2 ^ 17))) →
     s.hub.bootState = 1 → (s.hub.recState = 0 ∨ s.hub.recI3c = path) → s.hub.recState ≠ 2 →
     1 ≤ v.toNat / 2 ^ 32 % 2 ^ 17 → v.toNat / 2 ^ 32 % 2 ^ 17 ≤ 65536 →
     img = s.hub.recImage ++ padTo (v.toNat / 2 ^ 32 % 2 ^ 17) data →
     ((v.toNat / 2 ^ 49 % 8 ≠ s.hub.causeGroup ∨ v.toNat % 2 ^ 32 ≠ s.hub.recImage.length) → Completes i s (fun u => u.hub.recState = 3 ∧
       u.hub.recI3c = path ∧ u.hub.recImage = [] ∧ u.hub.bootState = 1 ∧ Keeps [.hub] s u)) ∧
     (v.toNat / 2 ^ 49 % 8 = s.hub.causeGroup → v.toNat % 2 ^ 32 = s.hub.recImage.length →
       (bitAt v.toNat 52 = false → Completes i s (fun u => u.hub.recState = 1 ∧ u.hub.recI3c = path ∧ u.hub.recImage = img ∧
         u.hub.bootState = 1 ∧ Keeps [.hub] s u)) ∧
       (bitAt v.toNat 52 = true → recoveryOk s.hub.causeGroup img = true → ∃ u0, exec i s = .next (coldBoot u0 b) ∧
         flashSlot u0 s.hub.causeGroup false = img ∧ flashSlot u0 s.hub.causeGroup true = img ∧
         (∀ h c, h ≠ s.hub.causeGroup → flashSlot u0 h c = flashSlot s h c) ∧ Keeps [.hub, .flash] s u0))) ∧
   (∀ (i : Instr) (s : State) (v : W64) (b : BootInputs), i = .recoveryCtrl v b → s.hub.bootState ≠ 1 → exec i s = .next s) ∧
   (∀ (s : State) (data : Bytes), s.power.state ≠ .sleep → s.hub.bootState = 1 → Completes (.i3cRecoveryData data) s (fun u =>
     u.hub = { s.hub with recI3cData := (s.hub.recI3cData ++ padTo 256 data).take 65536 } ∧ Keeps [.hub] s u)) ∧
   (∀ (s : State) (v : W32) (g : Nat) (b : Bool), g = v.toNat % 8 → s.hub.rolling = true → s.hub.bootState = 3 → 1 ≤ g → g ≤ 4 →
     b = decide (slotSequence s g false < slotSequence s g true) →
     (b = (getFw s g).slot → exec (.groupRestart v) s = .next s) ∧
     (b ≠ (getFw s g).slot → imageVerifies g (flashSlot s g b) = true →
       (∀ h, h < 5 → h ≠ g → compatible g (parseImage (flashSlot s g b)) h (getFw s h) = true) →
       Completes (.groupRestart v) s (fun u => getFw u g = runImage (parseImage (flashSlot s g b)) b false ∧
         Table.get? u.hbm.images g = some (flashSlot s g b) ∧ (∀ h, h ≠ g → getFw u h = getFw s h) ∧ Keeps [.hub, .hbm] s u)) ∧
     (b ≠ (getFw s g).slot → imageVerifies g (flashSlot s g b) = false →
       Completes (.groupRestart v) s (fun u => getFw u g = { getFw s g with stageFailed := true } ∧
         (∀ h, h ≠ g → getFw u h = getFw s h) ∧ Keeps [.hub] s u))) ∧
   ∀ (s : State) (v : W32), (s.hub.rolling = false ∨ v.toNat % 8 = 0 ∨ v.toNat % 8 = 5) → exec (.groupRestart v) s = .next s)

-- ------------------------------------------------------------------ tamper, faults, islands

/-- The response to an alarm. In operation, which begins with the Keeper's first key derivation: every pending command ends, every key is
zero, and the device is locked with TAMPER_OUT high, the count one higher up to 1,023, and the cause with phase 3. Before it: tamper hold
with no link up, phase 1, and every key zero all the same. In Sleep, which watches neither cause 4 nor, for cause 3, any rail but VAON,
the retention domain is lost too. Disarmed, nothing happens; while PWRGOOD is low cause 3 is ignored, and another cause leaves its count
to the next boot. Rests on the model's choices of assumptions 49, 101 and 148. -/
def Obligations.TamperAlarmZeroesAndLocks : Prop :=
  (∀ (s : State) (c : Nat) (aon : Bool), s.keeper.armed = true → 1 ≤ c → c ≤ 4 → s.pins.pwrgood = true → s.power.state ≠ .sleep →
    s.keeper.derived = true →
    Completes (.tamperAlarm ⟨c, aon⟩) s (fun u => u.cmd.taken = [] ∧ KeysZeroed s u ∧ u.keeper.locked = true ∧ u.pins.tamperOut = true ∧
      u.keeper.lastCause = c ∧ u.keeper.lastPhase = 3 ∧ u.keeper.tamperCount = min 1023 (s.keeper.tamperCount + 1) ∧
      u.keeper.asserted.contains c = true ∧ u.flash = s.flash ∧ u.hub.bootState = s.hub.bootState)) ∧
  (∀ (s : State) (c : Nat) (aon : Bool), s.keeper.armed = true → 1 ≤ c → c ≤ 4 → s.pins.pwrgood = true → s.power.state ≠ .sleep →
    s.keeper.derived = false →
    Completes (.tamperAlarm ⟨c, aon⟩) s (fun u => u.hub.bootState = 4 ∧ u.hub.cause = 6 ∧ u.keeper.tamperHold = true ∧ u.keeper.locked = true ∧
      u.keeper.lastCause = c ∧ u.keeper.lastPhase = 1 ∧ u.keeper.tamperCount = min 1023 (s.keeper.tamperCount + 1) ∧ u.pins.tamperOut = true ∧
      KeysZeroed s u ∧ (∀ q, (getPort u q).linkUp = false ∧ (getPort u q).training = false) ∧
      Keeps [.keeper, .pins, .hub, .ports, .parts, .partCells, .cells, .entropy, .caravans, .hbm, .porush, .fns, .outputs] s u)) ∧
  (∀ (s : State) (c : Nat) (aon : Bool), s.pins.pwrgood = true → s.power.state = .sleep → (c = 4 ∨ (c = 3 ∧ aon = false)) →
    exec (.tamperAlarm ⟨c, aon⟩) s = .next s) ∧
  (∀ (s : State) (c : Nat) (aon : Bool), s.keeper.armed = true → 1 ≤ c → c ≤ 3 → (c = 3 → aon = true) → s.pins.pwrgood = true →
    s.power.state = .sleep →
    Completes (.tamperAlarm ⟨c, aon⟩) s (fun u => u.keeper.retentionLost = true ∧ u.keeper.locked = true ∧ u.keeper.lastCause = c ∧
      u.keeper.lastPhase = 2 ∧ u.keeper.tamperCount = min 1023 (s.keeper.tamperCount + 1) ∧ KeysZeroed s u ∧ u.power.state = .sleep)) ∧
  (∀ (s : State) (c : Nat) (aon : Bool), s.keeper.armed = true → 1 ≤ c → c ≤ 4 → s.pins.pwrgood = false →
    (c = 3 → exec (.tamperAlarm ⟨c, aon⟩) s = .next s) ∧
    (c ≠ 3 → Completes (.tamperAlarm ⟨c, aon⟩) s (fun u => u.keeper.owedCount = true ∧ u.keeper.lastCause = c ∧
      u.keeper.tamperCount = s.keeper.tamperCount ∧ Keeps [.keeper] s u))) ∧
  ∀ (s : State) (c : Nat) (aon : Bool), s.keeper.armed = false → exec (.tamperAlarm ⟨c, aon⟩) s = .next s

/-- A fault corrected in place is counted and logged and changes nothing else; a caravan's fault drops its work, with its chain's, marks the
ADMITs staged there as replayed, and of every round only unmasks that the works had begun are back at their tiles' committed banks; a
caravan that faults again in the replay is retired, and also loses what it had saved; a retired engine shows in its bit; a fenced
pseudo-channel is counted and its granules, a free value (log entry 140), are unavailable; a fault outside the model logs outcome 3 and
the device is degraded; without the AD0-AD1 bridge no tile is mirrored. A tile's repair leaves the content of both copies as R377 and R378
give it, the unmask of a tile that still accumulates starts again, and an unmasked bank that was lost goes back to the mirror's; with no
copy left the round is lost; a partition of a retired Steward moves to the next that serves, which posts its steps, and nothing of its
round changes. Rests on the model's choices of assumptions 50, 102, 140 and 145. -/
def Obligations.FaultsAreContainedAndRebuilt : Prop :=
  ((∀ (s : State) (f : FaultInfo), f.corrected = true → Completes (.faultDetected f) s (fun u => u.rel.corrected = satInc s.rel.corrected ∧
     u.rel.detected = s.rel.detected ∧ u.rel.logHead = (s.rel.logHead + 1) % 256 ∧
     (∃ e, Table.get? u.rel.log s.rel.logHead = some e ∧ e.kind = unitCode f.kind ∧ e.index = f.index ∧ e.mechanism = f.mechanism ∧ e.outcome = 0) ∧
     Keeps [.rel, .free, .fns, .outputs] s u)) ∧
   (∀ (s : State) (f : FaultInfo), f.corrected = false → f.kind = .caravan → f.index < 48 → f.inReplay = false → f.thirdInTen = false →
     f.watchdogAgain = false → (getCv s f.index).work.any (inReplay s f.index) = false →
     Completes (.faultDetected f) s (fun u => (getCv u f.index).work = none ∧ (getCv u f.index).stepping = false ∧
       (NoneErasing s → (∀ w, (getCv s f.index).work = some w → w.chained = none) → OnlyCv f.index s u) ∧
       (NoneErasing s → ∀ w, (getCv s f.index).work = some w → (getCv u f.index).faultedOn = some (callOf w)) ∧ (getCv u f.index).switching = none ∧ (getCv u f.index).half = none ∧
       (∀ p r, (getPart s p).erasing = false → getRound s p = some r → ∃ x, getRound u p = some x ∧ SameButProgress r x) ∧
       (∀ e, e ∈ (getCv s f.index).staged → ∀ p fl, fnPart e.1.fn = some p → (getPart s p).erasing = false →
         Table.get? (getPart s p).flights e.1 = some fl → Table.get? (getPart u p).flights e.1 = some { fl with replayed := true }) ∧
       u.rel.detected = satInc s.rel.detected ∧ u.rel.caravans = s.rel.caravans ∧
       (∃ e, Table.get? u.rel.log s.rel.logHead = some e ∧ e.kind = 1 ∧ e.index = f.index ∧ e.outcome = 1))) ∧
   (∀ (s : State) (f : FaultInfo), f.corrected = false → f.kind = .caravan → f.index < 48 →
     (f.thirdInTen = true ∨ (getCv s f.index).work.any (inReplay s f.index) = true) →
     Completes (.faultDetected f) s (fun u => (getCv u f.index).work = none ∧ (getCv u f.index).duty = false ∧
       u.rel.caravans = s.rel.caravans ||| (1 <<< f.index) ∧ u.rel.error.getLsbD 1 = true ∧
       (∀ p, (getPart s p).erasing = false → Table.get? (getPart u p).saved f.index = none ∧
         ∀ r, getRound s p = some r → ∃ x, getRound u p = some x ∧ SameButProgress r x) ∧
       (∃ e, Table.get? u.rel.log s.rel.logHead = some e ∧ e.kind = 1 ∧ e.index = f.index ∧ e.outcome = 2))) ∧
   (∀ (s : State) (f : FaultInfo), f.corrected = false → f.kind = .x25519 → f.index < 8 → f.thirdInTen = true →
     Completes (.faultDetected f) s (fun u => u.rel.x25519 = s.rel.x25519 ||| (1 <<< f.index) ∧ Keeps [.rel, .free, .fns, .outputs] s u)) ∧
   (∀ (s : State) (f : FaultInfo), f.corrected = false → f.kind = .hbm → f.index < 8 → f.thirdInTen = true →
     Completes (.faultDetected f) s (fun u => u.rel.pseudo = min 255 (s.rel.pseudo + 1) ∧ u.rel.error.getLsbD 1 = true ∧
       (∀ g, g < 56 → Sys2Proof.Config.channelGranule s.freeCount g = true → getGran u (f.index, g) = .unavailable) ∧
       (∀ p, (∀ g, g ∈ (getPart s p).gran0 ++ (getPart s p).gran1 → g.1 ≠ f.index) → getPart u p = getPart s p))) ∧
   ∀ (s : State) (f : FaultInfo), f.corrected = false → (f.kind = .keeper ∨ f.kind = .crossBridge) →
     Completes (.faultDetected f) s (fun u => u.rel.degraded = true ∧ (f.kind = .keeper → u.rel.keeperDown = true) ∧
     (f.kind = .crossBridge → u.rel.crossDown = true ∧ u.rel.bridgesUp.getLsbD 2 = false ∧
       ∀ p i, exec (.mirrorCopyDone p i) u = .next u) ∧ u.rel.error.getLsbD 2 = true ∧ (∀ p r, p < 64 → (getPart s p).phase ≠ .absent → getRound s p = some r → roundLive r = true →
       ∃ x, getRound u p = some x ∧ x.lost = true ∧ x.state = r.state ∧
         ∃ e, e ∈ (getPart u p).events ∧ e.kind = .roundStatus ∧ e.status = .authFail) ∧
     (∃ e, Table.get? u.rel.log s.rel.logHead = some e ∧ e.outcome = 3) ∧ Keeps [.rel, .free, .fns, .outputs, .parts, .partCells] s u)) ∧
  ((∀ (s : State) (p i : Nat) (r : Round), getRound s p = some r → (ownTiles r).contains i = true → NoneErasing s →
     ((getTile r i).prim.phase = .accumulating ∨ (getTile r i).prim.phase = .finished ∨ (getTile r i).mirrored = true) →
     Completes (.tileRepair p i true false) s (fun u => ∃ x, getRound u p = some x ∧
       (getTile x i).prim.committed = (getTile r i).prim.committed ∧ (getTile x i).prim.bank = !(getTile r i).prim.bank ∧
       (getTile x i).prim.watermark = (getTile r i).prim.watermark ∧ (getTile x i).prim.phase = (getTile r i).prim.phase ∧
       ((getTile r i).prim.phase = .accumulating → (getTile x i).groups = 0) ∧
       (getTile x i).mirr = (getTile r i).mirr ∧ (∀ j, j ≠ i → getTile x j = getTile r j) ∧ x.index = r.index ∧ x.state = r.state ∧
       (∀ q, q ≠ p → own (getPart u q) = own (getPart s q)) ∧ Keeps [.parts, .caravans, .fns, .taken, .cells, .partCells, .outputs] s u)) ∧
   (∀ (s : State) (p i : Nat) (r : Round), getRound s p = some r → (ownTiles r).contains i = true → r.ckpt = none →
     Completes (.tileRepair p i false true) s (fun u => ∃ x, getRound u p = some x ∧ (getTile x i).prim = (getTile r i).prim ∧
       (getTile x i).mirr.committed = (getTile r i).prim.committed ∧ (getTile x i).mirr.watermark = (getTile r i).prim.watermark ∧
       (∀ j, j ≠ i → getTile x j = getTile r j) ∧ OnlyPart p s u ∧ Keeps [.parts] s u)) ∧
   (∀ (s : State) (p i : Nat) (r : Round), getRound s p = some r → (ownTiles r).contains i = true → NoneErasing s →
     (getTile r i).prim.phase = .unmasked → (getTile r i).mirrored = false →
     Completes (.tileRepair p i true false) s (fun u => ∃ x, getRound u p = some x ∧
       (getTile x i).prim.committed = (getTile r i).mirr.committed ∧ (getTile x i).prim.watermark = (getTile r i).mirr.watermark ∧
       (getTile x i).prim.phase = (getTile r i).mirr.phase ∧ (getTile x i).groups = 0 ∧ (getTile x i).mirr = (getTile r i).mirr ∧
       (∀ j, j ≠ i → getTile x j = getTile r j) ∧ x.index = r.index ∧ x.state = r.state ∧
       (∀ q, q ≠ p → own (getPart u q) = own (getPart s q)) ∧ Keeps [.parts, .caravans, .fns, .taken, .cells, .partCells, .outputs] s u)) ∧
   (∀ (s : State) (p i : Nat) (r : Round), getRound s p = some r → (ownTiles r).contains i = true → roundLive r = true →
     Completes (.tileRepair p i true true) s (fun u => (∃ x, getRound u p = some x ∧ x.lost = true ∧ x.state = r.state ∧ x.tiles = r.tiles) ∧
       u.rel.degraded = true ∧ OnlyPart p s u ∧ Keeps [.rel, .fns, .outputs, .parts, .partCells] s u)) ∧
   ∀ (s : State) (p : Nat), (getPart s p).phase ≠ .absent → s.rel.stewards.getLsbD (getPart s p).steward = true → s.rel.stewards ≠ 0xFF →
     Completes (.stewardRebuild p) s (fun u => getPart u p = { getPart s p with steward := stewardOf s p } ∧
       s.rel.stewards.getLsbD (getPart u p).steward = false ∧ OnlyPart p s u ∧
       (∀ cv m, m ∈ (getCv u cv).mailbox → m.part = p → m.steward = stewardOf s p) ∧
       (∀ cv m, m.part ≠ p → (m ∈ (getCv u cv).mailbox ↔ m ∈ (getCv s cv).mailbox)) ∧
       (∀ cv, { getCv u cv with mailbox := (getCv s cv).mailbox, mailSent := (getCv s cv).mailSent } = getCv s cv) ∧
       Keeps [.parts, .caravans] s u))

/-- A canary reading in D0 steers its island's voltage by 5 mV, by the slowest of its rates projected to 105 C: up below 2,205 M beats/s while
there is room, down at the third reading in a row above 2,310, never out of 650 to 850 mV, and otherwise not; with no room left the margin
is exhausted. The record written to flash, every 24 h or once a voltage has moved 20 mV from it, is the 120 voltages, and its history
takes the readings since the last write. A watchdog that expires on an island that is neither a port's nor parked stalls the island, and
its PHY where the PLL that they share has stopped, and is counted and logged; an island without a crossing to watch has none. A clock that
returns clears the STALLED bits of its islands, and what waited in their crossings passes in order; a resynchronised crossing delivers
what the side that was not reset held, resends its replay copies, loses its counted events, starts a link's credits afresh, and clears its
bit; an item wakes its island, and what waited for it passes. Rests on the model's choices of assumptions 52 and 149. -/
def Obligations.IslandsAgeStallAndWake : Prop :=
  ((∀ (s : State) (i fp v : Nat) (rates : List Nat) (j : Int), s.power.state = .d0 → s.pins.pwrgood = true → clockStopped s 37 = false →
     i < 120 → rates ≠ [] → (∃ q, q ∈ rates ∧ fp = Sys2Proof.Config.canaryAt105 i q j) →
     (∀ q, q ∈ rates → fp ≤ Sys2Proof.Config.canaryAt105 i q j) → v = Table.getD s.islands.volts i 850 → 650 ≤ v → v ≤ 850 → v % 5 = 0 →
     Completes (.canaryReading i ⟨rates, j⟩) s (fun u => 650 ≤ islandVolt u i ∧ islandVolt u i ≤ 850 ∧ Table.get? u.islands.lastProj i = some fp ∧
       (let moved := max (islandVolt u i) (recordedVolt s i) - min (islandVolt u i) (recordedVolt s i)
        (moved < 20 → u.flash = s.flash ∧ Table.getD u.islands.readings i [] = Table.getD s.islands.readings i [] ++ [fp]) ∧
        (20 ≤ moved → u.flash.ageing = some ((List.range 120).map (islandVolt u)) ∧ u.islands.recorded = u.flash.ageing ∧
          u.islands.readings = [] ∧
          Table.getD u.flash.canaries i [] = Table.getD s.flash.canaries i [] ++ (Table.getD s.islands.readings i [] ++ [fp]))) ∧
       (fp < 2205 → v < 850 → islandVolt u i = v + 5) ∧
       (fp < 2205 → v = 850 → islandVolt u i = 850 ∧ u.rel.exhausted = true ∧ u.rel.error.getLsbD 3 = true) ∧
       (2205 ≤ fp → fp ≤ 2310 → islandVolt u i = v ∧ Table.getD u.islands.highRuns i 0 = 0) ∧
       (2310 < fp → 2 ≤ Table.getD s.islands.highRuns i 0 → islandVolt u i = max 650 (v - 5)) ∧
       (2310 < fp → Table.getD s.islands.highRuns i 0 < 2 → islandVolt u i = v ∧
         Table.getD u.islands.highRuns i 0 = Table.getD s.islands.highRuns i 0 + 1) ∧
       (∀ j, j ≠ i → islandVolt u j = islandVolt s j))) ∧
   ∀ s : State, s.pins.pwrgood = true → clockStopped s 37 = false → clockStopped s 36 = false → Completes .ageingRecordWrite s (fun u =>
     u.flash = { s.flash with ageing := some ((List.range 120).map (fun i => Table.getD s.islands.volts i 850)),
                              canaries := u.flash.canaries } ∧
     (∀ i r, Table.get? s.islands.readings i = some r → Table.getD u.flash.canaries i [] = Table.getD s.flash.canaries i [] ++ r) ∧
     (∀ i, Table.get? s.islands.readings i = none → Table.getD u.flash.canaries i [] = Table.getD s.flash.canaries i []) ∧
     u.islands = { s.islands with recorded := u.flash.ageing, readings := [] } ∧ Keeps [.flash, .islands] s u)) ∧
  ((∀ (s : State) (i : Nat) (pll : Bool), crossingKinds i ≠ [] → i ≠ 2 → i ≠ 3 → i ≠ 39 → s.islands.parked.getLsbD i = false →
     s.pins.pwrgood = true →
     let m := islandMask (if pll then clockGroup i else [i])
     Completes (.watchdogExpiry ⟨i, pll⟩) s (fun u => u.islands.stalled = s.islands.stalled ||| m ∧
       u.islands.seen = s.islands.seen ||| m ∧ u.rel.detected = satInc s.rel.detected ∧
       (∃ e, Table.get? u.rel.log s.rel.logHead = some e ∧ e.kind = 9 ∧ e.index = i ∧ e.mechanism = 10) ∧
       Keeps [.islands, .rel, .free, .fns, .outputs] s u)) ∧
   (∀ (s : State) (i : Nat) (pll : Bool), (crossingKinds i = [] ∨ i = 39 ∨ s.islands.parked.getLsbD i = true) →
     exec (.watchdogExpiry ⟨i, pll⟩) s = .next s) ∧
   (∀ (s : State) (i : Nat), i ≠ 30 → Completes (.islandClockReturn i) s (fun u =>
     u.islands = { s.islands with stalled := s.islands.stalled &&& ~~~islandMask (clockGroup i) } ∧
     (∀ j x, Table.get? s.crossings j = some x → j ∈ clockGroup i → ∃ y, Table.get? u.crossings j = some y ∧
       y.delivered = x.delivered ++ x.inFifo ++ x.inWait ++ x.outFifo ++ x.counted ++ x.uncredited ∧ y.inFifo = [] ∧ y.inWait = [] ∧
       y.outFifo = [] ∧ y.counted = [] ∧ y.uncredited = [] ∧ y.lost = x.lost ∧ y.value = x.holding.getD x.value ∧ y.holding = none) ∧
     (∀ j, j ∉ clockGroup i → Table.get? u.crossings j = Table.get? s.crossings j) ∧ u.outputs = s.outputs ∧
     Keeps [.islands, .outputs] s u)) ∧
   (∀ (s : State) (i : Nat) (b : Bool) (x : Crossing), x = getCrossing s i → i ≠ 30 → crossingKinds i ≠ [] →
     Completes (.crossingResync i b) s (fun u =>
     u.islands = { s.islands with stalled := s.islands.stalled &&& ~~~islandMask [i] } ∧
     (∃ y, Table.get? u.crossings i = some y ∧ y.inFifo = [] ∧ y.inWait = [] ∧ y.outFifo = [] ∧ y.inReplay = [] ∧ y.outReplay = [] ∧
       y.counted = [] ∧ y.uncredited = [] ∧ y.value = x.holding.getD x.value ∧
       (b = true → y.delivered = x.delivered ++ x.inReplay ++ x.inWait ++ x.outFifo ∧
         y.lost = x.lost ++ x.outReplay.drop x.outFifo.length ++ x.counted ++ x.uncredited) ∧
       (b = false → y.delivered = x.delivered ++ x.inFifo ++ x.outReplay ∧ y.lost = x.lost ++ x.inWait ++ x.counted ++ x.uncredited)) ∧
     (∀ l, i = 20 + l → l < 4 → (getLink u l).credits = [128, 128, 128] ∧ (getLink u l).owed = [0, 0, 0]) ∧
     (∀ l, i ≠ 20 + l ∨ 4 ≤ l → getLink u l = getLink s l) ∧
     (∀ j, j ≠ i → Table.get? u.crossings j = Table.get? s.crossings j) ∧ u.outputs = s.outputs ∧
     Keeps [.islands, .outputs, .porush] s u)) ∧
   ∀ (s : State) (i : Nat), s.pins.thermtrip = false → s.power.state ≠ .sleep →
     (i < 40 → Completes (.islandWake i) s (fun u => u.islands.parked.getLsbD i = false ∧
       (∀ j, j < 40 → j ≠ i → u.islands.parked.getLsbD j = s.islands.parked.getLsbD j) ∧
       { u.islands with parked := s.islands.parked } = s.islands ∧
       (∀ x, Table.get? s.crossings i = some x → ∃ y, Table.get? u.crossings i = some y ∧
         y.delivered = x.delivered ++ x.inFifo ++ x.inWait ++ x.outFifo ++ x.counted ++ x.uncredited) ∧
       (∀ j, j ≠ i → Table.get? u.crossings j = Table.get? s.crossings j) ∧ u.outputs = s.outputs ∧ Keeps [.islands, .outputs] s u)) ∧
     (40 ≤ i → i < 160 → Completes (.islandWake i) s (fun u => u.islands.retention.getLsbD (i - 40) = false ∧
       (∀ j, j < 120 → j ≠ i - 40 → u.islands.retention.getLsbD j = s.islands.retention.getLsbD j) ∧
       { u.islands with retention := s.islands.retention } = s.islands ∧ Keeps [.islands] s u)))
end

