-- ==== Sys2Proof/Laws/Bytes.lean ====
section
/-! SUPPORT. Bytes and byte memories: little-endian numbers read back as written, fields of a joined string, and the canonical form
of a memory, which every write keeps. -/

namespace Sys2Proof.Machine

-- ------------------------------------------------------------------ bytes

theorem leNat_toLe (n v : Nat) : leNat (toLe n v) = v % 256 ^ n := by
  induction n generalizing v with
  | zero => simp [toLe, leNat, Nat.mod_one]
  | succ n ih =>
    simp only [toLe, leNat, ih, BitVec.toNat_ofNat]
    rw [show (256 : Nat) ^ (n + 1) = 256 * 256 ^ n from Nat.pow_succ', Nat.mod_mul]

theorem length_toLe (n v : Nat) : (toLe n v).length = n := by
  induction n generalizing v with
  | zero => rfl
  | succ n ih => simp [toLe, ih]

/-- A field of the first string is that field of both joined. -/
theorem field_append (p r : Bytes) {o n : Nat} (h : o + n ≤ p.length) : field (p ++ r) o n = field p o n := by
  unfold field slice
  rw [List.drop_append_of_le_length (by omega), List.take_append_of_le_length (by simp; omega)]

-- ------------------------------------------------------------------ memories

/-- What the canonical form says of one entry and what follows it. -/
theorem Memory.wf_cons (k : Nat) (b : Byte) (m : Memory) :
    Memory.wf ((k, b) :: m) = true ↔ b ≠ 0 ∧ Memory.wf m = true ∧ ∀ e, m.head? = some e → k < e.1 := by
  cases m with
  | nil => simp [Memory.wf]
  | cons e m => obtain ⟨a, c⟩ := e; simp [Memory.wf]; exact ⟨fun ⟨⟨p, q⟩, r⟩ => ⟨p, r, q⟩, fun ⟨p, r, q⟩ => ⟨⟨p, q⟩, r⟩⟩

/-- The first address after a write is the old first one or the one written. -/
theorem Memory.head_write (m : Memory) (a : Nat) (b : Byte) (k : Nat) (hk : k < a) (hm : ∀ e, m.head? = some e → k < e.1)
    (hw : Memory.wf m = true) : ∀ e, (Memory.write m a b).head? = some e → k < e.1 := by
  intro e he
  cases m with
  | nil => unfold Memory.write at he; split at he <;> simp at he; rw [← he]; exact hk
  | cons x m =>
    obtain ⟨j, c⟩ := x
    have hj : k < j := hm (j, c) rfl
    unfold Memory.write at he
    split at he
    · split at he <;> simp at he <;> rw [← he]
      · exact hj
      · exact hk
    · split at he
      · split at he
        · have := ((Memory.wf_cons j c m).1 hw).2.2 e he; omega
        · simp at he; rw [← he]; exact hk
      · simp at he; rw [← he]; exact hj

/-- A write keeps the canonical form. -/
theorem Memory.wf_write (m : Memory) (a : Nat) (b : Byte) (h : Memory.wf m = true) : Memory.wf (Memory.write m a b) = true := by
  induction m with
  | nil => unfold Memory.write; split <;> simp_all [Memory.wf]
  | cons x m ih =>
    obtain ⟨k, c⟩ := x
    have hc := (Memory.wf_cons k c m).1 h
    unfold Memory.write
    split
    · split
      · exact h
      · exact (Memory.wf_cons _ _ _).2 ⟨‹_›, h, fun e he => by simp at he; rw [← he]; assumption⟩
    · split
      · rename_i hka; subst hka
        split
        · exact hc.2.1
        · exact (Memory.wf_cons _ _ _).2 ⟨‹_›, hc.2.1, hc.2.2⟩
      · exact (Memory.wf_cons _ _ _).2 ⟨hc.1, ih hc.2.1, Memory.head_write m a b k (by omega) hc.2.2 hc.2.1⟩

/-- A write of a byte string keeps the canonical form. -/
theorem Memory.wf_writes (bs : Bytes) : ∀ (m : Memory) (a : Nat), Memory.wf m = true → Memory.wf (Memory.writes m a bs) = true := by
  induction bs with
  | nil => intro m a h; exact h
  | cons b bs ih => intro m a h; exact ih _ _ (Memory.wf_write m a b h)

/-- What a read finds below every listed address. -/
theorem Memory.read_below (m : Memory) (a : Nat) (h : Memory.wf m = true) (hm : ∀ e, m.head? = some e → a < e.1) : Memory.read m a = 0 := by
  induction m with
  | nil => rfl
  | cons x m ih =>
    obtain ⟨k, c⟩ := x
    have hc := (Memory.wf_cons k c m).1 h
    have hk : a < k := hm (k, c) rfl
    unfold Memory.read
    rw [if_neg (by omega)]
    exact ih hc.2.1 (fun e he => by have := hc.2.2 e he; omega)

/-- A read after a write: the byte written there, every other byte as before. -/
theorem Memory.read_write (m : Memory) (a x : Nat) (b : Byte) (h : Memory.wf m = true) :
    Memory.read (Memory.write m a b) x = (if x = a then b else Memory.read m x) := by
  induction m with
  | nil =>
    unfold Memory.write
    split
    · rename_i hb; subst hb; simp [Memory.read]
    · simp only [Memory.read]; by_cases hx : a = x
      · subst hx; simp
      · rw [if_neg hx, if_neg (fun e => hx e.symm)]
  | cons y m ih =>
    obtain ⟨k, c⟩ := y
    have hc := (Memory.wf_cons k c m).1 h
    have below : ∀ z, z < k → Memory.read ((k, c) :: m) z = 0 := fun z hz =>
      Memory.read_below _ _ h (fun e he => by simp at he; rw [← he]; exact hz)
    unfold Memory.write
    split
    · rename_i hak
      split
      · rename_i hb; subst hb
        by_cases hx : x = a
        · rw [if_pos hx, hx, below a hak]
        · rw [if_neg hx]
      · rw [Memory.read]
        by_cases hx : a = x
        · rw [if_pos hx, if_pos hx.symm]
        · rw [if_neg hx, if_neg (fun e => hx e.symm)]
    · split
      · rename_i hka; subst hka
        split
        · rename_i hb; subst hb
          by_cases hx : x = a
          · rw [if_pos hx, hx]; exact Memory.read_below _ _ hc.2.1 hc.2.2
          · rw [if_neg hx]; conv => rhs; rw [Memory.read, if_neg (fun e => hx e.symm)]
        · by_cases hx : x = a
          · simp [Memory.read, hx]
          · simp only [Memory.read, if_neg hx, if_neg (fun e : a = x => hx e.symm)]
      · rename_i h1 h2
        simp only [Memory.read, ih hc.2.1]
        by_cases hk : k = x
        · subst hk; rw [if_pos rfl, if_neg (fun e => h2 e.symm), if_pos rfl]
        · simp only [if_neg hk]

/-- The recovery buffer of the machine after reset has the canonical form. -/
theorem wf_reset : Memory.wf State.reset.hub.recBuf = true := rfl

end Sys2Proof.Machine
end

