-- ==== Sys2Proof/Laws/State.lean ====
section
/-! SUPPORT. One lemma per field per update of State, and what reading gives after writing. -/

namespace Sys2Proof.Machine

section Tables

variable {κ α : Type} [DecidableEq κ]

@[simp] theorem Table.get?_put_self (t : Table κ α) (q : κ) (a : α) : Table.get? (Table.put t q a) q = some a := by
  induction t with
  | nil => simp [Table.put, Table.get?]
  | cons e t ih =>
    obtain ⟨k, v⟩ := e
    by_cases h : k = q
    · simp [Table.put, Table.get?, h]
    · simp [Table.put, Table.get?, h, ih]

theorem Table.get?_put_ne (t : Table κ α) {q r : κ} (a : α) (h : r ≠ q) :
    Table.get? (Table.put t q a) r = Table.get? t r := by
  induction t with
  | nil => simp [Table.put, Table.get?, h.symm]
  | cons e t ih =>
    obtain ⟨k, v⟩ := e
    by_cases hk : k = q
    · subst hk; simp [Table.put, Table.get?, h.symm]
    · by_cases hr : k = r
      · subst hr; simp [Table.put, Table.get?, hk]
      · simp [Table.put, Table.get?, hk, hr, ih]

@[simp] theorem Table.getD_put_self (t : Table κ α) (q : κ) (a d : α) : Table.getD (Table.put t q a) q d = a := by
  simp [Table.getD]

theorem Table.getD_put_ne (t : Table κ α) {q r : κ} (a d : α) (h : r ≠ q) :
    Table.getD (Table.put t q a) r d = Table.getD t r d := by
  simp [Table.getD, Table.get?_put_ne t a h]

theorem Table.put_put (t : Table κ α) (q : κ) (a b : α) : Table.put (Table.put t q a) q b = Table.put t q b := by
  induction t with
  | nil => simp [Table.put]
  | cons e t ih =>
    obtain ⟨k, v⟩ := e
    by_cases h : k = q
    · simp [Table.put, h]
    · simp [Table.put, h, ih]

end Tables

section Fields

variable (s : State)

@[simp] theorem setFn_pending (f : Fn) (x : FnState) : (setFn s f x).pending = s.pending := rfl
@[simp] theorem setFn_parts (f : Fn) (x : FnState) : (setFn s f x).parts = s.parts := rfl
@[simp] theorem setFn_keeper (f : Fn) (x : FnState) : (setFn s f x).keeper = s.keeper := rfl
@[simp] theorem setFn_hub (f : Fn) (x : FnState) : (setFn s f x).hub = s.hub := rfl
@[simp] theorem setFn_flash (f : Fn) (x : FnState) : (setFn s f x).flash = s.flash := rfl
@[simp] theorem setFn_hbm (f : Fn) (x : FnState) : (setFn s f x).hbm = s.hbm := rfl
@[simp] theorem setFn_entropy (f : Fn) (x : FnState) : (setFn s f x).entropy = s.entropy := rfl
@[simp] theorem setFn_caravans (f : Fn) (x : FnState) : (setFn s f x).caravans = s.caravans := rfl
@[simp] theorem setFn_rel (f : Fn) (x : FnState) : (setFn s f x).rel = s.rel := rfl
@[simp] theorem setFn_islands (f : Fn) (x : FnState) : (setFn s f x).islands = s.islands := rfl
@[simp] theorem setFn_power (f : Fn) (x : FnState) : (setFn s f x).power = s.power := rfl
@[simp] theorem setFn_pins (f : Fn) (x : FnState) : (setFn s f x).pins = s.pins := rfl
@[simp] theorem setFn_i3c (f : Fn) (x : FnState) : (setFn s f x).i3c = s.i3c := rfl
@[simp] theorem setFn_porush (f : Fn) (x : FnState) : (setFn s f x).porush = s.porush := rfl
@[simp] theorem setFn_outputs (f : Fn) (x : FnState) : (setFn s f x).outputs = s.outputs := rfl
@[simp] theorem setFn_crossings (f : Fn) (x : FnState) : (setFn s f x).crossings = s.crossings := rfl
@[simp] theorem setFn_freeCount (f : Fn) (x : FnState) : (setFn s f x).freeCount = s.freeCount := rfl
@[simp] theorem setSq_pending (f : Fn) (n : Nat) (x : Sq) : (setSq s f n x).pending = s.pending := rfl
@[simp] theorem setSq_parts (f : Fn) (n : Nat) (x : Sq) : (setSq s f n x).parts = s.parts := rfl
@[simp] theorem setSq_keeper (f : Fn) (n : Nat) (x : Sq) : (setSq s f n x).keeper = s.keeper := rfl
@[simp] theorem setSq_hub (f : Fn) (n : Nat) (x : Sq) : (setSq s f n x).hub = s.hub := rfl
@[simp] theorem setSq_flash (f : Fn) (n : Nat) (x : Sq) : (setSq s f n x).flash = s.flash := rfl
@[simp] theorem setSq_hbm (f : Fn) (n : Nat) (x : Sq) : (setSq s f n x).hbm = s.hbm := rfl
@[simp] theorem setSq_entropy (f : Fn) (n : Nat) (x : Sq) : (setSq s f n x).entropy = s.entropy := rfl
@[simp] theorem setSq_caravans (f : Fn) (n : Nat) (x : Sq) : (setSq s f n x).caravans = s.caravans := rfl
@[simp] theorem setSq_rel (f : Fn) (n : Nat) (x : Sq) : (setSq s f n x).rel = s.rel := rfl
@[simp] theorem setSq_islands (f : Fn) (n : Nat) (x : Sq) : (setSq s f n x).islands = s.islands := rfl
@[simp] theorem setSq_power (f : Fn) (n : Nat) (x : Sq) : (setSq s f n x).power = s.power := rfl
@[simp] theorem setSq_pins (f : Fn) (n : Nat) (x : Sq) : (setSq s f n x).pins = s.pins := rfl
@[simp] theorem setSq_i3c (f : Fn) (n : Nat) (x : Sq) : (setSq s f n x).i3c = s.i3c := rfl
@[simp] theorem setSq_porush (f : Fn) (n : Nat) (x : Sq) : (setSq s f n x).porush = s.porush := rfl
@[simp] theorem setSq_outputs (f : Fn) (n : Nat) (x : Sq) : (setSq s f n x).outputs = s.outputs := rfl
@[simp] theorem setSq_crossings (f : Fn) (n : Nat) (x : Sq) : (setSq s f n x).crossings = s.crossings := rfl
@[simp] theorem setSq_freeCount (f : Fn) (n : Nat) (x : Sq) : (setSq s f n x).freeCount = s.freeCount := rfl
@[simp] theorem setCq_pending (f : Fn) (n : Nat) (x : Cq) : (setCq s f n x).pending = s.pending := rfl
@[simp] theorem setCq_parts (f : Fn) (n : Nat) (x : Cq) : (setCq s f n x).parts = s.parts := rfl
@[simp] theorem setCq_keeper (f : Fn) (n : Nat) (x : Cq) : (setCq s f n x).keeper = s.keeper := rfl
@[simp] theorem setCq_hub (f : Fn) (n : Nat) (x : Cq) : (setCq s f n x).hub = s.hub := rfl
@[simp] theorem setCq_flash (f : Fn) (n : Nat) (x : Cq) : (setCq s f n x).flash = s.flash := rfl
@[simp] theorem setCq_hbm (f : Fn) (n : Nat) (x : Cq) : (setCq s f n x).hbm = s.hbm := rfl
@[simp] theorem setCq_entropy (f : Fn) (n : Nat) (x : Cq) : (setCq s f n x).entropy = s.entropy := rfl
@[simp] theorem setCq_caravans (f : Fn) (n : Nat) (x : Cq) : (setCq s f n x).caravans = s.caravans := rfl
@[simp] theorem setCq_rel (f : Fn) (n : Nat) (x : Cq) : (setCq s f n x).rel = s.rel := rfl
@[simp] theorem setCq_islands (f : Fn) (n : Nat) (x : Cq) : (setCq s f n x).islands = s.islands := rfl
@[simp] theorem setCq_power (f : Fn) (n : Nat) (x : Cq) : (setCq s f n x).power = s.power := rfl
@[simp] theorem setCq_pins (f : Fn) (n : Nat) (x : Cq) : (setCq s f n x).pins = s.pins := rfl
@[simp] theorem setCq_i3c (f : Fn) (n : Nat) (x : Cq) : (setCq s f n x).i3c = s.i3c := rfl
@[simp] theorem setCq_porush (f : Fn) (n : Nat) (x : Cq) : (setCq s f n x).porush = s.porush := rfl
@[simp] theorem setCq_outputs (f : Fn) (n : Nat) (x : Cq) : (setCq s f n x).outputs = s.outputs := rfl
@[simp] theorem setCq_crossings (f : Fn) (n : Nat) (x : Cq) : (setCq s f n x).crossings = s.crossings := rfl
@[simp] theorem setCq_freeCount (f : Fn) (n : Nat) (x : Cq) : (setCq s f n x).freeCount = s.freeCount := rfl
@[simp] theorem setSlot_pending (f : Fn) (n : Nat) (x : Slot) : (setSlot s f n x).pending = s.pending := rfl
@[simp] theorem setSlot_parts (f : Fn) (n : Nat) (x : Slot) : (setSlot s f n x).parts = s.parts := rfl
@[simp] theorem setSlot_keeper (f : Fn) (n : Nat) (x : Slot) : (setSlot s f n x).keeper = s.keeper := rfl
@[simp] theorem setSlot_hub (f : Fn) (n : Nat) (x : Slot) : (setSlot s f n x).hub = s.hub := rfl
@[simp] theorem setSlot_flash (f : Fn) (n : Nat) (x : Slot) : (setSlot s f n x).flash = s.flash := rfl
@[simp] theorem setSlot_hbm (f : Fn) (n : Nat) (x : Slot) : (setSlot s f n x).hbm = s.hbm := rfl
@[simp] theorem setSlot_entropy (f : Fn) (n : Nat) (x : Slot) : (setSlot s f n x).entropy = s.entropy := rfl
@[simp] theorem setSlot_caravans (f : Fn) (n : Nat) (x : Slot) : (setSlot s f n x).caravans = s.caravans := rfl
@[simp] theorem setSlot_rel (f : Fn) (n : Nat) (x : Slot) : (setSlot s f n x).rel = s.rel := rfl
@[simp] theorem setSlot_islands (f : Fn) (n : Nat) (x : Slot) : (setSlot s f n x).islands = s.islands := rfl
@[simp] theorem setSlot_power (f : Fn) (n : Nat) (x : Slot) : (setSlot s f n x).power = s.power := rfl
@[simp] theorem setSlot_pins (f : Fn) (n : Nat) (x : Slot) : (setSlot s f n x).pins = s.pins := rfl
@[simp] theorem setSlot_i3c (f : Fn) (n : Nat) (x : Slot) : (setSlot s f n x).i3c = s.i3c := rfl
@[simp] theorem setSlot_porush (f : Fn) (n : Nat) (x : Slot) : (setSlot s f n x).porush = s.porush := rfl
@[simp] theorem setSlot_outputs (f : Fn) (n : Nat) (x : Slot) : (setSlot s f n x).outputs = s.outputs := rfl
@[simp] theorem setSlot_crossings (f : Fn) (n : Nat) (x : Slot) : (setSlot s f n x).crossings = s.crossings := rfl
@[simp] theorem setSlot_freeCount (f : Fn) (n : Nat) (x : Slot) : (setSlot s f n x).freeCount = s.freeCount := rfl
@[simp] theorem setPart_pending (n : Nat) (x : Partition) : (setPart s n x).pending = s.pending := rfl
@[simp] theorem setPart_cmd (n : Nat) (x : Partition) : (setPart s n x).cmd = s.cmd := rfl
@[simp] theorem setPart_keeper (n : Nat) (x : Partition) : (setPart s n x).keeper = s.keeper := rfl
@[simp] theorem setPart_hub (n : Nat) (x : Partition) : (setPart s n x).hub = s.hub := rfl
@[simp] theorem setPart_flash (n : Nat) (x : Partition) : (setPart s n x).flash = s.flash := rfl
@[simp] theorem setPart_hbm (n : Nat) (x : Partition) : (setPart s n x).hbm = s.hbm := rfl
@[simp] theorem setPart_entropy (n : Nat) (x : Partition) : (setPart s n x).entropy = s.entropy := rfl
@[simp] theorem setPart_caravans (n : Nat) (x : Partition) : (setPart s n x).caravans = s.caravans := rfl
@[simp] theorem setPart_rel (n : Nat) (x : Partition) : (setPart s n x).rel = s.rel := rfl
@[simp] theorem setPart_islands (n : Nat) (x : Partition) : (setPart s n x).islands = s.islands := rfl
@[simp] theorem setPart_power (n : Nat) (x : Partition) : (setPart s n x).power = s.power := rfl
@[simp] theorem setPart_pins (n : Nat) (x : Partition) : (setPart s n x).pins = s.pins := rfl
@[simp] theorem setPart_i3c (n : Nat) (x : Partition) : (setPart s n x).i3c = s.i3c := rfl
@[simp] theorem setPart_porush (n : Nat) (x : Partition) : (setPart s n x).porush = s.porush := rfl
@[simp] theorem setPart_outputs (n : Nat) (x : Partition) : (setPart s n x).outputs = s.outputs := rfl
@[simp] theorem setPart_crossings (n : Nat) (x : Partition) : (setPart s n x).crossings = s.crossings := rfl
@[simp] theorem setPart_freeCount (n : Nat) (x : Partition) : (setPart s n x).freeCount = s.freeCount := rfl
@[simp] theorem setRound_pending (n : Nat) (x : Round) : (setRound s n x).pending = s.pending := rfl
@[simp] theorem setRound_cmd (n : Nat) (x : Round) : (setRound s n x).cmd = s.cmd := rfl
@[simp] theorem setRound_keeper (n : Nat) (x : Round) : (setRound s n x).keeper = s.keeper := rfl
@[simp] theorem setRound_hub (n : Nat) (x : Round) : (setRound s n x).hub = s.hub := rfl
@[simp] theorem setRound_flash (n : Nat) (x : Round) : (setRound s n x).flash = s.flash := rfl
@[simp] theorem setRound_hbm (n : Nat) (x : Round) : (setRound s n x).hbm = s.hbm := rfl
@[simp] theorem setRound_entropy (n : Nat) (x : Round) : (setRound s n x).entropy = s.entropy := rfl
@[simp] theorem setRound_caravans (n : Nat) (x : Round) : (setRound s n x).caravans = s.caravans := rfl
@[simp] theorem setRound_rel (n : Nat) (x : Round) : (setRound s n x).rel = s.rel := rfl
@[simp] theorem setRound_islands (n : Nat) (x : Round) : (setRound s n x).islands = s.islands := rfl
@[simp] theorem setRound_power (n : Nat) (x : Round) : (setRound s n x).power = s.power := rfl
@[simp] theorem setRound_pins (n : Nat) (x : Round) : (setRound s n x).pins = s.pins := rfl
@[simp] theorem setRound_i3c (n : Nat) (x : Round) : (setRound s n x).i3c = s.i3c := rfl
@[simp] theorem setRound_porush (n : Nat) (x : Round) : (setRound s n x).porush = s.porush := rfl
@[simp] theorem setRound_outputs (n : Nat) (x : Round) : (setRound s n x).outputs = s.outputs := rfl
@[simp] theorem setRound_crossings (n : Nat) (x : Round) : (setRound s n x).crossings = s.crossings := rfl
@[simp] theorem setRound_freeCount (n : Nat) (x : Round) : (setRound s n x).freeCount = s.freeCount := rfl
@[simp] theorem setCv_pending (n : Nat) (x : Caravan) : (setCv s n x).pending = s.pending := rfl
@[simp] theorem setCv_cmd (n : Nat) (x : Caravan) : (setCv s n x).cmd = s.cmd := rfl
@[simp] theorem setCv_parts (n : Nat) (x : Caravan) : (setCv s n x).parts = s.parts := rfl
@[simp] theorem setCv_keeper (n : Nat) (x : Caravan) : (setCv s n x).keeper = s.keeper := rfl
@[simp] theorem setCv_hub (n : Nat) (x : Caravan) : (setCv s n x).hub = s.hub := rfl
@[simp] theorem setCv_flash (n : Nat) (x : Caravan) : (setCv s n x).flash = s.flash := rfl
@[simp] theorem setCv_hbm (n : Nat) (x : Caravan) : (setCv s n x).hbm = s.hbm := rfl
@[simp] theorem setCv_entropy (n : Nat) (x : Caravan) : (setCv s n x).entropy = s.entropy := rfl
@[simp] theorem setCv_rel (n : Nat) (x : Caravan) : (setCv s n x).rel = s.rel := rfl
@[simp] theorem setCv_islands (n : Nat) (x : Caravan) : (setCv s n x).islands = s.islands := rfl
@[simp] theorem setCv_power (n : Nat) (x : Caravan) : (setCv s n x).power = s.power := rfl
@[simp] theorem setCv_pins (n : Nat) (x : Caravan) : (setCv s n x).pins = s.pins := rfl
@[simp] theorem setCv_i3c (n : Nat) (x : Caravan) : (setCv s n x).i3c = s.i3c := rfl
@[simp] theorem setCv_porush (n : Nat) (x : Caravan) : (setCv s n x).porush = s.porush := rfl
@[simp] theorem setCv_outputs (n : Nat) (x : Caravan) : (setCv s n x).outputs = s.outputs := rfl
@[simp] theorem setCv_crossings (n : Nat) (x : Caravan) : (setCv s n x).crossings = s.crossings := rfl
@[simp] theorem setCv_freeCount (n : Nat) (x : Caravan) : (setCv s n x).freeCount = s.freeCount := rfl
@[simp] theorem setWork_pending (n : Nat) (x : Work) : (setWork s n x).pending = s.pending := rfl
@[simp] theorem setWork_cmd (n : Nat) (x : Work) : (setWork s n x).cmd = s.cmd := rfl
@[simp] theorem setWork_parts (n : Nat) (x : Work) : (setWork s n x).parts = s.parts := rfl
@[simp] theorem setWork_keeper (n : Nat) (x : Work) : (setWork s n x).keeper = s.keeper := rfl
@[simp] theorem setWork_hub (n : Nat) (x : Work) : (setWork s n x).hub = s.hub := rfl
@[simp] theorem setWork_flash (n : Nat) (x : Work) : (setWork s n x).flash = s.flash := rfl
@[simp] theorem setWork_hbm (n : Nat) (x : Work) : (setWork s n x).hbm = s.hbm := rfl
@[simp] theorem setWork_entropy (n : Nat) (x : Work) : (setWork s n x).entropy = s.entropy := rfl
@[simp] theorem setWork_rel (n : Nat) (x : Work) : (setWork s n x).rel = s.rel := rfl
@[simp] theorem setWork_islands (n : Nat) (x : Work) : (setWork s n x).islands = s.islands := rfl
@[simp] theorem setWork_power (n : Nat) (x : Work) : (setWork s n x).power = s.power := rfl
@[simp] theorem setWork_pins (n : Nat) (x : Work) : (setWork s n x).pins = s.pins := rfl
@[simp] theorem setWork_i3c (n : Nat) (x : Work) : (setWork s n x).i3c = s.i3c := rfl
@[simp] theorem setWork_porush (n : Nat) (x : Work) : (setWork s n x).porush = s.porush := rfl
@[simp] theorem setWork_outputs (n : Nat) (x : Work) : (setWork s n x).outputs = s.outputs := rfl
@[simp] theorem setWork_crossings (n : Nat) (x : Work) : (setWork s n x).crossings = s.crossings := rfl
@[simp] theorem setWork_freeCount (n : Nat) (x : Work) : (setWork s n x).freeCount = s.freeCount := rfl
@[simp] theorem setBank_pending (n : Nat) (x : Bank) : (setBank s n x).pending = s.pending := rfl
@[simp] theorem setBank_cmd (n : Nat) (x : Bank) : (setBank s n x).cmd = s.cmd := rfl
@[simp] theorem setBank_parts (n : Nat) (x : Bank) : (setBank s n x).parts = s.parts := rfl
@[simp] theorem setBank_keeper (n : Nat) (x : Bank) : (setBank s n x).keeper = s.keeper := rfl
@[simp] theorem setBank_hub (n : Nat) (x : Bank) : (setBank s n x).hub = s.hub := rfl
@[simp] theorem setBank_flash (n : Nat) (x : Bank) : (setBank s n x).flash = s.flash := rfl
@[simp] theorem setBank_hbm (n : Nat) (x : Bank) : (setBank s n x).hbm = s.hbm := rfl
@[simp] theorem setBank_caravans (n : Nat) (x : Bank) : (setBank s n x).caravans = s.caravans := rfl
@[simp] theorem setBank_rel (n : Nat) (x : Bank) : (setBank s n x).rel = s.rel := rfl
@[simp] theorem setBank_islands (n : Nat) (x : Bank) : (setBank s n x).islands = s.islands := rfl
@[simp] theorem setBank_power (n : Nat) (x : Bank) : (setBank s n x).power = s.power := rfl
@[simp] theorem setBank_pins (n : Nat) (x : Bank) : (setBank s n x).pins = s.pins := rfl
@[simp] theorem setBank_i3c (n : Nat) (x : Bank) : (setBank s n x).i3c = s.i3c := rfl
@[simp] theorem setBank_porush (n : Nat) (x : Bank) : (setBank s n x).porush = s.porush := rfl
@[simp] theorem setBank_outputs (n : Nat) (x : Bank) : (setBank s n x).outputs = s.outputs := rfl
@[simp] theorem setBank_crossings (n : Nat) (x : Bank) : (setBank s n x).crossings = s.crossings := rfl
@[simp] theorem setBank_freeCount (n : Nat) (x : Bank) : (setBank s n x).freeCount = s.freeCount := rfl
@[simp] theorem setInst_pending (n : Nat) (x : Drbg) : (setInst s n x).pending = s.pending := rfl
@[simp] theorem setInst_cmd (n : Nat) (x : Drbg) : (setInst s n x).cmd = s.cmd := rfl
@[simp] theorem setInst_parts (n : Nat) (x : Drbg) : (setInst s n x).parts = s.parts := rfl
@[simp] theorem setInst_keeper (n : Nat) (x : Drbg) : (setInst s n x).keeper = s.keeper := rfl
@[simp] theorem setInst_hub (n : Nat) (x : Drbg) : (setInst s n x).hub = s.hub := rfl
@[simp] theorem setInst_flash (n : Nat) (x : Drbg) : (setInst s n x).flash = s.flash := rfl
@[simp] theorem setInst_hbm (n : Nat) (x : Drbg) : (setInst s n x).hbm = s.hbm := rfl
@[simp] theorem setInst_caravans (n : Nat) (x : Drbg) : (setInst s n x).caravans = s.caravans := rfl
@[simp] theorem setInst_rel (n : Nat) (x : Drbg) : (setInst s n x).rel = s.rel := rfl
@[simp] theorem setInst_islands (n : Nat) (x : Drbg) : (setInst s n x).islands = s.islands := rfl
@[simp] theorem setInst_power (n : Nat) (x : Drbg) : (setInst s n x).power = s.power := rfl
@[simp] theorem setInst_pins (n : Nat) (x : Drbg) : (setInst s n x).pins = s.pins := rfl
@[simp] theorem setInst_i3c (n : Nat) (x : Drbg) : (setInst s n x).i3c = s.i3c := rfl
@[simp] theorem setInst_porush (n : Nat) (x : Drbg) : (setInst s n x).porush = s.porush := rfl
@[simp] theorem setInst_outputs (n : Nat) (x : Drbg) : (setInst s n x).outputs = s.outputs := rfl
@[simp] theorem setInst_crossings (n : Nat) (x : Drbg) : (setInst s n x).crossings = s.crossings := rfl
@[simp] theorem setInst_freeCount (n : Nat) (x : Drbg) : (setInst s n x).freeCount = s.freeCount := rfl
@[simp] theorem setLink_pending (n : Nat) (x : Link) : (setLink s n x).pending = s.pending := rfl
@[simp] theorem setLink_cmd (n : Nat) (x : Link) : (setLink s n x).cmd = s.cmd := rfl
@[simp] theorem setLink_parts (n : Nat) (x : Link) : (setLink s n x).parts = s.parts := rfl
@[simp] theorem setLink_keeper (n : Nat) (x : Link) : (setLink s n x).keeper = s.keeper := rfl
@[simp] theorem setLink_hub (n : Nat) (x : Link) : (setLink s n x).hub = s.hub := rfl
@[simp] theorem setLink_flash (n : Nat) (x : Link) : (setLink s n x).flash = s.flash := rfl
@[simp] theorem setLink_hbm (n : Nat) (x : Link) : (setLink s n x).hbm = s.hbm := rfl
@[simp] theorem setLink_entropy (n : Nat) (x : Link) : (setLink s n x).entropy = s.entropy := rfl
@[simp] theorem setLink_caravans (n : Nat) (x : Link) : (setLink s n x).caravans = s.caravans := rfl
@[simp] theorem setLink_rel (n : Nat) (x : Link) : (setLink s n x).rel = s.rel := rfl
@[simp] theorem setLink_islands (n : Nat) (x : Link) : (setLink s n x).islands = s.islands := rfl
@[simp] theorem setLink_power (n : Nat) (x : Link) : (setLink s n x).power = s.power := rfl
@[simp] theorem setLink_pins (n : Nat) (x : Link) : (setLink s n x).pins = s.pins := rfl
@[simp] theorem setLink_i3c (n : Nat) (x : Link) : (setLink s n x).i3c = s.i3c := rfl
@[simp] theorem setLink_outputs (n : Nat) (x : Link) : (setLink s n x).outputs = s.outputs := rfl
@[simp] theorem setLink_crossings (n : Nat) (x : Link) : (setLink s n x).crossings = s.crossings := rfl
@[simp] theorem setLink_freeCount (n : Nat) (x : Link) : (setLink s n x).freeCount = s.freeCount := rfl
@[simp] theorem setFw_pending (n : Nat) (x : FwGroup) : (setFw s n x).pending = s.pending := rfl
@[simp] theorem setFw_cmd (n : Nat) (x : FwGroup) : (setFw s n x).cmd = s.cmd := rfl
@[simp] theorem setFw_parts (n : Nat) (x : FwGroup) : (setFw s n x).parts = s.parts := rfl
@[simp] theorem setFw_keeper (n : Nat) (x : FwGroup) : (setFw s n x).keeper = s.keeper := rfl
@[simp] theorem setFw_flash (n : Nat) (x : FwGroup) : (setFw s n x).flash = s.flash := rfl
@[simp] theorem setFw_hbm (n : Nat) (x : FwGroup) : (setFw s n x).hbm = s.hbm := rfl
@[simp] theorem setFw_entropy (n : Nat) (x : FwGroup) : (setFw s n x).entropy = s.entropy := rfl
@[simp] theorem setFw_caravans (n : Nat) (x : FwGroup) : (setFw s n x).caravans = s.caravans := rfl
@[simp] theorem setFw_rel (n : Nat) (x : FwGroup) : (setFw s n x).rel = s.rel := rfl
@[simp] theorem setFw_islands (n : Nat) (x : FwGroup) : (setFw s n x).islands = s.islands := rfl
@[simp] theorem setFw_power (n : Nat) (x : FwGroup) : (setFw s n x).power = s.power := rfl
@[simp] theorem setFw_pins (n : Nat) (x : FwGroup) : (setFw s n x).pins = s.pins := rfl
@[simp] theorem setFw_i3c (n : Nat) (x : FwGroup) : (setFw s n x).i3c = s.i3c := rfl
@[simp] theorem setFw_porush (n : Nat) (x : FwGroup) : (setFw s n x).porush = s.porush := rfl
@[simp] theorem setFw_outputs (n : Nat) (x : FwGroup) : (setFw s n x).outputs = s.outputs := rfl
@[simp] theorem setFw_crossings (n : Nat) (x : FwGroup) : (setFw s n x).crossings = s.crossings := rfl
@[simp] theorem setFw_freeCount (n : Nat) (x : FwGroup) : (setFw s n x).freeCount = s.freeCount := rfl
@[simp] theorem setGran_pending (g : Nat × Nat) (x : GranState) : (setGran s g x).pending = s.pending := rfl
@[simp] theorem setGran_cmd (g : Nat × Nat) (x : GranState) : (setGran s g x).cmd = s.cmd := rfl
@[simp] theorem setGran_parts (g : Nat × Nat) (x : GranState) : (setGran s g x).parts = s.parts := rfl
@[simp] theorem setGran_keeper (g : Nat × Nat) (x : GranState) : (setGran s g x).keeper = s.keeper := rfl
@[simp] theorem setGran_hub (g : Nat × Nat) (x : GranState) : (setGran s g x).hub = s.hub := rfl
@[simp] theorem setGran_flash (g : Nat × Nat) (x : GranState) : (setGran s g x).flash = s.flash := rfl
@[simp] theorem setGran_entropy (g : Nat × Nat) (x : GranState) : (setGran s g x).entropy = s.entropy := rfl
@[simp] theorem setGran_caravans (g : Nat × Nat) (x : GranState) : (setGran s g x).caravans = s.caravans := rfl
@[simp] theorem setGran_rel (g : Nat × Nat) (x : GranState) : (setGran s g x).rel = s.rel := rfl
@[simp] theorem setGran_islands (g : Nat × Nat) (x : GranState) : (setGran s g x).islands = s.islands := rfl
@[simp] theorem setGran_power (g : Nat × Nat) (x : GranState) : (setGran s g x).power = s.power := rfl
@[simp] theorem setGran_pins (g : Nat × Nat) (x : GranState) : (setGran s g x).pins = s.pins := rfl
@[simp] theorem setGran_i3c (g : Nat × Nat) (x : GranState) : (setGran s g x).i3c = s.i3c := rfl
@[simp] theorem setGran_porush (g : Nat × Nat) (x : GranState) : (setGran s g x).porush = s.porush := rfl
@[simp] theorem setGran_outputs (g : Nat × Nat) (x : GranState) : (setGran s g x).outputs = s.outputs := rfl
@[simp] theorem setGran_crossings (g : Nat × Nat) (x : GranState) : (setGran s g x).crossings = s.crossings := rfl
@[simp] theorem setGran_freeCount (g : Nat × Nat) (x : GranState) : (setGran s g x).freeCount = s.freeCount := rfl
@[simp] theorem emit_pending (o : Output) : (emit s o).pending = s.pending := rfl
@[simp] theorem emit_cmd (o : Output) : (emit s o).cmd = s.cmd := rfl
@[simp] theorem emit_parts (o : Output) : (emit s o).parts = s.parts := rfl
@[simp] theorem emit_keeper (o : Output) : (emit s o).keeper = s.keeper := rfl
@[simp] theorem emit_hub (o : Output) : (emit s o).hub = s.hub := rfl
@[simp] theorem emit_flash (o : Output) : (emit s o).flash = s.flash := rfl
@[simp] theorem emit_hbm (o : Output) : (emit s o).hbm = s.hbm := rfl
@[simp] theorem emit_entropy (o : Output) : (emit s o).entropy = s.entropy := rfl
@[simp] theorem emit_caravans (o : Output) : (emit s o).caravans = s.caravans := rfl
@[simp] theorem emit_rel (o : Output) : (emit s o).rel = s.rel := rfl
@[simp] theorem emit_islands (o : Output) : (emit s o).islands = s.islands := rfl
@[simp] theorem emit_power (o : Output) : (emit s o).power = s.power := rfl
@[simp] theorem emit_pins (o : Output) : (emit s o).pins = s.pins := rfl
@[simp] theorem emit_i3c (o : Output) : (emit s o).i3c = s.i3c := rfl
@[simp] theorem emit_porush (o : Output) : (emit s o).porush = s.porush := rfl
@[simp] theorem emit_freeCount (o : Output) : (emit s o).freeCount = s.freeCount := rfl
@[simp] theorem bumpFree_pending : (bumpFree s).pending = s.pending := rfl
@[simp] theorem bumpFree_cmd : (bumpFree s).cmd = s.cmd := rfl
@[simp] theorem bumpFree_parts : (bumpFree s).parts = s.parts := rfl
@[simp] theorem bumpFree_keeper : (bumpFree s).keeper = s.keeper := rfl
@[simp] theorem bumpFree_hub : (bumpFree s).hub = s.hub := rfl
@[simp] theorem bumpFree_flash : (bumpFree s).flash = s.flash := rfl
@[simp] theorem bumpFree_hbm : (bumpFree s).hbm = s.hbm := rfl
@[simp] theorem bumpFree_entropy : (bumpFree s).entropy = s.entropy := rfl
@[simp] theorem bumpFree_caravans : (bumpFree s).caravans = s.caravans := rfl
@[simp] theorem bumpFree_rel : (bumpFree s).rel = s.rel := rfl
@[simp] theorem bumpFree_islands : (bumpFree s).islands = s.islands := rfl
@[simp] theorem bumpFree_power : (bumpFree s).power = s.power := rfl
@[simp] theorem bumpFree_pins : (bumpFree s).pins = s.pins := rfl
@[simp] theorem bumpFree_i3c : (bumpFree s).i3c = s.i3c := rfl
@[simp] theorem bumpFree_porush : (bumpFree s).porush = s.porush := rfl
@[simp] theorem bumpFree_outputs : (bumpFree s).outputs = s.outputs := rfl
@[simp] theorem bumpFree_crossings : (bumpFree s).crossings = s.crossings := rfl
@[simp] theorem updTaken_pending (t : Taken) : (updTaken s t).pending = s.pending := rfl
@[simp] theorem updTaken_parts (t : Taken) : (updTaken s t).parts = s.parts := rfl
@[simp] theorem updTaken_keeper (t : Taken) : (updTaken s t).keeper = s.keeper := rfl
@[simp] theorem updTaken_hub (t : Taken) : (updTaken s t).hub = s.hub := rfl
@[simp] theorem updTaken_flash (t : Taken) : (updTaken s t).flash = s.flash := rfl
@[simp] theorem updTaken_hbm (t : Taken) : (updTaken s t).hbm = s.hbm := rfl
@[simp] theorem updTaken_entropy (t : Taken) : (updTaken s t).entropy = s.entropy := rfl
@[simp] theorem updTaken_caravans (t : Taken) : (updTaken s t).caravans = s.caravans := rfl
@[simp] theorem updTaken_rel (t : Taken) : (updTaken s t).rel = s.rel := rfl
@[simp] theorem updTaken_islands (t : Taken) : (updTaken s t).islands = s.islands := rfl
@[simp] theorem updTaken_power (t : Taken) : (updTaken s t).power = s.power := rfl
@[simp] theorem updTaken_pins (t : Taken) : (updTaken s t).pins = s.pins := rfl
@[simp] theorem updTaken_i3c (t : Taken) : (updTaken s t).i3c = s.i3c := rfl
@[simp] theorem updTaken_porush (t : Taken) : (updTaken s t).porush = s.porush := rfl
@[simp] theorem updTaken_outputs (t : Taken) : (updTaken s t).outputs = s.outputs := rfl
@[simp] theorem updTaken_crossings (t : Taken) : (updTaken s t).crossings = s.crossings := rfl
@[simp] theorem updTaken_freeCount (t : Taken) : (updTaken s t).freeCount = s.freeCount := rfl
@[simp] theorem enqueueTaken_pending (t : Taken) : (enqueueTaken s t).pending = s.pending := rfl
@[simp] theorem enqueueTaken_parts (t : Taken) : (enqueueTaken s t).parts = s.parts := rfl
@[simp] theorem enqueueTaken_keeper (t : Taken) : (enqueueTaken s t).keeper = s.keeper := rfl
@[simp] theorem enqueueTaken_hub (t : Taken) : (enqueueTaken s t).hub = s.hub := rfl
@[simp] theorem enqueueTaken_flash (t : Taken) : (enqueueTaken s t).flash = s.flash := rfl
@[simp] theorem enqueueTaken_hbm (t : Taken) : (enqueueTaken s t).hbm = s.hbm := rfl
@[simp] theorem enqueueTaken_entropy (t : Taken) : (enqueueTaken s t).entropy = s.entropy := rfl
@[simp] theorem enqueueTaken_caravans (t : Taken) : (enqueueTaken s t).caravans = s.caravans := rfl
@[simp] theorem enqueueTaken_rel (t : Taken) : (enqueueTaken s t).rel = s.rel := rfl
@[simp] theorem enqueueTaken_islands (t : Taken) : (enqueueTaken s t).islands = s.islands := rfl
@[simp] theorem enqueueTaken_power (t : Taken) : (enqueueTaken s t).power = s.power := rfl
@[simp] theorem enqueueTaken_pins (t : Taken) : (enqueueTaken s t).pins = s.pins := rfl
@[simp] theorem enqueueTaken_i3c (t : Taken) : (enqueueTaken s t).i3c = s.i3c := rfl
@[simp] theorem enqueueTaken_porush (t : Taken) : (enqueueTaken s t).porush = s.porush := rfl
@[simp] theorem enqueueTaken_outputs (t : Taken) : (enqueueTaken s t).outputs = s.outputs := rfl
@[simp] theorem enqueueTaken_crossings (t : Taken) : (enqueueTaken s t).crossings = s.crossings := rfl
@[simp] theorem enqueueTaken_freeCount (t : Taken) : (enqueueTaken s t).freeCount = s.freeCount := rfl
@[simp] theorem takeOrder_pending : (takeOrder s).pending = s.pending := rfl
@[simp] theorem takeOrder_parts : (takeOrder s).parts = s.parts := rfl
@[simp] theorem takeOrder_keeper : (takeOrder s).keeper = s.keeper := rfl
@[simp] theorem takeOrder_hub : (takeOrder s).hub = s.hub := rfl
@[simp] theorem takeOrder_flash : (takeOrder s).flash = s.flash := rfl
@[simp] theorem takeOrder_hbm : (takeOrder s).hbm = s.hbm := rfl
@[simp] theorem takeOrder_entropy : (takeOrder s).entropy = s.entropy := rfl
@[simp] theorem takeOrder_caravans : (takeOrder s).caravans = s.caravans := rfl
@[simp] theorem takeOrder_rel : (takeOrder s).rel = s.rel := rfl
@[simp] theorem takeOrder_islands : (takeOrder s).islands = s.islands := rfl
@[simp] theorem takeOrder_power : (takeOrder s).power = s.power := rfl
@[simp] theorem takeOrder_pins : (takeOrder s).pins = s.pins := rfl
@[simp] theorem takeOrder_i3c : (takeOrder s).i3c = s.i3c := rfl
@[simp] theorem takeOrder_porush : (takeOrder s).porush = s.porush := rfl
@[simp] theorem takeOrder_outputs : (takeOrder s).outputs = s.outputs := rfl
@[simp] theorem takeOrder_crossings : (takeOrder s).crossings = s.crossings := rfl
@[simp] theorem takeOrder_freeCount : (takeOrder s).freeCount = s.freeCount := rfl
@[simp] theorem regate_pending : (regate s).pending = s.pending := rfl
@[simp] theorem regate_parts : (regate s).parts = s.parts := rfl
@[simp] theorem regate_keeper : (regate s).keeper = s.keeper := rfl
@[simp] theorem regate_hub : (regate s).hub = s.hub := rfl
@[simp] theorem regate_flash : (regate s).flash = s.flash := rfl
@[simp] theorem regate_hbm : (regate s).hbm = s.hbm := rfl
@[simp] theorem regate_entropy : (regate s).entropy = s.entropy := rfl
@[simp] theorem regate_caravans : (regate s).caravans = s.caravans := rfl
@[simp] theorem regate_rel : (regate s).rel = s.rel := rfl
@[simp] theorem regate_islands : (regate s).islands = s.islands := rfl
@[simp] theorem regate_power : (regate s).power = s.power := rfl
@[simp] theorem regate_pins : (regate s).pins = s.pins := rfl
@[simp] theorem regate_i3c : (regate s).i3c = s.i3c := rfl
@[simp] theorem regate_porush : (regate s).porush = s.porush := rfl
@[simp] theorem regate_outputs : (regate s).outputs = s.outputs := rfl
@[simp] theorem regate_crossings : (regate s).crossings = s.crossings := rfl
@[simp] theorem regate_freeCount : (regate s).freeCount = s.freeCount := rfl
@[simp] theorem setPort_pending (p : Port) (x : PortState) : (setPort s p x).pending = s.pending := by cases p <;> rfl
@[simp] theorem setPort_parts (p : Port) (x : PortState) : (setPort s p x).parts = s.parts := by cases p <;> rfl
@[simp] theorem setPort_keeper (p : Port) (x : PortState) : (setPort s p x).keeper = s.keeper := by cases p <;> rfl
@[simp] theorem setPort_hub (p : Port) (x : PortState) : (setPort s p x).hub = s.hub := by cases p <;> rfl
@[simp] theorem setPort_flash (p : Port) (x : PortState) : (setPort s p x).flash = s.flash := by cases p <;> rfl
@[simp] theorem setPort_hbm (p : Port) (x : PortState) : (setPort s p x).hbm = s.hbm := by cases p <;> rfl
@[simp] theorem setPort_entropy (p : Port) (x : PortState) : (setPort s p x).entropy = s.entropy := by cases p <;> rfl
@[simp] theorem setPort_caravans (p : Port) (x : PortState) : (setPort s p x).caravans = s.caravans := by cases p <;> rfl
@[simp] theorem setPort_rel (p : Port) (x : PortState) : (setPort s p x).rel = s.rel := by cases p <;> rfl
@[simp] theorem setPort_islands (p : Port) (x : PortState) : (setPort s p x).islands = s.islands := by cases p <;> rfl
@[simp] theorem setPort_power (p : Port) (x : PortState) : (setPort s p x).power = s.power := by cases p <;> rfl
@[simp] theorem setPort_pins (p : Port) (x : PortState) : (setPort s p x).pins = s.pins := by cases p <;> rfl
@[simp] theorem setPort_i3c (p : Port) (x : PortState) : (setPort s p x).i3c = s.i3c := by cases p <;> rfl
@[simp] theorem setPort_porush (p : Port) (x : PortState) : (setPort s p x).porush = s.porush := by cases p <;> rfl
@[simp] theorem setPort_outputs (p : Port) (x : PortState) : (setPort s p x).outputs = s.outputs := by cases p <;> rfl
@[simp] theorem setPort_crossings (p : Port) (x : PortState) : (setPort s p x).crossings = s.crossings := by cases p <;> rfl
@[simp] theorem setPort_freeCount (p : Port) (x : PortState) : (setPort s p x).freeCount = s.freeCount := by cases p <;> rfl
@[simp] theorem setFn_cmd_port0 (f : Fn) (x : FnState) : (setFn s f x).cmd.port0 = s.cmd.port0 := rfl
@[simp] theorem setFn_cmd_port1 (f : Fn) (x : FnState) : (setFn s f x).cmd.port1 = s.cmd.port1 := rfl
@[simp] theorem setFn_cmd_taken (f : Fn) (x : FnState) : (setFn s f x).cmd.taken = s.cmd.taken := rfl
@[simp] theorem setFn_cmd_nextOrder (f : Fn) (x : FnState) : (setFn s f x).cmd.nextOrder = s.cmd.nextOrder := rfl
@[simp] theorem setFn_cmd_sharedFree (f : Fn) (x : FnState) : (setFn s f x).cmd.sharedFree = s.cmd.sharedFree := rfl
@[simp] theorem setFn_cmd_bulkClosed (f : Fn) (x : FnState) : (setFn s f x).cmd.bulkClosed = s.cmd.bulkClosed := rfl
@[simp] theorem setFn_cmd_allClosed (f : Fn) (x : FnState) : (setFn s f x).cmd.allClosed = s.cmd.allClosed := rfl
@[simp] theorem setFn_cmd_p0SlotFree (f : Fn) (x : FnState) : (setFn s f x).cmd.p0SlotFree = s.cmd.p0SlotFree := rfl
@[simp] theorem setFn_cmd_p0OtherFree (f : Fn) (x : FnState) : (setFn s f x).cmd.p0OtherFree = s.cmd.p0OtherFree := rfl
@[simp] theorem setFn_cmd_events (f : Fn) (x : FnState) : (setFn s f x).cmd.events = s.cmd.events := rfl
@[simp] theorem setSq_cmd_port0 (f : Fn) (n : Nat) (x : Sq) : (setSq s f n x).cmd.port0 = s.cmd.port0 := rfl
@[simp] theorem setSq_cmd_port1 (f : Fn) (n : Nat) (x : Sq) : (setSq s f n x).cmd.port1 = s.cmd.port1 := rfl
@[simp] theorem setSq_cmd_taken (f : Fn) (n : Nat) (x : Sq) : (setSq s f n x).cmd.taken = s.cmd.taken := rfl
@[simp] theorem setSq_cmd_nextOrder (f : Fn) (n : Nat) (x : Sq) : (setSq s f n x).cmd.nextOrder = s.cmd.nextOrder := rfl
@[simp] theorem setSq_cmd_sharedFree (f : Fn) (n : Nat) (x : Sq) : (setSq s f n x).cmd.sharedFree = s.cmd.sharedFree := rfl
@[simp] theorem setSq_cmd_bulkClosed (f : Fn) (n : Nat) (x : Sq) : (setSq s f n x).cmd.bulkClosed = s.cmd.bulkClosed := rfl
@[simp] theorem setSq_cmd_allClosed (f : Fn) (n : Nat) (x : Sq) : (setSq s f n x).cmd.allClosed = s.cmd.allClosed := rfl
@[simp] theorem setSq_cmd_p0SlotFree (f : Fn) (n : Nat) (x : Sq) : (setSq s f n x).cmd.p0SlotFree = s.cmd.p0SlotFree := rfl
@[simp] theorem setSq_cmd_p0OtherFree (f : Fn) (n : Nat) (x : Sq) : (setSq s f n x).cmd.p0OtherFree = s.cmd.p0OtherFree := rfl
@[simp] theorem setSq_cmd_events (f : Fn) (n : Nat) (x : Sq) : (setSq s f n x).cmd.events = s.cmd.events := rfl
@[simp] theorem setCq_cmd_port0 (f : Fn) (n : Nat) (x : Cq) : (setCq s f n x).cmd.port0 = s.cmd.port0 := rfl
@[simp] theorem setCq_cmd_port1 (f : Fn) (n : Nat) (x : Cq) : (setCq s f n x).cmd.port1 = s.cmd.port1 := rfl
@[simp] theorem setCq_cmd_taken (f : Fn) (n : Nat) (x : Cq) : (setCq s f n x).cmd.taken = s.cmd.taken := rfl
@[simp] theorem setCq_cmd_nextOrder (f : Fn) (n : Nat) (x : Cq) : (setCq s f n x).cmd.nextOrder = s.cmd.nextOrder := rfl
@[simp] theorem setCq_cmd_sharedFree (f : Fn) (n : Nat) (x : Cq) : (setCq s f n x).cmd.sharedFree = s.cmd.sharedFree := rfl
@[simp] theorem setCq_cmd_bulkClosed (f : Fn) (n : Nat) (x : Cq) : (setCq s f n x).cmd.bulkClosed = s.cmd.bulkClosed := rfl
@[simp] theorem setCq_cmd_allClosed (f : Fn) (n : Nat) (x : Cq) : (setCq s f n x).cmd.allClosed = s.cmd.allClosed := rfl
@[simp] theorem setCq_cmd_p0SlotFree (f : Fn) (n : Nat) (x : Cq) : (setCq s f n x).cmd.p0SlotFree = s.cmd.p0SlotFree := rfl
@[simp] theorem setCq_cmd_p0OtherFree (f : Fn) (n : Nat) (x : Cq) : (setCq s f n x).cmd.p0OtherFree = s.cmd.p0OtherFree := rfl
@[simp] theorem setCq_cmd_events (f : Fn) (n : Nat) (x : Cq) : (setCq s f n x).cmd.events = s.cmd.events := rfl
@[simp] theorem setSlot_cmd_port0 (f : Fn) (n : Nat) (x : Slot) : (setSlot s f n x).cmd.port0 = s.cmd.port0 := rfl
@[simp] theorem setSlot_cmd_port1 (f : Fn) (n : Nat) (x : Slot) : (setSlot s f n x).cmd.port1 = s.cmd.port1 := rfl
@[simp] theorem setSlot_cmd_taken (f : Fn) (n : Nat) (x : Slot) : (setSlot s f n x).cmd.taken = s.cmd.taken := rfl
@[simp] theorem setSlot_cmd_nextOrder (f : Fn) (n : Nat) (x : Slot) : (setSlot s f n x).cmd.nextOrder = s.cmd.nextOrder := rfl
@[simp] theorem setSlot_cmd_sharedFree (f : Fn) (n : Nat) (x : Slot) : (setSlot s f n x).cmd.sharedFree = s.cmd.sharedFree := rfl
@[simp] theorem setSlot_cmd_bulkClosed (f : Fn) (n : Nat) (x : Slot) : (setSlot s f n x).cmd.bulkClosed = s.cmd.bulkClosed := rfl
@[simp] theorem setSlot_cmd_allClosed (f : Fn) (n : Nat) (x : Slot) : (setSlot s f n x).cmd.allClosed = s.cmd.allClosed := rfl
@[simp] theorem setSlot_cmd_p0SlotFree (f : Fn) (n : Nat) (x : Slot) : (setSlot s f n x).cmd.p0SlotFree = s.cmd.p0SlotFree := rfl
@[simp] theorem setSlot_cmd_p0OtherFree (f : Fn) (n : Nat) (x : Slot) : (setSlot s f n x).cmd.p0OtherFree = s.cmd.p0OtherFree := rfl
@[simp] theorem setSlot_cmd_events (f : Fn) (n : Nat) (x : Slot) : (setSlot s f n x).cmd.events = s.cmd.events := rfl
@[simp] theorem setPort_cmd_fns (p : Port) (x : PortState) : (setPort s p x).cmd.fns = s.cmd.fns := by cases p <;> rfl
@[simp] theorem setPort_cmd_taken (p : Port) (x : PortState) : (setPort s p x).cmd.taken = s.cmd.taken := by cases p <;> rfl
@[simp] theorem setPort_cmd_nextOrder (p : Port) (x : PortState) : (setPort s p x).cmd.nextOrder = s.cmd.nextOrder := by cases p <;> rfl
@[simp] theorem setPort_cmd_sharedFree (p : Port) (x : PortState) : (setPort s p x).cmd.sharedFree = s.cmd.sharedFree := by cases p <;> rfl
@[simp] theorem setPort_cmd_bulkClosed (p : Port) (x : PortState) : (setPort s p x).cmd.bulkClosed = s.cmd.bulkClosed := by cases p <;> rfl
@[simp] theorem setPort_cmd_allClosed (p : Port) (x : PortState) : (setPort s p x).cmd.allClosed = s.cmd.allClosed := by cases p <;> rfl
@[simp] theorem setPort_cmd_p0SlotFree (p : Port) (x : PortState) : (setPort s p x).cmd.p0SlotFree = s.cmd.p0SlotFree := by cases p <;> rfl
@[simp] theorem setPort_cmd_p0OtherFree (p : Port) (x : PortState) : (setPort s p x).cmd.p0OtherFree = s.cmd.p0OtherFree := by cases p <;> rfl
@[simp] theorem setPort_cmd_events (p : Port) (x : PortState) : (setPort s p x).cmd.events = s.cmd.events := by cases p <;> rfl
@[simp] theorem regate_cmd_port0 : (regate s).cmd.port0 = s.cmd.port0 := rfl
@[simp] theorem regate_cmd_port1 : (regate s).cmd.port1 = s.cmd.port1 := rfl
@[simp] theorem regate_cmd_fns : (regate s).cmd.fns = s.cmd.fns := rfl
@[simp] theorem regate_cmd_taken : (regate s).cmd.taken = s.cmd.taken := rfl
@[simp] theorem regate_cmd_nextOrder : (regate s).cmd.nextOrder = s.cmd.nextOrder := rfl
@[simp] theorem regate_cmd_sharedFree : (regate s).cmd.sharedFree = s.cmd.sharedFree := rfl
@[simp] theorem regate_cmd_p0SlotFree : (regate s).cmd.p0SlotFree = s.cmd.p0SlotFree := rfl
@[simp] theorem regate_cmd_p0OtherFree : (regate s).cmd.p0OtherFree = s.cmd.p0OtherFree := rfl
@[simp] theorem regate_cmd_events : (regate s).cmd.events = s.cmd.events := rfl

end Fields

section Reading

variable (s : State)

@[simp] theorem getFn_setFn_self (n : Fn) (x : FnState) : getFn (setFn s n x) n = x := by simp [getFn, setFn]
theorem getFn_setFn_ne {n m : Fn} (x : FnState) (h : m ≠ n) : getFn (setFn s n x) m = getFn s m := by
  simp [getFn, setFn, Table.getD_put_ne _ _ _ h]
@[simp] theorem getPart_setPart_self (n : Nat) (x : Partition) : getPart (setPart s n x) n = x := by simp [getPart, setPart]
theorem getPart_setPart_ne {n m : Nat} (x : Partition) (h : m ≠ n) : getPart (setPart s n x) m = getPart s m := by
  simp [getPart, setPart, Table.getD_put_ne _ _ _ h]
@[simp] theorem getCv_setCv_self (n : Nat) (x : Caravan) : getCv (setCv s n x) n = x := by simp [getCv, setCv]
theorem getCv_setCv_ne {n m : Nat} (x : Caravan) (h : m ≠ n) : getCv (setCv s n x) m = getCv s m := by
  simp [getCv, setCv, Table.getD_put_ne _ _ _ h]
@[simp] theorem getBank_setBank_self (n : Nat) (x : Bank) : getBank (setBank s n x) n = x := by simp [getBank, setBank]
theorem getBank_setBank_ne {n m : Nat} (x : Bank) (h : m ≠ n) : getBank (setBank s n x) m = getBank s m := by
  simp [getBank, setBank, Table.getD_put_ne _ _ _ h]
@[simp] theorem getInst_setInst_self (n : Nat) (x : Drbg) : getInst (setInst s n x) n = x := by simp [getInst, setInst]
theorem getInst_setInst_ne {n m : Nat} (x : Drbg) (h : m ≠ n) : getInst (setInst s n x) m = getInst s m := by
  simp [getInst, setInst, Table.getD_put_ne _ _ _ h]
@[simp] theorem getLink_setLink_self (n : Nat) (x : Link) : getLink (setLink s n x) n = x := by simp [getLink, setLink]
theorem getLink_setLink_ne {n m : Nat} (x : Link) (h : m ≠ n) : getLink (setLink s n x) m = getLink s m := by
  simp [getLink, setLink, Table.getD_put_ne _ _ _ h]
@[simp] theorem getFw_setFw_self (n : Nat) (x : FwGroup) : getFw (setFw s n x) n = x := by simp [getFw, setFw]
theorem getFw_setFw_ne {n m : Nat} (x : FwGroup) (h : m ≠ n) : getFw (setFw s n x) m = getFw s m := by
  simp [getFw, setFw, Table.getD_put_ne _ _ _ h]
@[simp] theorem getGran_setGran_self (n : Nat × Nat) (x : GranState) : getGran (setGran s n x) n = x := by simp [getGran, setGran]
theorem getGran_setGran_ne {n m : Nat × Nat} (x : GranState) (h : m ≠ n) : getGran (setGran s n x) m = getGran s m := by
  simp [getGran, setGran, Table.getD_put_ne _ _ _ h]
@[simp] theorem getPort_setPort_self (p : Port) (x : PortState) : getPort (setPort s p x) p = x := by cases p <;> rfl
theorem getPort_setPort_ne {p q : Port} (x : PortState) (h : q ≠ p) : getPort (setPort s p x) q = getPort s q := by
  cases p <;> cases q <;> first | rfl | exact absurd rfl h
@[simp] theorem getSq_setSq_self (f : Fn) (n : Nat) (x : Sq) : getSq (setSq s f n x) f n = x := by
  simp [getSq, setSq]
@[simp] theorem getCq_setCq_self (f : Fn) (n : Nat) (x : Cq) : getCq (setCq s f n x) f n = x := by
  simp [getCq, setCq]
@[simp] theorem getSlot_setSlot_self (f : Fn) (n : Nat) (x : Slot) : getSlot (setSlot s f n x) f n = x := by
  simp [getSlot, setSlot]
@[simp] theorem getRound_setRound_self (n : Nat) (r : Round) : getRound (setRound s n r) n = some r := by
  simp [getRound, setRound]
@[simp] theorem getCv_setWork_work (cv : Nat) (w : Work) : (getCv (setWork s cv w) cv).work = some w := by
  simp [setWork]

@[simp] theorem getPart_setFn (f : Fn) (x : FnState) (m : Nat) : getPart (setFn s f x) m = getPart s m := rfl
@[simp] theorem getRound_setFn (f : Fn) (x : FnState) (m : Nat) : getRound (setFn s f x) m = getRound s m := rfl
@[simp] theorem getCv_setFn (f : Fn) (x : FnState) (m : Nat) : getCv (setFn s f x) m = getCv s m := rfl
@[simp] theorem getBank_setFn (f : Fn) (x : FnState) (m : Nat) : getBank (setFn s f x) m = getBank s m := rfl
@[simp] theorem getInst_setFn (f : Fn) (x : FnState) (m : Nat) : getInst (setFn s f x) m = getInst s m := rfl
@[simp] theorem getLink_setFn (f : Fn) (x : FnState) (m : Nat) : getLink (setFn s f x) m = getLink s m := rfl
@[simp] theorem getFw_setFn (f : Fn) (x : FnState) (m : Nat) : getFw (setFn s f x) m = getFw s m := rfl
@[simp] theorem getGran_setFn (f : Fn) (x : FnState) (k : Nat × Nat) : getGran (setFn s f x) k = getGran s k := rfl
@[simp] theorem getPart_setSq (f : Fn) (n : Nat) (x : Sq) (m : Nat) : getPart (setSq s f n x) m = getPart s m := rfl
@[simp] theorem getRound_setSq (f : Fn) (n : Nat) (x : Sq) (m : Nat) : getRound (setSq s f n x) m = getRound s m := rfl
@[simp] theorem getCv_setSq (f : Fn) (n : Nat) (x : Sq) (m : Nat) : getCv (setSq s f n x) m = getCv s m := rfl
@[simp] theorem getBank_setSq (f : Fn) (n : Nat) (x : Sq) (m : Nat) : getBank (setSq s f n x) m = getBank s m := rfl
@[simp] theorem getInst_setSq (f : Fn) (n : Nat) (x : Sq) (m : Nat) : getInst (setSq s f n x) m = getInst s m := rfl
@[simp] theorem getLink_setSq (f : Fn) (n : Nat) (x : Sq) (m : Nat) : getLink (setSq s f n x) m = getLink s m := rfl
@[simp] theorem getFw_setSq (f : Fn) (n : Nat) (x : Sq) (m : Nat) : getFw (setSq s f n x) m = getFw s m := rfl
@[simp] theorem getGran_setSq (f : Fn) (n : Nat) (x : Sq) (k : Nat × Nat) : getGran (setSq s f n x) k = getGran s k := rfl
@[simp] theorem getPart_setCq (f : Fn) (n : Nat) (x : Cq) (m : Nat) : getPart (setCq s f n x) m = getPart s m := rfl
@[simp] theorem getRound_setCq (f : Fn) (n : Nat) (x : Cq) (m : Nat) : getRound (setCq s f n x) m = getRound s m := rfl
@[simp] theorem getCv_setCq (f : Fn) (n : Nat) (x : Cq) (m : Nat) : getCv (setCq s f n x) m = getCv s m := rfl
@[simp] theorem getBank_setCq (f : Fn) (n : Nat) (x : Cq) (m : Nat) : getBank (setCq s f n x) m = getBank s m := rfl
@[simp] theorem getInst_setCq (f : Fn) (n : Nat) (x : Cq) (m : Nat) : getInst (setCq s f n x) m = getInst s m := rfl
@[simp] theorem getLink_setCq (f : Fn) (n : Nat) (x : Cq) (m : Nat) : getLink (setCq s f n x) m = getLink s m := rfl
@[simp] theorem getFw_setCq (f : Fn) (n : Nat) (x : Cq) (m : Nat) : getFw (setCq s f n x) m = getFw s m := rfl
@[simp] theorem getGran_setCq (f : Fn) (n : Nat) (x : Cq) (k : Nat × Nat) : getGran (setCq s f n x) k = getGran s k := rfl
@[simp] theorem getPart_setSlot (f : Fn) (n : Nat) (x : Slot) (m : Nat) : getPart (setSlot s f n x) m = getPart s m := rfl
@[simp] theorem getRound_setSlot (f : Fn) (n : Nat) (x : Slot) (m : Nat) : getRound (setSlot s f n x) m = getRound s m := rfl
@[simp] theorem getCv_setSlot (f : Fn) (n : Nat) (x : Slot) (m : Nat) : getCv (setSlot s f n x) m = getCv s m := rfl
@[simp] theorem getBank_setSlot (f : Fn) (n : Nat) (x : Slot) (m : Nat) : getBank (setSlot s f n x) m = getBank s m := rfl
@[simp] theorem getInst_setSlot (f : Fn) (n : Nat) (x : Slot) (m : Nat) : getInst (setSlot s f n x) m = getInst s m := rfl
@[simp] theorem getLink_setSlot (f : Fn) (n : Nat) (x : Slot) (m : Nat) : getLink (setSlot s f n x) m = getLink s m := rfl
@[simp] theorem getFw_setSlot (f : Fn) (n : Nat) (x : Slot) (m : Nat) : getFw (setSlot s f n x) m = getFw s m := rfl
@[simp] theorem getGran_setSlot (f : Fn) (n : Nat) (x : Slot) (k : Nat × Nat) : getGran (setSlot s f n x) k = getGran s k := rfl
@[simp] theorem getFn_setPart (n : Nat) (x : Partition) (h : Fn) : getFn (setPart s n x) h = getFn s h := rfl
@[simp] theorem getCv_setPart (n : Nat) (x : Partition) (m : Nat) : getCv (setPart s n x) m = getCv s m := rfl
@[simp] theorem getBank_setPart (n : Nat) (x : Partition) (m : Nat) : getBank (setPart s n x) m = getBank s m := rfl
@[simp] theorem getInst_setPart (n : Nat) (x : Partition) (m : Nat) : getInst (setPart s n x) m = getInst s m := rfl
@[simp] theorem getLink_setPart (n : Nat) (x : Partition) (m : Nat) : getLink (setPart s n x) m = getLink s m := rfl
@[simp] theorem getFw_setPart (n : Nat) (x : Partition) (m : Nat) : getFw (setPart s n x) m = getFw s m := rfl
@[simp] theorem getGran_setPart (n : Nat) (x : Partition) (k : Nat × Nat) : getGran (setPart s n x) k = getGran s k := rfl
@[simp] theorem getFn_setRound (n : Nat) (x : Round) (h : Fn) : getFn (setRound s n x) h = getFn s h := rfl
@[simp] theorem getCv_setRound (n : Nat) (x : Round) (m : Nat) : getCv (setRound s n x) m = getCv s m := rfl
@[simp] theorem getBank_setRound (n : Nat) (x : Round) (m : Nat) : getBank (setRound s n x) m = getBank s m := rfl
@[simp] theorem getInst_setRound (n : Nat) (x : Round) (m : Nat) : getInst (setRound s n x) m = getInst s m := rfl
@[simp] theorem getLink_setRound (n : Nat) (x : Round) (m : Nat) : getLink (setRound s n x) m = getLink s m := rfl
@[simp] theorem getFw_setRound (n : Nat) (x : Round) (m : Nat) : getFw (setRound s n x) m = getFw s m := rfl
@[simp] theorem getGran_setRound (n : Nat) (x : Round) (k : Nat × Nat) : getGran (setRound s n x) k = getGran s k := rfl
@[simp] theorem getFn_setCv (n : Nat) (x : Caravan) (h : Fn) : getFn (setCv s n x) h = getFn s h := rfl
@[simp] theorem getPart_setCv (n : Nat) (x : Caravan) (m : Nat) : getPart (setCv s n x) m = getPart s m := rfl
@[simp] theorem getRound_setCv (n : Nat) (x : Caravan) (m : Nat) : getRound (setCv s n x) m = getRound s m := rfl
@[simp] theorem getBank_setCv (n : Nat) (x : Caravan) (m : Nat) : getBank (setCv s n x) m = getBank s m := rfl
@[simp] theorem getInst_setCv (n : Nat) (x : Caravan) (m : Nat) : getInst (setCv s n x) m = getInst s m := rfl
@[simp] theorem getLink_setCv (n : Nat) (x : Caravan) (m : Nat) : getLink (setCv s n x) m = getLink s m := rfl
@[simp] theorem getFw_setCv (n : Nat) (x : Caravan) (m : Nat) : getFw (setCv s n x) m = getFw s m := rfl
@[simp] theorem getGran_setCv (n : Nat) (x : Caravan) (k : Nat × Nat) : getGran (setCv s n x) k = getGran s k := rfl
@[simp] theorem getFn_setWork (n : Nat) (x : Work) (h : Fn) : getFn (setWork s n x) h = getFn s h := rfl
@[simp] theorem getPart_setWork (n : Nat) (x : Work) (m : Nat) : getPart (setWork s n x) m = getPart s m := rfl
@[simp] theorem getRound_setWork (n : Nat) (x : Work) (m : Nat) : getRound (setWork s n x) m = getRound s m := rfl
@[simp] theorem getBank_setWork (n : Nat) (x : Work) (m : Nat) : getBank (setWork s n x) m = getBank s m := rfl
@[simp] theorem getInst_setWork (n : Nat) (x : Work) (m : Nat) : getInst (setWork s n x) m = getInst s m := rfl
@[simp] theorem getLink_setWork (n : Nat) (x : Work) (m : Nat) : getLink (setWork s n x) m = getLink s m := rfl
@[simp] theorem getFw_setWork (n : Nat) (x : Work) (m : Nat) : getFw (setWork s n x) m = getFw s m := rfl
@[simp] theorem getGran_setWork (n : Nat) (x : Work) (k : Nat × Nat) : getGran (setWork s n x) k = getGran s k := rfl
@[simp] theorem getFn_setBank (n : Nat) (x : Bank) (h : Fn) : getFn (setBank s n x) h = getFn s h := rfl
@[simp] theorem getPart_setBank (n : Nat) (x : Bank) (m : Nat) : getPart (setBank s n x) m = getPart s m := rfl
@[simp] theorem getRound_setBank (n : Nat) (x : Bank) (m : Nat) : getRound (setBank s n x) m = getRound s m := rfl
@[simp] theorem getCv_setBank (n : Nat) (x : Bank) (m : Nat) : getCv (setBank s n x) m = getCv s m := rfl
@[simp] theorem getLink_setBank (n : Nat) (x : Bank) (m : Nat) : getLink (setBank s n x) m = getLink s m := rfl
@[simp] theorem getFw_setBank (n : Nat) (x : Bank) (m : Nat) : getFw (setBank s n x) m = getFw s m := rfl
@[simp] theorem getGran_setBank (n : Nat) (x : Bank) (k : Nat × Nat) : getGran (setBank s n x) k = getGran s k := rfl
@[simp] theorem getFn_setInst (n : Nat) (x : Drbg) (h : Fn) : getFn (setInst s n x) h = getFn s h := rfl
@[simp] theorem getPart_setInst (n : Nat) (x : Drbg) (m : Nat) : getPart (setInst s n x) m = getPart s m := rfl
@[simp] theorem getRound_setInst (n : Nat) (x : Drbg) (m : Nat) : getRound (setInst s n x) m = getRound s m := rfl
@[simp] theorem getCv_setInst (n : Nat) (x : Drbg) (m : Nat) : getCv (setInst s n x) m = getCv s m := rfl
@[simp] theorem getLink_setInst (n : Nat) (x : Drbg) (m : Nat) : getLink (setInst s n x) m = getLink s m := rfl
@[simp] theorem getFw_setInst (n : Nat) (x : Drbg) (m : Nat) : getFw (setInst s n x) m = getFw s m := rfl
@[simp] theorem getGran_setInst (n : Nat) (x : Drbg) (k : Nat × Nat) : getGran (setInst s n x) k = getGran s k := rfl
@[simp] theorem getFn_setLink (n : Nat) (x : Link) (h : Fn) : getFn (setLink s n x) h = getFn s h := rfl
@[simp] theorem getPart_setLink (n : Nat) (x : Link) (m : Nat) : getPart (setLink s n x) m = getPart s m := rfl
@[simp] theorem getRound_setLink (n : Nat) (x : Link) (m : Nat) : getRound (setLink s n x) m = getRound s m := rfl
@[simp] theorem getCv_setLink (n : Nat) (x : Link) (m : Nat) : getCv (setLink s n x) m = getCv s m := rfl
@[simp] theorem getBank_setLink (n : Nat) (x : Link) (m : Nat) : getBank (setLink s n x) m = getBank s m := rfl
@[simp] theorem getInst_setLink (n : Nat) (x : Link) (m : Nat) : getInst (setLink s n x) m = getInst s m := rfl
@[simp] theorem getFw_setLink (n : Nat) (x : Link) (m : Nat) : getFw (setLink s n x) m = getFw s m := rfl
@[simp] theorem getGran_setLink (n : Nat) (x : Link) (k : Nat × Nat) : getGran (setLink s n x) k = getGran s k := rfl
@[simp] theorem getFn_setFw (n : Nat) (x : FwGroup) (h : Fn) : getFn (setFw s n x) h = getFn s h := rfl
@[simp] theorem getPart_setFw (n : Nat) (x : FwGroup) (m : Nat) : getPart (setFw s n x) m = getPart s m := rfl
@[simp] theorem getRound_setFw (n : Nat) (x : FwGroup) (m : Nat) : getRound (setFw s n x) m = getRound s m := rfl
@[simp] theorem getCv_setFw (n : Nat) (x : FwGroup) (m : Nat) : getCv (setFw s n x) m = getCv s m := rfl
@[simp] theorem getBank_setFw (n : Nat) (x : FwGroup) (m : Nat) : getBank (setFw s n x) m = getBank s m := rfl
@[simp] theorem getInst_setFw (n : Nat) (x : FwGroup) (m : Nat) : getInst (setFw s n x) m = getInst s m := rfl
@[simp] theorem getLink_setFw (n : Nat) (x : FwGroup) (m : Nat) : getLink (setFw s n x) m = getLink s m := rfl
@[simp] theorem getGran_setFw (n : Nat) (x : FwGroup) (k : Nat × Nat) : getGran (setFw s n x) k = getGran s k := rfl
@[simp] theorem getFn_setGran (g : Nat × Nat) (x : GranState) (h : Fn) : getFn (setGran s g x) h = getFn s h := rfl
@[simp] theorem getPart_setGran (g : Nat × Nat) (x : GranState) (m : Nat) : getPart (setGran s g x) m = getPart s m := rfl
@[simp] theorem getRound_setGran (g : Nat × Nat) (x : GranState) (m : Nat) : getRound (setGran s g x) m = getRound s m := rfl
@[simp] theorem getCv_setGran (g : Nat × Nat) (x : GranState) (m : Nat) : getCv (setGran s g x) m = getCv s m := rfl
@[simp] theorem getBank_setGran (g : Nat × Nat) (x : GranState) (m : Nat) : getBank (setGran s g x) m = getBank s m := rfl
@[simp] theorem getInst_setGran (g : Nat × Nat) (x : GranState) (m : Nat) : getInst (setGran s g x) m = getInst s m := rfl
@[simp] theorem getLink_setGran (g : Nat × Nat) (x : GranState) (m : Nat) : getLink (setGran s g x) m = getLink s m := rfl
@[simp] theorem getFw_setGran (g : Nat × Nat) (x : GranState) (m : Nat) : getFw (setGran s g x) m = getFw s m := rfl
@[simp] theorem getFn_emit (o : Output) (h : Fn) : getFn (emit s o) h = getFn s h := rfl
@[simp] theorem getPart_emit (o : Output) (m : Nat) : getPart (emit s o) m = getPart s m := rfl
@[simp] theorem getRound_emit (o : Output) (m : Nat) : getRound (emit s o) m = getRound s m := rfl
@[simp] theorem getCv_emit (o : Output) (m : Nat) : getCv (emit s o) m = getCv s m := rfl
@[simp] theorem getBank_emit (o : Output) (m : Nat) : getBank (emit s o) m = getBank s m := rfl
@[simp] theorem getInst_emit (o : Output) (m : Nat) : getInst (emit s o) m = getInst s m := rfl
@[simp] theorem getLink_emit (o : Output) (m : Nat) : getLink (emit s o) m = getLink s m := rfl
@[simp] theorem getFw_emit (o : Output) (m : Nat) : getFw (emit s o) m = getFw s m := rfl
@[simp] theorem getGran_emit (o : Output) (k : Nat × Nat) : getGran (emit s o) k = getGran s k := rfl
@[simp] theorem getFn_bumpFree (h : Fn) : getFn (bumpFree s) h = getFn s h := rfl
@[simp] theorem getPart_bumpFree (m : Nat) : getPart (bumpFree s) m = getPart s m := rfl
@[simp] theorem getRound_bumpFree (m : Nat) : getRound (bumpFree s) m = getRound s m := rfl
@[simp] theorem getCv_bumpFree (m : Nat) : getCv (bumpFree s) m = getCv s m := rfl
@[simp] theorem getBank_bumpFree (m : Nat) : getBank (bumpFree s) m = getBank s m := rfl
@[simp] theorem getInst_bumpFree (m : Nat) : getInst (bumpFree s) m = getInst s m := rfl
@[simp] theorem getLink_bumpFree (m : Nat) : getLink (bumpFree s) m = getLink s m := rfl
@[simp] theorem getFw_bumpFree (m : Nat) : getFw (bumpFree s) m = getFw s m := rfl
@[simp] theorem getGran_bumpFree (k : Nat × Nat) : getGran (bumpFree s) k = getGran s k := rfl
@[simp] theorem getFn_updTaken (t : Taken) (h : Fn) : getFn (updTaken s t) h = getFn s h := rfl
@[simp] theorem getPart_updTaken (t : Taken) (m : Nat) : getPart (updTaken s t) m = getPart s m := rfl
@[simp] theorem getRound_updTaken (t : Taken) (m : Nat) : getRound (updTaken s t) m = getRound s m := rfl
@[simp] theorem getCv_updTaken (t : Taken) (m : Nat) : getCv (updTaken s t) m = getCv s m := rfl
@[simp] theorem getBank_updTaken (t : Taken) (m : Nat) : getBank (updTaken s t) m = getBank s m := rfl
@[simp] theorem getInst_updTaken (t : Taken) (m : Nat) : getInst (updTaken s t) m = getInst s m := rfl
@[simp] theorem getLink_updTaken (t : Taken) (m : Nat) : getLink (updTaken s t) m = getLink s m := rfl
@[simp] theorem getFw_updTaken (t : Taken) (m : Nat) : getFw (updTaken s t) m = getFw s m := rfl
@[simp] theorem getGran_updTaken (t : Taken) (k : Nat × Nat) : getGran (updTaken s t) k = getGran s k := rfl
@[simp] theorem getFn_enqueueTaken (t : Taken) (h : Fn) : getFn (enqueueTaken s t) h = getFn s h := rfl
@[simp] theorem getPart_enqueueTaken (t : Taken) (m : Nat) : getPart (enqueueTaken s t) m = getPart s m := rfl
@[simp] theorem getRound_enqueueTaken (t : Taken) (m : Nat) : getRound (enqueueTaken s t) m = getRound s m := rfl
@[simp] theorem getCv_enqueueTaken (t : Taken) (m : Nat) : getCv (enqueueTaken s t) m = getCv s m := rfl
@[simp] theorem getBank_enqueueTaken (t : Taken) (m : Nat) : getBank (enqueueTaken s t) m = getBank s m := rfl
@[simp] theorem getInst_enqueueTaken (t : Taken) (m : Nat) : getInst (enqueueTaken s t) m = getInst s m := rfl
@[simp] theorem getLink_enqueueTaken (t : Taken) (m : Nat) : getLink (enqueueTaken s t) m = getLink s m := rfl
@[simp] theorem getFw_enqueueTaken (t : Taken) (m : Nat) : getFw (enqueueTaken s t) m = getFw s m := rfl
@[simp] theorem getGran_enqueueTaken (t : Taken) (k : Nat × Nat) : getGran (enqueueTaken s t) k = getGran s k := rfl
@[simp] theorem getFn_takeOrder (h : Fn) : getFn (takeOrder s) h = getFn s h := rfl
@[simp] theorem getPart_takeOrder (m : Nat) : getPart (takeOrder s) m = getPart s m := rfl
@[simp] theorem getRound_takeOrder (m : Nat) : getRound (takeOrder s) m = getRound s m := rfl
@[simp] theorem getCv_takeOrder (m : Nat) : getCv (takeOrder s) m = getCv s m := rfl
@[simp] theorem getBank_takeOrder (m : Nat) : getBank (takeOrder s) m = getBank s m := rfl
@[simp] theorem getInst_takeOrder (m : Nat) : getInst (takeOrder s) m = getInst s m := rfl
@[simp] theorem getLink_takeOrder (m : Nat) : getLink (takeOrder s) m = getLink s m := rfl
@[simp] theorem getFw_takeOrder (m : Nat) : getFw (takeOrder s) m = getFw s m := rfl
@[simp] theorem getGran_takeOrder (k : Nat × Nat) : getGran (takeOrder s) k = getGran s k := rfl
@[simp] theorem getFn_regate (h : Fn) : getFn (regate s) h = getFn s h := rfl
@[simp] theorem getPart_regate (m : Nat) : getPart (regate s) m = getPart s m := rfl
@[simp] theorem getRound_regate (m : Nat) : getRound (regate s) m = getRound s m := rfl
@[simp] theorem getCv_regate (m : Nat) : getCv (regate s) m = getCv s m := rfl
@[simp] theorem getBank_regate (m : Nat) : getBank (regate s) m = getBank s m := rfl
@[simp] theorem getInst_regate (m : Nat) : getInst (regate s) m = getInst s m := rfl
@[simp] theorem getLink_regate (m : Nat) : getLink (regate s) m = getLink s m := rfl
@[simp] theorem getFw_regate (m : Nat) : getFw (regate s) m = getFw s m := rfl
@[simp] theorem getGran_regate (k : Nat × Nat) : getGran (regate s) k = getGran s k := rfl
@[simp] theorem getFn_setPort (p : Port) (x : PortState) (h : Fn) : getFn (setPort s p x) h = getFn s h := by cases p <;> rfl
@[simp] theorem getPart_setPort (p : Port) (x : PortState) (m : Nat) : getPart (setPort s p x) m = getPart s m := by cases p <;> rfl
@[simp] theorem getRound_setPort (p : Port) (x : PortState) (m : Nat) : getRound (setPort s p x) m = getRound s m := by cases p <;> rfl
@[simp] theorem getCv_setPort (p : Port) (x : PortState) (m : Nat) : getCv (setPort s p x) m = getCv s m := by cases p <;> rfl
@[simp] theorem getBank_setPort (p : Port) (x : PortState) (m : Nat) : getBank (setPort s p x) m = getBank s m := by cases p <;> rfl
@[simp] theorem getInst_setPort (p : Port) (x : PortState) (m : Nat) : getInst (setPort s p x) m = getInst s m := by cases p <;> rfl
@[simp] theorem getLink_setPort (p : Port) (x : PortState) (m : Nat) : getLink (setPort s p x) m = getLink s m := by cases p <;> rfl
@[simp] theorem getFw_setPort (p : Port) (x : PortState) (m : Nat) : getFw (setPort s p x) m = getFw s m := by cases p <;> rfl
@[simp] theorem getGran_setPort (p : Port) (x : PortState) (k : Nat × Nat) : getGran (setPort s p x) k = getGran s k := by cases p <;> rfl

end Reading

end Sys2Proof.Machine
end

