-- ==== Sys2Proof/Laws/Frames.lean ====
section
/-! SUPPORT. What each shared operation leaves as it was, said once: the kinds of state outside its list. -/

namespace Sys2Proof.Laws

open Sys2Proof.Machine Sys2Proof.Safety

-- ------------------------------------------------------------------ the frame relation

theorem same_refl (c : Comp) (s : State) : c.same s s := by cases c <;> simp [Comp.same]

theorem same_trans {c : Comp} {s u v : State} (h : c.same s u) (k : c.same u v) : c.same s v := by
  cases c <;> simp_all [Comp.same]

theorem keeps_refl (l : List Comp) (s : State) : Keeps l s s := fun c _ => same_refl c s

theorem keeps_trans {l : List Comp} {s u v : State} (h : Keeps l s u) (k : Keeps l u v) : Keeps l s v :=
  fun c hc => same_trans (h c hc) (k c hc)

theorem keeps_mono {l m : List Comp} {s u : State} (h : Keeps l s u) (hl : ∀ c, c ∈ l → c ∈ m) : Keeps m s u :=
  fun c hc => h c (fun hm => hc (hl c hm))

/-- A fold keeps what each of its turns keeps. -/
theorem keeps_foldl {α : Type} {l : List Comp} (f : State → α → State) (h : ∀ s a, Keeps l s (f s a)) :
    ∀ (xs : List α) (s : State), Keeps l s (xs.foldl f s)
  | [], s => keeps_refl l s
  | x :: xs, s => keeps_trans (h s x) (keeps_foldl f h xs (f s x))

-- ------------------------------------------------------------------ setters

theorem keeps_setFn (s : State) (f : Fn) (x : FnState) : Keeps [.fns] s (setFn s f x) := by
  intro c hc; cases c <;> simp_all [Comp.same]

theorem keeps_setSq (s : State) (f : Fn) (n : Nat) (x : Sq) : Keeps [.fns] s (setSq s f n x) := keeps_setFn _ _ _
theorem keeps_setCq (s : State) (f : Fn) (n : Nat) (x : Cq) : Keeps [.fns] s (setCq s f n x) := keeps_setFn _ _ _
theorem keeps_setSlot (s : State) (f : Fn) (n : Nat) (x : Slot) : Keeps [.fns] s (setSlot s f n x) := keeps_setFn _ _ _

theorem keeps_setPort (s : State) (p : Port) (x : PortState) : Keeps [.ports] s (setPort s p x) := by
  intro c hc; cases c <;> simp_all [Comp.same]

theorem keeps_setPart (s : State) (p : Nat) (x : Partition) : Keeps [.parts, .partCells] s (setPart s p x) := by
  intro c hc; cases c <;> simp_all [Comp.same]

/-- Writing a partition whose own content is as before changes no partition's own content. -/
theorem keeps_setPart_own (s : State) (p : Nat) (x : Partition) (h : own x = own (getPart s p)) :
    Keeps [.partCells] s (setPart s p x) := by
  intro c hc
  cases c <;> simp_all [Comp.same]
  intro q
  by_cases hq : q = p
  · subst hq; simp [h]
  · rw [getPart_setPart_ne _ _ hq]

/-- Writing a partition whose cells and events are as before changes no partition's cells or events. -/
theorem keeps_setPart_cells (s : State) (p : Nat) (x : Partition) (h : x.cellsUsed = (getPart s p).cellsUsed)
    (k : x.events = (getPart s p).events) : Keeps [.parts] s (setPart s p x) := by
  intro c hc
  cases c <;> simp_all [Comp.same]
  intro q
  by_cases hq : q = p
  · subst hq; simp [h, k]
  · rw [getPart_setPart_ne _ _ hq]; simp

theorem keeps_setRound (s : State) (p : Nat) (r : Round) : Keeps [.parts] s (setRound s p r) :=
  keeps_setPart_cells s p _ rfl rfl

theorem keeps_setCv (s : State) (n : Nat) (x : Caravan) : Keeps [.caravans] s (setCv s n x) := by
  intro c hc; cases c <;> simp_all [Comp.same]

theorem keeps_setWork (s : State) (n : Nat) (w : Work) : Keeps [.caravans] s (setWork s n w) := keeps_setCv _ _ _

theorem keeps_setBank (s : State) (n : Nat) (x : Bank) : Keeps [.entropy] s (setBank s n x) := by
  intro c hc; cases c <;> simp_all [Comp.same]

theorem keeps_setInst (s : State) (n : Nat) (x : Drbg) : Keeps [.entropy] s (setInst s n x) := by
  intro c hc; cases c <;> simp_all [Comp.same]

theorem keeps_setLink (s : State) (n : Nat) (x : Link) : Keeps [.porush] s (setLink s n x) := by
  intro c hc; cases c <;> simp_all [Comp.same]

theorem keeps_setFw (s : State) (n : Nat) (x : FwGroup) : Keeps [.hub] s (setFw s n x) := by
  intro c hc; cases c <;> simp_all [Comp.same]

theorem keeps_setGran (s : State) (g : Nat × Nat) (x : GranState) : Keeps [.hbm] s (setGran s g x) := by
  intro c hc; cases c <;> simp_all [Comp.same]

theorem keeps_emit (s : State) (o : Output) : Keeps [.outputs] s (emit s o) := by
  intro c hc; cases c <;> simp_all [Comp.same]

theorem keeps_bumpFree (s : State) : Keeps [.free] s (bumpFree s) := by
  intro c hc; cases c <;> simp_all [Comp.same]

theorem keeps_updTaken (s : State) (t : Taken) : Keeps [.taken] s (updTaken s t) := by
  intro c hc; cases c <;> simp_all [Comp.same, updTaken, getPart]

theorem keeps_enqueueTaken (s : State) (t : Taken) : Keeps [.taken] s (enqueueTaken s t) := by
  intro c hc; cases c <;> simp_all [Comp.same, enqueueTaken, getPart]

theorem keeps_takeOrder (s : State) : Keeps [.taken] s (takeOrder s) := by
  intro c hc; cases c <;> simp_all [Comp.same, takeOrder, getPart]

theorem keeps_regate (s : State) : Keeps [.cells] s (regate s) := by
  intro c hc; cases c <;> simp_all [Comp.same]

-- ------------------------------------------------------------------ cells, interrupts, events

theorem keeps_cellCounts (s : State) (a b c : Nat) :
    Keeps [.cells] s { s with cmd := { s.cmd with sharedFree := a, p0SlotFree := b, p0OtherFree := c } } := by
  intro k hk; cases k <;> simp_all [Comp.same, getPart]

theorem keeps_freeCells (s : State) (p : Option Nat) (c : Cells) : Keeps [.cells, .partCells] s (freeCells s p c) := by
  have h : ∀ u : State, Keeps [.cells, .partCells] u (regate { u with cmd := { u.cmd with
      sharedFree := u.cmd.sharedFree + c.shared
      p0SlotFree := u.cmd.p0SlotFree + c.p0Slots
      p0OtherFree := u.cmd.p0OtherFree + c.p0Other } }) := fun u =>
    keeps_mono (keeps_trans (keeps_cellCounts u _ _ _) (keeps_regate _)) (by simp)
  cases p with
  | none => exact h s
  | some q =>
    exact keeps_trans (keeps_mono (keeps_setPart_own s q
      { getPart s q with cellsUsed := (getPart s q).cellsUsed - c.reserved } rfl) (by simp)) (h _)

theorem keeps_signal (s : State) (f : Fn) (v : Nat) : Keeps [.fns, .outputs] s (signal s f v) := by
  unfold signal
  simp only
  split
  · exact keeps_mono (keeps_setFn _ _ _) (by simp)
  · exact keeps_mono (keeps_emit _ _) (by simp)

theorem keeps_signalPfs (s : State) (v : Nat) : Keeps [.fns, .outputs] s (signalPfs s v) :=
  keeps_trans (keeps_signal _ _ _) (keeps_signal _ _ _)

theorem keeps_setFnError (s : State) (f : Fn) (b : Nat) : Keeps [.fns, .outputs] s (setFnError s f b) := by
  unfold setFnError
  simp only
  have h := keeps_mono (keeps_setFn s f { getFn s f with error := (getFn s f).error ||| (1 <<< b) })
    (m := [.fns, .outputs]) (by simp)
  split
  · exact h
  · split
    · exact h
    · exact keeps_trans h (keeps_signal _ _ _)

theorem keeps_realert (s : State) : Keeps [.pins] s (realert s) := by
  intro c hc; cases c <;> simp_all [Comp.same, realert, getPart]

theorem keeps_setPwrError (s : State) (m : BitVec 4) : Keeps [.power, .pins, .fns, .outputs] s (setPwrError s m) := by
  unfold setPwrError
  simp only
  refine keeps_trans ?_ (keeps_mono (keeps_realert _) (by simp))
  have h : Keeps [.power, .pins, .fns, .outputs] s { s with power := { s.power with error := s.power.error ||| m } } := by
    intro c hc; cases c <;> simp_all [Comp.same, getPart]
  split
  · exact h
  · exact keeps_trans h (keeps_mono (keeps_signalPfs _ _) (by simp))

theorem keeps_setEntError (s : State) (m : BitVec 4) : Keeps [.entropy, .fns, .outputs] s (setEntError s m) := by
  unfold setEntError
  simp only
  have h : Keeps [.entropy, .fns, .outputs] s { s with entropy := { s.entropy with error := s.entropy.error ||| m } } := by
    intro c hc; cases c <;> simp_all [Comp.same, getPart]
  split
  · exact h
  · exact keeps_trans h (keeps_mono (keeps_signalPfs _ _) (by simp))

theorem keeps_setRelError (s : State) (m : BitVec 5) : Keeps [.rel, .fns, .outputs] s (setRelError s m) := by
  unfold setRelError
  simp only
  have h : Keeps [.rel, .fns, .outputs] s { s with rel := { s.rel with error := s.rel.error ||| m } } := by
    intro c hc; cases c <;> simp_all [Comp.same, getPart]
  split
  · exact h
  · exact keeps_trans h (keeps_mono (keeps_signalPfs _ _) (by simp))

theorem keeps_setLinkEvent (s : State) (l : Nat) : Keeps [.porush, .fns, .outputs] s (setLinkEvent s l) := by
  unfold setLinkEvent
  simp only
  split
  · exact keeps_mono (keeps_setLink _ _ _) (by simp)
  · exact keeps_trans (keeps_mono (keeps_setLink _ _ _) (by simp)) (keeps_mono (keeps_signalPfs _ _) (by simp))

theorem keeps_addEvent (s : State) (p : Nat) (e : Event) : Keeps [.partCells] s (addEvent s p e) :=
  keeps_setPart_own s p _ rfl

theorem keeps_stateEvent (s : State) (p : Nat) (prev : RoundState) : Keeps [.partCells] s (stateEvent s p prev) :=
  keeps_addEvent _ _ _

theorem keeps_roundStatusEvent (s : State) (p : Nat) (st : Status) (a b : Nat) :
    Keeps [.partCells] s (roundStatusEvent s p st a b) := keeps_addEvent _ _ _

theorem keeps_keyEvent (s : State) (p : Nat) (h : W32) : Keeps [.partCells] s (keyEvent s p h) := keeps_addEvent _ _ _

theorem keeps_addDeviceEvent (s : State) (e : Event) : Keeps [.cells] s (addDeviceEvent s e) := by
  intro c hc; cases c <;> simp_all [Comp.same, addDeviceEvent, getPart]

-- ------------------------------------------------------------------ key slots and flights

theorem keeps_caravansUpd (s : State) (t : Table Nat Caravan) : Keeps [.caravans] s { s with caravans := t } := by
  intro c hc; cases c <;> simp_all [Comp.same, getPart]

theorem keeps_unstageAll (s : State) (ref : CmdRef) : Keeps [.caravans] s (unstageAll s ref) := keeps_caravansUpd _ _
theorem keeps_zeroSlot (s : State) (k : SlotStage × Nat × Nat) : Keeps [.caravans] s (zeroSlot s k) := keeps_caravansUpd _ _
theorem keeps_zeroSlots (s : State) (p : Nat) (f : SlotStage → Nat → Bool) : Keeps [.caravans] s (zeroSlots s p f) := keeps_caravansUpd _ _
theorem keeps_loadSlot (s : State) (cv : Nat) (k : SlotStage × Nat × Nat) (v : Bytes) : Keeps [.caravans] s (loadSlot s cv k v) :=
  keeps_setCv _ _ _

theorem keeps_dropFlight (s : State) (p : Nat) (ref : CmdRef) (b : Bool) : Keeps [.caravans, .parts] s (dropFlight s p ref b) := by
  unfold dropFlight
  split
  · exact keeps_refl _ _
  · rename_i f _
    cases f.slot with
    | none =>
      exact keeps_trans (keeps_mono (keeps_unstageAll s ref) (by simp)) (keeps_mono (keeps_setPart_cells _ _ _ rfl rfl) (by simp))
    | some n =>
      refine keeps_trans (keeps_mono (keeps_unstageAll s ref) (by simp)) ?_
      exact keeps_trans (keeps_mono (keeps_zeroSlot _ _) (by simp)) (keeps_mono (keeps_setPart_cells _ _ _ rfl rfl) (by simp))

-- ------------------------------------------------------------------ posting completions

/-- What posting completions may change. -/
def posting : List Comp := [.fns, .taken, .cells, .partCells, .outputs]

theorem keeps_freeSlot (s : State) (f : Fn) (c : Completion) : Keeps [.fns] s (freeSlot s f c) := by
  unfold freeSlot
  split
  · exact keeps_setSlot _ _ _ _
  · exact keeps_refl _ _

theorem keeps_freeSlotCells (s : State) (c : Completion) : Keeps [.cells] s (freeSlotCells s c) := by
  intro k hk; cases k <;> simp_all [Comp.same, freeSlotCells, getPart]

theorem keeps_writeEntry (s : State) (f : Fn) (n : Nat) (c : Completion) : Keeps [.fns, .cells, .outputs] s (writeEntry s f n c) := by
  unfold writeEntry
  simp only
  have h : ∀ q o, Keeps [.fns, .cells, .outputs] s (freeSlotCells (freeSlot (emit (setCq s f n q) o) f c) c) := fun q o =>
    keeps_trans (keeps_trans (keeps_trans (keeps_mono (keeps_setCq s f n q) (by simp)) (keeps_mono (keeps_emit _ o) (by simp)))
      (keeps_mono (keeps_freeSlot _ _ _) (by simp))) (keeps_mono (keeps_freeSlotCells _ _) (by simp))
  split
  · exact keeps_trans (h _ _) (keeps_mono (keeps_signal _ _ _) (by simp))
  · exact h _ _

theorem keeps_orphan (s : State) (f : Fn) (c : Completion) : Keeps [.fns, .cells, .partCells] s (orphan s f c) := by
  unfold orphan
  extract_lets s1
  have h : Keeps [.fns, .cells, .partCells] s s1 :=
    keeps_trans (keeps_mono (keeps_freeSlot _ _ _) (by simp)) (keeps_mono (keeps_freeSlotCells _ _) (by simp))
  refine keeps_trans h ?_
  split
  · exact keeps_mono (keeps_freeCells _ _ _) (by simp)
  · split
    · exact keeps_mono (keeps_addEvent _ _ _) (by simp)
    · exact keeps_mono (keeps_freeCells _ _ _) (by simp)

theorem keeps_postCompletion (s : State) (f : Fn) (n : Nat) (c : Completion) : Keeps posting s (postCompletion s f n c) := by
  unfold postCompletion
  simp only
  split
  · exact keeps_mono (keeps_orphan _ _ _) (by simp [posting])
  · split
    · split
      · exact keeps_mono (keeps_setCq _ _ _ _) (by simp [posting])
      · exact keeps_mono (keeps_writeEntry _ _ _ _) (by simp [posting])
    · split
      · exact keeps_mono (keeps_setCq _ _ _ _) (by simp [posting])
      · exact keeps_mono (keeps_orphan _ _ _) (by simp [posting])

theorem keeps_completeOne (s : State) (t : Taken) (st : Status) (r : Results) : Keeps posting s (completeOne s t st r) := by
  unfold completeOne
  refine keeps_trans ?_ (keeps_postCompletion _ _ _ _)
  intro c hc; cases c <;> simp_all [Comp.same, posting, getPart]

theorem keeps_settleFenceList : ∀ (l : List Taken) (s : State), Keeps posting s (settleFenceList l s)
  | [], s => keeps_refl _ s
  | t :: ts, s => by
    unfold settleFenceList
    split
    · exact keeps_trans (keeps_completeOne s t .ok {}) (keeps_settleFenceList ts _)
    · exact keeps_settleFenceList ts s

theorem keeps_settleFences (s : State) : Keeps posting s (settleFences s) := keeps_settleFenceList _ s

theorem keeps_complete (s : State) (t : Taken) (st : Status) (r : Results) : Keeps posting s (complete s t st r) :=
  keeps_trans (keeps_completeOne s t st r) (keeps_settleFences _)

theorem keeps_completeAll : ∀ (l : List Taken) (st : Status) (s : State), Keeps posting s (completeAll l st s)
  | [], _, s => keeps_refl _ s
  | t :: ts, st, s => keeps_trans (keeps_complete s t st {}) (keeps_completeAll ts st _)

theorem keeps_completeRetryFree (s : State) (t : Taken) : Keeps (.free :: posting) s (completeRetryFree s t) :=
  keeps_trans (keeps_mono (keeps_bumpFree s) (by simp)) (keeps_mono (keeps_complete _ _ _ _) (by intro c hc; simp [hc]))

/-- Completions leave every partition's own content. -/
theorem own_complete (s : State) (t : Taken) (st : Status) (r : Results) (p : Nat) :
    own (getPart (complete s t st r) p) = own (getPart s p) := by
  have h := keeps_complete s t st r .parts (by simp [posting])
  exact h p

theorem own_completeAll (l : List Taken) (st : Status) (s : State) (p : Nat) :
    own (getPart (completeAll l st s) p) = own (getPart s p) := by
  have h := keeps_completeAll l st s .parts (by simp [posting])
  exact h p

end Sys2Proof.Laws
end

