-- ==== Sys2Proof/Laws/Events.lean ====
section
/-! SUPPORT. What adding a held event does: the partition's content but its cells and events stays, and an event of the kind and status
stands in the list. -/

namespace Sys2Proof.Laws

open Sys2Proof.Machine Sys2Proof.Safety

@[simp] theorem getRound_addEvent (s : State) (p q : Nat) (e : Event) : getRound (addEvent s p e) q = getRound s q := by
  unfold addEvent
  simp only [getRound]
  by_cases h : q = p
  · subst h; simp
  · rw [getPart_setPart_ne _ _ h]

theorem getPart_addEvent_ne (s : State) {p q : Nat} (e : Event) (h : q ≠ p) : getPart (addEvent s p e) q = getPart s q := by
  unfold addEvent; exact getPart_setPart_ne _ _ h

@[simp] theorem own_addEvent (s : State) (p q : Nat) (e : Event) : own (getPart (addEvent s p e) q) = own (getPart s q) := by
  have h := keeps_addEvent s p e .parts (by simp)
  exact h q

@[simp] theorem getCv_addEvent (s : State) (p cv : Nat) (e : Event) : getCv (addEvent s p e) cv = getCv s cv := rfl
@[simp] theorem outputs_addEvent (s : State) (p : Nat) (e : Event) : (addEvent s p e).outputs = s.outputs := rfl
@[simp] theorem caravans_addEvent (s : State) (p : Nat) (e : Event) : (addEvent s p e).caravans = s.caravans := rfl

/-- The merged list holds an event of the kind, status and round; its results are the new ones but for the previous state of a STATE
event and the count of a ROUND_STATUS event. -/
theorem mem_mergeEvent (l : List Event) (e : Event) : ∃ x, x ∈ mergeEvent l e ∧ x.kind = e.kind ∧ x.status = e.status ∧
    x.roundState = e.roundState ∧ x.roundId = e.roundId ∧ (e.kind ≠ .stateChange → x.result1 = e.result1) ∧
    (e.kind ≠ .roundStatus → x.result2 = e.result2) := by
  unfold mergeEvent
  split
  · split
    · exact ⟨e, by simp, rfl, rfl, rfl, rfl, fun _ => rfl, fun _ => rfl⟩
    · refine ⟨_, List.mem_append_right _ (List.mem_singleton.mpr rfl), rfl, rfl, rfl, rfl, ?_, ?_⟩
      · intro h; simp [h]
      · intro h; simp [h]
  · exact ⟨e, by simp, rfl, rfl, rfl, rfl, fun _ => rfl, fun _ => rfl⟩

theorem mem_addEvent (s : State) (p : Nat) (e : Event) : ∃ x, x ∈ (getPart (addEvent s p e) p).events ∧ x.kind = e.kind ∧
    x.status = e.status ∧ x.roundState = roundStateOf s p ∧ x.roundId = e.roundId ∧
    (e.kind ≠ .stateChange → x.result1 = e.result1) ∧ (e.kind ≠ .roundStatus → x.result2 = e.result2) := by
  unfold addEvent
  simp only [getPart_setPart_self]
  obtain ⟨x, h1, h2, h3, h4, h5, h6, h7⟩ := mem_mergeEvent (getPart s p).events
    { e with roundState := roundStateOf s p, cells := if (decide (e.kind = .port ∨ e.kind = .key ∨ e.kind = .queueReset) && decide (0 < reservedFree s (some p))) then { e.cells with reserved := e.cells.reserved + 1 } else e.cells }
  exact ⟨x, h1, h2, h3, h4, h5, h6, h7⟩

/-- A ROUND_STATUS event stands with its status and first result. -/
theorem mem_roundStatusEvent (s : State) (p : Nat) (st : Status) (a b : Nat) : ∃ x,
    x ∈ (getPart (roundStatusEvent s p st a b) p).events ∧ x.kind = .roundStatus ∧ x.status = st ∧ x.result1 = BitVec.ofNat 64 a := by
  obtain ⟨x, h1, h2, h3, _, _, h6, _⟩ := mem_addEvent s p
    ⟨.roundStatus, st, .idle, roundIdOf s p, BitVec.ofNat 64 a, BitVec.ofNat 64 (1 + 2 ^ 32 * (b % 2 ^ 32)), {}⟩
  exact ⟨x, h1, h2, h3, h6 (by simp)⟩

/-- A STATE event stands with the round state of now. -/
theorem mem_stateEvent (s : State) (p : Nat) (prev : RoundState) : ∃ x, x ∈ (getPart (stateEvent s p prev) p).events ∧
    x.kind = .stateChange ∧ x.roundState = roundStateOf s p := by
  obtain ⟨x, h1, h2, _, h4, _⟩ := mem_addEvent s p
    ⟨.stateChange, .ok, .idle, roundIdOf s p, BitVec.ofNat 64 prev.code, 0, {}⟩
  exact ⟨x, h1, h2, h4⟩

end Sys2Proof.Laws
end

