-- ==== Sys2Proof/Laws/Chain.lean ====
section
/-! SUPPORT. What lets the chain of a caravan empty, said once: the streams that had issued may write work spaces, host memory and the
ring of the work itself; everything else stays. -/

namespace Sys2Proof.Laws

open Sys2Proof.Machine Sys2Proof.Safety

/-- The same call at the same point of its program, with the same stages armed and the same library routine. -/
def SameCall (w v : Work) : Prop :=
  v.part = w.part ∧ v.regs = w.regs ∧ v.chain = w.chain ∧ v.role = w.role ∧ v.args = w.args ∧ v.library = w.library

theorem sameCall_refl (w : Work) : SameCall w w := ⟨rfl, rfl, rfl, rfl, rfl, rfl⟩

theorem sameCall_trans {w v x : Work} (h : SameCall w v) (k : SameCall v x) : SameCall w x :=
  ⟨k.1.trans h.1, k.2.1.trans h.2.1, k.2.2.1.trans h.2.2.1, k.2.2.2.1.trans h.2.2.2.1, k.2.2.2.2.1.trans h.2.2.2.2.1,
    k.2.2.2.2.2.trans h.2.2.2.2.2⟩

theorem sameCall_putActive (w : Work) (l : LedgerSet) : SameCall w (putActive w l) := by
  unfold putActive; split <;> exact ⟨rfl, rfl, rfl, rfl, rfl, rfl⟩

theorem sameCall_putShadow (w : Work) (l : LedgerSet) : SameCall w (putShadow w l) := by
  unfold putShadow; split <;> exact ⟨rfl, rfl, rfl, rfl, rfl, rfl⟩

theorem sameCall_settleLoad (w : Work) : SameCall w (settleLoad w) := by
  unfold settleLoad; split
  · exact sameCall_putShadow _ _
  · exact sameCall_refl _

/-- The caravan holds the call w. -/
def HoldsCall (s : State) (cv : Nat) (w : Work) : Prop := ∃ v, (getCv s cv).work = some v ∧ SameCall w v

/-- A partition as it is has its own spaces and weights. -/
theorem part_same (x : Partition) : ∃ (m : Table (Nat × Nat) Memory) (g : Weights → List W32), x = { x with spaces := m, weights := x.weights.map (fun y => { y with flat := g y }) } :=
  ⟨x.spaces, Weights.flat, by cases x; simp⟩

/-- Streams of the call w on the caravan have moved, and nothing else has. -/
structure Drained (cv : Nat) (w : Work) (s a : State) : Prop where
  holds  : HoldsCall a cv w
  others : OnlyCv cv s a
  part   : ∃ (m : Table (Nat × Nat) Memory) (g : Weights → List W32), getPart a w.part = { getPart s w.part with
    spaces := m, weights := (getPart s w.part).weights.map (fun y => { y with flat := g y }) }
  only   : OnlyPart w.part s a
  keeps  : Keeps [.caravans, .parts, .outputs, .free] s a

theorem drained_refl {cv : Nat} {w : Work} {s : State} (h : HoldsCall s cv w) : Drained cv w s s :=
  ⟨h, fun _ _ => rfl, part_same _, fun _ _ => rfl, keeps_refl _ _⟩

theorem drained_trans {cv : Nat} {w : Work} {s a b : State} (h : Drained cv w s a) (k : Drained cv w a b) : Drained cv w s b := by
  refine ⟨k.holds, fun c hc => (k.others c hc).trans (h.others c hc), ?_, fun q hq => (k.only q hq).trans (h.only q hq),
    keeps_trans h.keeps k.keeps⟩
  obtain ⟨m, g, hm⟩ := h.part
  obtain ⟨n, f, hn⟩ := k.part
  exact ⟨n, fun y => f { y with flat := g y }, by rw [hn, hm]; simp [Option.map_map, Function.comp_def]⟩

theorem drained_foldl {α : Type} {cv : Nat} {w : Work} (f : State → α → State) (h : ∀ s a, HoldsCall s cv w → Drained cv w s (f s a)) :
    ∀ (xs : List α) (s : State), HoldsCall s cv w → Drained cv w s (xs.foldl f s)
  | [], _, hs => drained_refl hs
  | x :: xs, s, hs => drained_trans (h s x hs) (drained_foldl f h xs _ (h s x hs).holds)

theorem drained_setCv {cv : Nat} {w : Work} (s : State) (c : Caravan) (h : ∃ v, c.work = some v ∧ SameCall w v) :
    Drained cv w s (setCv s cv c) := by
  refine ⟨by unfold HoldsCall; simpa using h, fun k hk => getCv_setCv_ne _ _ hk, part_same _, fun _ _ => rfl, ?_⟩
  exact keeps_mono (keeps_setCv _ _ _) (by simp)

theorem drained_setWork {cv : Nat} {w v : Work} (s : State) (h : SameCall w v) : Drained cv w s (setWork s cv v) :=
  drained_setCv s _ ⟨v, rfl, h⟩

theorem drained_emit {cv : Nat} {w : Work} {s : State} (o : Output) (h : HoldsCall s cv w) : Drained cv w s (emit s o) :=
  ⟨h, fun _ _ => rfl, part_same _, fun _ _ => rfl, keeps_mono (keeps_emit _ _) (by simp)⟩

theorem drained_bumpFree {cv : Nat} {w : Work} {s : State} (h : HoldsCall s cv w) : Drained cv w s (bumpFree s) :=
  ⟨h, fun _ _ => rfl, part_same _, fun _ _ => rfl, keeps_mono (keeps_bumpFree _) (by simp)⟩

/-- An environment whose partition has other spaces and other words of its weight image, and whose work is the same call, goes back. -/
theorem drained_putEnv {cv : Nat} {w : Work} (s : State) (e : Env) (h : HoldsCall s cv w) (hw : SameCall w e.w) (hc : e.cv = cv)
    (hx : ∃ (m : Table (Nat × Nat) Memory) (g : Weights → List W32), e.x = { getPart s w.part with spaces := m, weights := (getPart s w.part).weights.map (fun y => { y with flat := g y }) }) :
    Drained cv w s (putEnv s e) := by
  obtain ⟨m, g, hx⟩ := hx
  have q : putEnv s e = setWork (setPart s w.part e.x) cv e.w := by unfold putEnv; rw [hc, hw.1]
  rw [q]
  refine drained_trans ?_ (drained_setWork _ hw)
  obtain ⟨v, hv, hs⟩ := h
  refine ⟨⟨v, by simpa using hv, hs⟩, fun _ _ => rfl, ⟨m, g, ?_⟩, fun q hq => getPart_setPart_ne s _ hq, ?_⟩
  · rw [getPart_setPart_self, hx]
  · exact keeps_mono (keeps_setPart_cells s w.part _ (by rw [hx]) (by rw [hx])) (by simp)

/-- A write to a work space goes back as the work's own partition with other spaces. -/
theorem drained_writeUnit {cv : Nat} {w v : Work} (s : State) (r : Round) (free : Nat) (b : Bool) (sp u a : Nat) (bs : Bytes)
    (hv : (getCv s cv).work = some v) (h : SameCall w v) : Drained cv w s (putEnv s (writeUnit free (envOf s cv v r) b sp u a bs)) := by
  refine drained_putEnv s _ ⟨v, hv, h⟩ (sameCall_trans h ⟨rfl, rfl, rfl, rfl, rfl, rfl⟩) rfl ?_
  refine ⟨(writeUnit free (envOf s cv v r) b sp u a bs).x.spaces, Weights.flat, ?_⟩
  have e : (writeUnit free (envOf s cv v r) b sp u a bs).x =
      { getPart s v.part with spaces := (writeUnit free (envOf s cv v r) b sp u a bs).x.spaces } := rfl
  rw [e, h.1]
  simp

/-- A write to a weight record goes back as the work's own partition with other words of its image. -/
theorem drained_writeRecord {cv : Nat} {w v : Work} (s : State) (r : Round) (free t a : Nat) (bs : Bytes)
    (hv : (getCv s cv).work = some v) (h : SameCall w v) : Drained cv w s (putEnv s (writeRecord free (envOf s cv v r) t a bs)) := by
  refine drained_putEnv s _ ⟨v, hv, h⟩ (sameCall_trans h ⟨rfl, rfl, rfl, rfl, rfl, rfl⟩) rfl ?_
  refine ⟨(getPart s w.part).spaces, fun y => (overRecord (envOf s cv v r) t a bs y).flat, ?_⟩
  have e : (writeRecord free (envOf s cv v r) t a bs).x = { getPart s v.part with
      weights := Option.map (fun y => { y with flat := (overRecord (envOf s cv v r) t a bs y).flat }) (getPart s v.part).weights } := rfl
  rw [e, h.1]

theorem drained_deliverRun {cv : Nat} {w : Work} {s : State} (b : Bool) (d : StreamDesc) (a : Nat) (bs : Bytes)
    (h : HoldsCall s cv w) : Drained cv w s (deliverRun s cv b d a bs) := by
  obtain ⟨v, hv, hs⟩ := h
  have h : HoldsCall s cv w := ⟨v, hv, hs⟩
  unfold deliverRun
  simp only [hv]
  split
  · exact drained_refl h
  · split
    · split
      · exact drained_refl h
      · split
        · exact drained_emit _ h
        · exact drained_refl h
    · split
      · exact drained_writeRecord _ _ _ _ _ _ hv hs
      · exact drained_writeUnit _ _ _ _ _ _ _ _ hv hs

theorem drained_deliver {cv : Nat} {w : Work} {s : State} (b : Bool) (d : StreamDesc) (bs : Bytes)
    (h : HoldsCall s cv w) : Drained cv w s (deliver s cv b d bs) := by
  unfold deliver
  simp only
  split
  · obtain ⟨v, hv, hs⟩ := h
    simp only [hv]
    exact drained_setWork _ (sameCall_trans hs ⟨rfl, rfl, rfl, rfl, rfl, rfl⟩)
  · exact drained_foldl _ (fun s x hs => drained_deliverRun b d x.1 x.2 hs) _ _ h

theorem drained_putLate {cv : Nat} {w : Work} {s : State} (c : Chain) (tw : Option Twiddle) (o : LateOut) (h : HoldsCall s cv w) :
    Drained cv w s (putLate s cv c tw o) := by
  obtain ⟨v, hv, hs⟩ := h
  unfold putLate
  refine drained_setCv s _ ?_
  simp only [hv, Option.map_some]
  cases o.rows with
  | none => exact ⟨v, rfl, hs⟩
  | some t => exact ⟨_, rfl, sameCall_trans hs ⟨rfl, rfl, rfl, rfl, rfl, rfl⟩⟩

/-- What a guard lets pass with a result is what stands behind it. -/
theorem ok_of_guard {ε α : Type} {p : Prop} [Decidable p] {e : ε} {x : Except ε α} {a : α} (h : (if p then .error e else x) = .ok a) :
    x = .ok a := by
  split at h
  · cases h
  · exact h

theorem drained_sweepEffect {cv : Nat} {w v : Work} {s a : State} {r : Round} {c : Chain} {d : StreamDesc} {t : Option StreamDesc}
    {n : Nat} {got : List Nat} (hs : SameCall w v) (h : sweepEffect s cv v r c d t n got = .ok a) : Drained cv w s a := by
  unfold sweepEffect at h
  simp only at h
  split at h
  · cases h
  · split at h
    · cases h
    · split at h
      · cases h
      · split at h
        · cases h
        · replace h := ok_of_guard h
          injection h with h
          subst h
          have hw : ∀ l, SameCall w (if combToLedger c then putActive v l else v) := by
            intro l
            split
            · exact sameCall_trans hs (sameCall_putActive v _)
            · exact hs
          have sides : ∀ (l : List (StreamDesc × Bytes)) (u : State), HoldsCall u cv w →
              Drained cv w u (l.foldl (fun a x => deliver a cv false x.1 x.2) u) :=
            drained_foldl _ (fun _ x hs => drained_deliver false x.1 x.2 hs)
          have rest : ∀ (u : State) (tw : Option Twiddle) (o : LateOut), HoldsCall u cv w →
              Drained cv w u (match t with
                | none => o.sides.foldl (fun a x => deliver a cv false x.1 x.2) (putLate (bumpFree u) cv c tw o)
                | some t => deliver (o.sides.foldl (fun a x => deliver a cv false x.1 x.2) (putLate (bumpFree u) cv c tw o)) cv false t
                    o.exit) := by
            intro u tw o hu
            have h2 := drained_bumpFree hu
            have h3 := drained_trans h2 (drained_putLate c tw o h2.holds)
            have h4 := drained_trans h3 (sides o.sides _ h3.holds)
            cases t with
            | none => exact h4
            | some t => exact drained_trans h4 (drained_deliver _ _ _ h4.holds)
          have h1 : ∀ (x : Work) (o : Bytes), SameCall w x →
              Drained cv w s (setCv s cv { getCv s cv with work := some x, openBuf := o }) := fun x o hx =>
            drained_setCv s _ ⟨x, rfl, hx⟩
          exact drained_trans (h1 _ _ (hw _)) (rest _ _ _ (h1 _ _ (hw _)).holds)

theorem holdsCall_work {s : State} {cv : Nat} {w v : Work} (h : HoldsCall s cv w) (hv : (getCv s cv).work = some v) : SameCall w v := by
  obtain ⟨x, hx, hs⟩ := h
  rw [hx] at hv; injection hv with hv; exact hv ▸ hs

/-- The head of the shadow port changes the sets, and a routed save sends its streams. -/
theorem drained_shadowHead {cv : Nat} {w v : Work} {s a : State} {r : Round} (hs : SameCall w v)
    (h : shadowHead s cv v r = some (.ok a)) : Drained cv w s a := by
  have put : ∀ (x : Work) (l : LedgerSet), SameCall w x → Drained cv w s (setWork s cv (putShadow x l)) := fun x l hx =>
    drained_setWork s (sameCall_trans hx (sameCall_putShadow x l))
  have base : ∀ q, SameCall w { settleLoad v with shadowQ := q } := fun q =>
    sameCall_trans (sameCall_trans hs (sameCall_settleLoad v)) ⟨rfl, rfl, rfl, rfl, rfl, rfl⟩
  unfold shadowHead at h
  split at h
  · cases h
  · simp only at h
    split at h
    · cases h
    · split at h
      · split at h
        · cases h
        · split at h
          · cases h
          · split at h
            · cases h
            · injection h with h; injection h with h; subst h
              exact put _ _ (base _)
      · split at h
        · split at h
          · cases h
          · split at h
            · cases h
            split at h
            · cases h
            injection h with h; injection h with h; subst h
            have h1 : ∀ x l, SameCall w { putShadow { settleLoad v with shadowQ := x } l with draining := none } := fun x l =>
              sameCall_trans (sameCall_trans (base x) (sameCall_putShadow _ l)) ⟨rfl, rfl, rfl, rfl, rfl, rfl⟩
            have h2 : ∀ x l d, Drained cv w s (setWork s cv { putShadow { settleLoad v with shadowQ := x } l with draining := d }) :=
              fun x l d => drained_setWork s ⟨(h1 x l).1, (h1 x l).2.1, (h1 x l).2.2.1, (h1 x l).2.2.2.1, (h1 x l).2.2.2.2⟩
            split
            · exact h2 _ _ _
            · have rest : ∀ (u : State) (c : Chain) (tw : Option Twiddle) (o : LateOut), HoldsCall u cv w → Drained cv w u
                  (o.sides.foldl (fun a x => deliver a cv true x.1 x.2) (putLate (bumpFree u) cv c tw o)) := by
                intro u c tw o hu
                have h3 := drained_bumpFree hu
                have h4 := drained_trans h3 (drained_putLate c tw o h3.holds)
                exact drained_trans h4 (drained_foldl _ (fun _ x hs => drained_deliver true x.1 x.2 hs) _ _ h4.holds)
              exact drained_trans (h2 _ _ _) (rest _ _ _ _ (h2 _ _ _).holds)
        · split at h <;> cases h

theorem drained_emptyShadow (cv : Nat) (w : Work) : ∀ (n : Nat) (s : State), HoldsCall s cv w → Drained cv w s (emptyShadow cv n s)
  | 0, s, h => drained_refl h
  | n + 1, s, h => by
    unfold emptyShadow
    split
    · exact drained_refl h
    · rename_i v hv
      have hs := holdsCall_work h hv
      have h1 : SameCall w (if v.draining.isSome then { putShadow v {} with draining := none } else settleLoad v) := by
        split
        · have := sameCall_trans hs (sameCall_putShadow v {})
          exact ⟨this.1, this.2.1, this.2.2.1, this.2.2.2.1, this.2.2.2.2⟩
        · exact sameCall_trans hs (sameCall_settleLoad v)
      simp only
      split
      · exact drained_refl h
      · split
        · rename_i t ht
          have h2 := drained_trans (drained_setWork s h1) (drained_shadowHead h1 ht)
          exact drained_trans h2 (drained_emptyShadow cv w n _ h2.holds)
        · exact drained_setWork s h1

theorem drained_emptyChain (cv : Nat) (w : Work) : ∀ (n : Nat) (s : State), HoldsCall s cv w → Drained cv w s (emptyChain cv n s)
  | 0, s, h => drained_refl h
  | n + 1, s, h => by
    unfold emptyChain
    split
    · exact drained_refl h
    · rename_i v hv
      have hs := holdsCall_work h hv
      have flow : ∀ l, SameCall w { v with flow := l } := fun l => sameCall_trans hs ⟨rfl, rfl, rfl, rfl, rfl, rfl⟩
      split
      · rename_i rest _ _
        simp only
        have h1 := drained_setWork (cv := cv) s (flow rest)
        split
        · exact h1
        · split
          · rename_i t ht
            have h2 := drained_trans h1 (drained_sweepEffect (flow rest) ht)
            exact drained_trans h2 (drained_emptyChain cv w n _ h2.holds)
          · exact drained_trans h1 (drained_emptyChain cv w n _ h1.holds)
      · have h1 : ∀ l t, Drained cv w s (setWork s cv { v with flow := l, seeds := t }) := fun l t =>
          drained_setWork s (sameCall_trans hs ⟨rfl, rfl, rfl, rfl, rfl, rfl⟩)
        exact drained_trans (h1 _ _) (drained_emptyChain cv w n _ (h1 _ _).holds)
      · have h1 := drained_emptyShadow cv w 9 s h
        simp only
        split
        · exact h1
        · rename_i v1 hv1
          have hs1 := holdsCall_work h1.holds hv1
          split
          · have h2 : ∀ l, Drained cv w _ (setWork (emptyShadow cv 9 s) cv (exchange v1 l)) := fun l =>
              drained_trans h1 (drained_setWork _ (sameCall_trans hs1 ⟨rfl, rfl, rfl, rfl, rfl, rfl⟩))
            exact drained_trans (h2 _) (drained_emptyChain cv w n _ (h2 _).holds)
          · exact h1
      · exact drained_refl h

theorem drained_drainChain {cv : Nat} {w : Work} {s : State} (h : HoldsCall s cv w) : Drained cv w s (drainChain s cv) := by
  unfold drainChain
  split
  · exact drained_refl h
  · exact drained_emptyChain _ _ _ _ h

end Sys2Proof.Laws
end

