-- ==== Sys2Proof/Laws/Settle.lean ====
section
/-! SUPPORT. What completing the waiting QUIESCE and unload commands leaves as it was, and how a step ends. -/

namespace Sys2Proof.Laws

open Sys2Proof.Machine Sys2Proof.Safety

theorem keeps_settleQuiesceList : ∀ (l : List Taken) (s : State), Keeps posting s (settleQuiesceList l s)
  | [], s => keeps_refl _ _
  | t :: ts, s => by
    have h1 := keeps_trans (keeps_complete s t .ok {}) (keeps_settleQuiesceList ts (complete s t .ok))
    have h2 := keeps_settleQuiesceList ts s
    unfold settleQuiesceList
    split <;> split <;> assumption

/-- Completions leave it that no release waits. -/
theorem noneErasing_of_keeps {s u : State} (h : Keeps posting s u) (n : NoneErasing s) : NoneErasing u := by
  intro p
  have e := congrArg Partition.erasing (h .parts (by simp [posting]) p)
  exact e.trans (n p)

/-- With no release waiting, the end of a step changes only what posting does. -/
theorem settleQuiesce_eq {s : State} (n : NoneErasing s) : settleQuiesce s = settleQuiesceList s.cmd.taken s := by
  have m := noneErasing_of_keeps (keeps_settleQuiesceList s.cmd.taken s) n
  have : ∀ l : List Nat, l.foldl settleRelease (settleQuiesceList s.cmd.taken s) = settleQuiesceList s.cmd.taken s := by
    intro l
    induction l with
    | nil => rfl
    | cons p l ih => simp [settleRelease, m p, ih]
  exact this _

theorem keeps_settleQuiesce {s : State} (n : NoneErasing s) : Keeps posting s (settleQuiesce s) := by
  rw [settleQuiesce_eq n]; exact keeps_settleQuiesceList _ _

theorem keeps_settleUnloadList : ∀ (l : List Taken) (s : State), Keeps (.parts :: posting) s (settleUnloadList l s)
  | [], s => keeps_refl _ _
  | t :: ts, s => by
    unfold settleUnloadList
    split
    · exact keeps_settleUnloadList ts _
    · simp only
      split
      · refine keeps_trans ?_ (keeps_settleUnloadList ts _)
        exact keeps_trans (keeps_mono (keeps_setPart _ _ _) (by simp [posting])) (keeps_mono (keeps_complete _ _ _ _) (by simp [posting]))
      · split
        · refine keeps_trans ?_ (keeps_settleUnloadList ts _)
          exact keeps_trans (keeps_mono (keeps_setPart _ _ _) (by simp [posting])) (keeps_mono (keeps_complete _ _ _ _) (by simp [posting]))
        · exact keeps_settleUnloadList ts _

theorem keeps_settleUnloads (s : State) : Keeps (.parts :: posting) s (settleUnloads s) := keeps_settleUnloadList _ _

/-- What a key-set unload writes of a partition leaves its phase and its release. -/
theorem erasing_settleUnloadList : ∀ (l : List Taken) (s : State) (p : Nat),
    (getPart (settleUnloadList l s) p).erasing = (getPart s p).erasing
  | [], _, _ => rfl
  | t :: ts, s, p => by
    have put : ∀ (q : Nat) (x : Partition), x.erasing = (getPart s q).erasing →
        (getPart (settleUnloadList ts (complete (setPart s q x) t .ok)) p).erasing = (getPart s p).erasing := by
      intro q x hx
      rw [erasing_settleUnloadList ts]
      have e := congrArg Partition.erasing (own_complete (setPart s q x) t .ok {} p)
      refine e.trans ?_
      show (getPart (setPart s q x) p).erasing = _
      by_cases hq : p = q
      · subst hq; simp [hx]
      · rw [getPart_setPart_ne _ _ hq]
    unfold settleUnloadList
    split
    · exact erasing_settleUnloadList ts s p
    · simp only
      split
      · exact put _ _ rfl
      · split
        · exact put _ _ rfl
        · exact erasing_settleUnloadList ts s p

theorem noneErasing_settleUnloads {s : State} (n : NoneErasing s) : NoneErasing (settleUnloads s) :=
  fun p => (erasing_settleUnloadList _ s p).trans (n p)

theorem keeps_settled {s : State} (n : NoneErasing s) : Keeps (.parts :: posting) s (settleQuiesce (settleUnloads s)) :=
  keeps_trans (keeps_settleUnloads s) (keeps_mono (keeps_settleQuiesce (noneErasing_settleUnloads n)) (by simp [posting]))

theorem getCv_settled {s : State} (n : NoneErasing s) (cv : Nat) : getCv (settleQuiesce (settleUnloads s)) cv = getCv s cv := by
  have h := keeps_settled n .caravans (by simp [posting])
  unfold getCv
  rw [h]

/-- A step that ends with its work neither ended, stopped nor dropped leaves the work waiting for another step. -/
theorem endStep_suspends {s : State} {cv : Nat} {w : Work} {r : Round} (n : NoneErasing s) (hw : (getCv s cv).work = some w)
    (hg : getRound s w.part = some r) (ha : r.state ≠ .aborted) (hd : r.state ≠ .retired) (hp : (getPart s w.part).phase = .live) (hl : w.library = none)
    (he : w.ending = none) (hs : w.stopped = false) :
    getCv (endStep s cv) cv = askStep { getCv s cv with stepping := false } (getPart s w.part).steward .p2 w.part ∧
    OnlyCv cv s (endStep s cv) ∧ Keeps (.caravans :: .parts :: posting) s (endStep s cv) := by
  have l : ∀ k, stepLibrary s w k = s := fun k => by simp [stepLibrary, hl]
  have e : endStep s cv = settleQuiesce (settleUnloads (setCv s cv
      (askStep { getCv s cv with stepping := false } (getPart s w.part).steward .p2 w.part))) := by
    unfold endStep
    simp only [hw, l, hg, hp]
    simp [wantsStep, he, hs, stepClass, hl, ha, hd]
  have m : NoneErasing (setCv s cv (askStep { getCv s cv with stepping := false } (getPart s w.part).steward .p2 w.part)) := n
  rw [e]
  refine ⟨by rw [getCv_settled m, getCv_setCv_self], fun k hk => by rw [getCv_settled m, getCv_setCv_ne _ _ hk], ?_⟩
  exact keeps_trans (keeps_mono (keeps_setCv _ _ _) (by simp)) (keeps_mono (keeps_settled m) (by simp [posting]))

end Sys2Proof.Laws
end

