-- ==== Sys2Proof/Laws/Links.lean ====
section
/-! SUPPORT. Links that go down: routes, messages that find another way, and what is left of the link. -/

namespace Sys2Proof.Laws

open Sys2Proof.Machine Sys2Proof.Safety

theorem getLink_of_porush {s u : State} (h : u.porush = s.porush) (l : Nat) : getLink u l = getLink s l := by unfold getLink; rw [h]

theorem routeLink_open {s : State} {c : Circuit} {d l : Nat} (h : routeLink s c d = some l) : (getLink s l).up = true := by
  unfold routeLink at h
  simp only at h
  split at h
  · rename_i h1; injection h with h; subst h; simp [linkOpen] at h1; exact h1.2
  · split at h
    · rename_i h1; injection h with h; subst h; simp [linkOpen] at h1; exact h1.2
    · cases h

/-- Sending a message does not touch a link that is down. -/
theorem getLink_sendVia {s : State} {l : Nat} (p : Nat) (m : Bytes) (h : (getLink s l).up = false) : getLink (sendVia s p m) l = getLink s l := by
  unfold sendVia
  split
  · rfl
  · split
    · rfl
    · rename_i c hc k hk
      have hk' := routeLink_open hk
      have : k ≠ l := by rintro rfl; rw [h] at hk'; cases hk'
      have e : getLink (putOut s k (field m 2 1) m) l = getLink s l := getLink_setLink_ne _ _ this.symm
      simp only
      split
      · exact e
      · exact e

theorem keeps_putOut (s : State) (l c : Nat) (b : Bytes) : Keeps [.porush] s (putOut s l c b) := keeps_setLink _ _ _

theorem keeps_porushUpd (s : State) (x : Porush) : Keeps [.porush] s { s with porush := x } := by
  intro c hc; cases c <;> simp_all [Comp.same, getPart]

theorem keeps_sendVia (s : State) (p : Nat) (m : Bytes) : Keeps [.porush] s (sendVia s p m) := by
  unfold sendVia
  split
  · exact keeps_refl _ _
  · split
    · exact keeps_porushUpd _ _
    · simp only
      split
      · exact keeps_trans (keeps_putOut _ _ _ _) (keeps_porushUpd _ _)
      · exact keeps_putOut _ _ _ _

theorem keeps_cutAdmission (s : State) (t : Taken) : Keeps (.caravans :: .parts :: posting) s (cutAdmission s t) := by
  unfold cutAdmission
  split
  · exact keeps_refl _ _
  · exact keeps_trans (keeps_mono (keeps_dropFlight _ _ _ _) (by simp [posting])) (keeps_mono (keeps_complete _ _ _ _) (by simp [posting]))

theorem keeps_reroute (s : State) (l : Nat) : Keeps (.porush :: .caravans :: .parts :: posting) s (reroute s l) := by
  unfold reroute
  simp only
  refine keeps_trans ?_ (keeps_foldl _ (fun s t => keeps_mono (keeps_cutAdmission s t) (by simp [posting])) _ _)
  refine keeps_trans (keeps_mono (keeps_porushUpd _ _) (by simp)) (keeps_foldl _ (fun s t => keeps_mono (keeps_sendVia s _ _) (by simp)) _ _)

theorem getLink_foldl_sendVia {α : Type} (f : α → Nat × Bytes) (l : Nat) : ∀ (xs : List α) (s : State), (getLink s l).up = false →
    getLink (xs.foldl (fun a e => sendVia a (f e).1 (f e).2) s) l = getLink s l
  | [], _, _ => rfl
  | x :: xs, s, h => by
    simp only [List.foldl_cons]
    rw [getLink_foldl_sendVia f l xs _ (by rw [getLink_sendVia _ _ h]; exact h), getLink_sendVia _ _ h]

theorem getLink_reroute {s : State} {l : Nat} (h : (getLink s l).up = false) : getLink (reroute s l) l = getLink s l := by
  unfold reroute
  simp only
  have hk : ∀ (xs : List Taken) (u : State), getLink (xs.foldl cutAdmission u) l = getLink u l := by
    intro xs u
    have := keeps_foldl cutAdmission keeps_cutAdmission xs u .porush (by simp [posting])
    exact getLink_of_porush this l
  rw [hk]
  exact getLink_foldl_sendVia (fun e : Nat × Nat × Bytes => (e.2.1, e.2.2)) l _ _ h

theorem getLink_setLinkEvent (s : State) (l : Nat) : getLink (setLinkEvent s l) l = { getLink s l with event := true } := by
  unfold setLinkEvent
  simp only
  split
  · simp
  · have := keeps_signalPfs (setLink s l { getLink s l with event := true }) 52 .porush (by simp)
    rw [getLink_of_porush this]; simp

theorem getLink_setLinkEvent_ne (s : State) {l j : Nat} (h : j ≠ l) : getLink (setLinkEvent s l) j = getLink s j := by
  unfold setLinkEvent
  simp only
  split
  · rw [getLink_setLink_ne _ _ h]
  · have := keeps_signalPfs (setLink s l { getLink s l with event := true }) 52 .porush (by simp)
    rw [getLink_of_porush this, getLink_setLink_ne _ _ h]

theorem keeps_downLink (s : State) (l : Nat) (b : Bool) (c : Nat) : Keeps (.porush :: .caravans :: .parts :: posting) s (downLink s l b c) := by
  unfold downLink
  simp only
  split
  · refine keeps_trans ?_ (keeps_reroute _ _)
    exact keeps_trans (keeps_mono (keeps_setLink _ _ _) (by simp)) (keeps_mono (keeps_setLinkEvent _ _) (by simp [posting]))
  · exact keeps_mono (keeps_setLink _ _ _) (by simp)

/-- What a link is after it went down. -/
theorem getLink_downLink (s : State) (l : Nat) (b : Bool) (c : Nat) : ∃ k,
    getLink (downLink s l b c) l = k ∧ k.up = false ∧ k.training = b ∧ k.cause = c ∧ k.key = [] ∧ k.replay = [] ∧ k.failed = (getLink s l).failed ∧ k.replays = (getLink s l).replays ∧ ((getLink s l).up = true → k.event = true) := by
  refine ⟨_, rfl, ?_⟩
  unfold downLink
  simp only
  split
  · rw [getLink_reroute (by rw [getLink_setLinkEvent]; simp), getLink_setLinkEvent]
    simp
  · rename_i h
    simp [h]

/-- A list of flits goes out in order, through the crossing of a link whose clock runs. -/
theorem emit_fold (l : Nat) : ∀ (xs : List (Nat × Bytes)) (s : State), clockStopped s (20 + l) = false →
    (xs.foldl (fun a e => emit a (.flit l e.2)) s) = { s with outputs := s.outputs ++ xs.map (fun e => Output.flit l e.2) }
  | [], s, _ => by simp
  | x :: xs, s, h => by
    have e : emit s (.flit l x.2) = { s with outputs := s.outputs ++ [Output.flit l x.2] } := by
      simp [emit, crossed, outIsland, h]
    rw [List.foldl_cons, e, emit_fold l xs]
    · simp
    · exact h

end Sys2Proof.Laws
end

