-- ==== Sys2Proof/Laws/Queues.lean ====
section
/-! SUPPORT. Queues of one function: a write of one leaves every other as it was. -/

namespace Sys2Proof.Laws

open Sys2Proof.Machine Sys2Proof.Safety

theorem getSq_setSq_ne (s : State) (f : Fn) {n m : Nat} (x : Sq) (h : m ≠ n) : getSq (setSq s f n x) f m = getSq s f m := by
  simp [getSq, setSq, Table.getD_put_ne _ _ _ h]

theorem getCq_setCq_ne (s : State) (f : Fn) {n m : Nat} (x : Cq) (h : m ≠ n) : getCq (setCq s f n x) f m = getCq s f m := by
  simp [getCq, setCq, Table.getD_put_ne _ _ _ h]

theorem getCq_setSq (s : State) (f : Fn) (n m : Nat) (x : Sq) : getCq (setSq s f n x) f m = getCq s f m := by
  simp [getCq, setSq]

theorem getSq_setCq (s : State) (f : Fn) (n m : Nat) (x : Cq) : getSq (setCq s f n x) f m = getSq s f m := by
  simp [getSq, setCq]

theorem getFn_setSq_ne (s : State) {f g : Fn} (n : Nat) (x : Sq) (h : g ≠ f) : getFn (setSq s f n x) g = getFn s g := getFn_setFn_ne _ _ h

theorem getFn_setCq_ne (s : State) {f g : Fn} (n : Nat) (x : Cq) (h : g ≠ f) : getFn (setCq s f n x) g = getFn s g := getFn_setFn_ne _ _ h

end Sys2Proof.Laws
end

