-- ==== Sys2Proof/Laws/Sequencer.lean ====
section
/-! SUPPORT. What issuing does, said once: an instruction that can issue hands its effect the caravan after the issue. -/

namespace Sys2Proof.Laws

open Sys2Proof.Machine Sys2Proof.Safety

theorem nextWork_eq (w : Work) : advance w = nextWork w := rfl

/-- What can issue, issues: the effect runs on the caravan after the issue. -/
theorem issue_can {s : State} {cv op : Nat} {f : FWord} {w : Work} {r : Round} {ready : Work → Round → Bool}
    (k : State → Work → Round → State) (h : CanIssue s cv op f w r) (hr : ready w r = true) :
    issue s cv op f ready k = k (setCv s cv (issuedCv (getCv s cv) w (nextWork w))) (nextWork w) r := by
  obtain ⟨h1, h2, h3, h4, h5, h6, h7, h8, h10, h9⟩ := h
  have hi : issues s cv op f w = true := by simp [issues, h3, h4, h5, h6, h7, h8, h9, h10]
  simp only [issue, h1, h2, hi, hr, Bool.and_self, if_true]
  rfl

/-- What is not ready does not issue. -/
theorem issue_waits {s : State} {cv op : Nat} {f : FWord} {w : Work} {ready : Work → Round → Bool}
    (k : State → Work → Round → State) (h : (getCv s cv).work = some w) (hr : ∀ r, getRound s w.part = some r → ready w r = false) :
    issue s cv op f ready k = s := by
  simp only [issue, h]
  split
  · rfl
  · rename_i r hg
    simp [hr r hg]

/-- A word that does not stand at the program counter does not issue. -/
theorem issue_other {s : State} {cv op : Nat} {f : FWord} {w : Work} {ready : Work → Round → Bool}
    (k : State → Work → Round → State) (h : (getCv s cv).work = some w)
    (hw : (programOf (getPart s w.part) w)[w.regs.pc.toNat]? ≠ some (wordOf op f)) : issue s cv op f ready k = s := by
  have hi : issues s cv op f w = false := by simp [issues, hw]
  simp only [issue, h, hi]
  split <;> simp

/-- Writing another work onto the caravan after an issue. -/
theorem setWork_issued (s : State) (cv : Nat) (w v x : Work) :
    setWork (setCv s cv (issuedCv (getCv s cv) w v)) cv x = setCv (setCv s cv (issuedCv (getCv s cv) w v)) cv (issuedCv (getCv s cv) w x) := by
  simp [setWork, issuedCv]

/-- One issue that leaves a work changes nothing else. -/
theorem issued_setWork (s : State) (cv : Nat) (w v x : Work) :
    Issued s cv w x (setWork (setCv s cv (issuedCv (getCv s cv) w v)) cv x) := by
  refine ⟨by simp [setWork, issuedCv], fun k hk => ?_, ?_⟩
  · simp [setWork, getCv_setCv_ne _ _ hk]
  · exact keeps_trans (keeps_setCv _ _ _) (keeps_setWork _ _ _)

theorem getPart_setCv' (s : State) (cv : Nat) (c : Caravan) (p : Nat) : getPart (setCv s cv c) p = getPart s p := rfl
theorem getRound_setCv' (s : State) (cv : Nat) (c : Caravan) (p : Nat) : getRound (setCv s cv c) p = getRound s p := rfl

/-- A work fault of a work that runs no library routine. -/
theorem workFault_eq {s : State} {cv : Nat} {x : Work} {st : Status} {r : Round} (h : getRound s x.part = some r) (hl : x.library = none) :
    workFault s cv x st =
      roundStatusEvent (setRound (setWork (setPart s x.part { getPart s x.part with store := withoutCopies cv (getPart s x.part).store })
        cv (faultWork x)) x.part { r with lost := true }) x.part st 0 0 := by
  have f : forgetLibrary (getPart s x.part) cv x = { getPart s x.part with store := withoutCopies cv (getPart s x.part).store } := by
    unfold forgetLibrary withoutCopies
    simp [hl]
  have h' : getRound (setWork (setPart s x.part { getPart s x.part with store := withoutCopies cv (getPart s x.part).store })
      cv (faultWork x)) x.part = some r := by
    show (getPart (setPart s x.part _) x.part).round = _
    rw [getPart_setPart_self]; exact h
  unfold workFault
  simp only [f, h']

theorem events_setRound (s : State) (p : Nat) (r : Round) : (getPart (setRound s p r) p).events = (getPart s p).events := by
  simp [setRound]

/-- A work fault on the caravan after an issue stops the work. -/
theorem stops_raise (s : State) (cv : Nat) (w x : Work) (st : Status) (r : Round) (hr : getRound s w.part = some r)
    (hl : w.library = none) (hx : SameCall (nextWork w) x) (hf : x.flow = w.flow) :
    Stops s cv w st (raise (setCv s cv (issuedCv (getCv s cv) w x)) cv st) := by
  have hw : (getCv (setCv s cv (issuedCv (getCv s cv) w x)) cv).work = some x := by simp [issuedCv]
  have h0 : HoldsCall (setCv s cv (issuedCv (getCv s cv) w x)) cv (nextWork w) := ⟨x, hw, hx⟩
  have d := drained_drainChain h0
  have noFlow : w.flow = [] → drainChain (setCv s cv (issuedCv (getCv s cv) w x)) cv = setCv s cv (issuedCv (getCv s cv) w x) := by
    intro h; unfold drainChain; simp only [hw, hf, h]; rfl
  obtain ⟨a, ha⟩ : ∃ a, a = drainChain (setCv s cv (issuedCv (getCv s cv) w x)) cv := ⟨_, rfl⟩
  rw [← ha] at d noFlow
  obtain ⟨v, hv, hs⟩ := d.holds
  obtain ⟨m, g, hm⟩ := d.part
  have hp : v.part = w.part := hs.1
  have hm : getPart a w.part = { getPart s w.part with
      spaces := m, weights := (getPart s w.part).weights.map (fun y => { y with flat := g y }) } := hm
  have hg : getRound a w.part = some r := by unfold getRound at hr ⊢; rw [hm]; exact hr
  have others : OnlyCv cv s a := fun k hk => (d.others k hk).trans (getCv_setCv_ne _ _ hk)
  have only : OnlyPart w.part s a := fun q hq => (d.only q hq).trans rfl
  have keeps : Keeps [.caravans, .parts, .outputs, .free] s a := keeps_trans (keeps_mono (keeps_setCv _ _ _) (by simp)) d.keeps
  have free : w.flow = [] → (getPart a w.part).spaces = (getPart s w.part).spaces ∧ (getPart a w.part).weights = (getPart s w.part).weights ∧
      a.outputs = s.outputs ∧ a.crossings = s.crossings ∧ a.freeCount = s.freeCount := by
    intro h
    rw [noFlow h]
    exact ⟨rfl, rfl, rfl, rfl, rfl⟩
  have e : raise (setCv s cv (issuedCv (getCv s cv) w x)) cv st =
      if r.state = .aborted then setWork a cv (faultWork v)
      else roundStatusEvent (setRound (setWork (setPart a w.part { getPart a w.part with store := withoutCopies cv (getPart a w.part).store })
        cv (faultWork v)) w.part { r with lost := true }) w.part st 0 0 := by
    unfold raise stopWork
    simp only [← ha, hv, hp, roundStateOf, hg]
    split
    · rfl
    · rw [workFault_eq (r := r) (by rw [hp]; exact hg) (hs.2.2.2.2.2.trans hl), hp]
  rw [e]
  have vv : ∃ y, some (faultWork v) = some y ∧ y.stopped = true ∧ y.setA = {} ∧ y.setB = {} ∧ y.flow = [] ∧ y.shadowQ = [] ∧
      y.draining = none ∧ y.regs = nextPc w.regs ∧ y.chain = w.chain ∧ y.part = w.part ∧ y.role = w.role ∧ y.args = w.args :=
    ⟨faultWork v, rfl, rfl, rfl, rfl, rfl, rfl, rfl, hs.2.1, hs.2.2.1, hs.1, hs.2.2.2.1, hs.2.2.2.2.1⟩
  have bes : besides (getPart a w.part) = besides (getPart s w.part) := by
    rw [hm]; simp [besides, Option.map_map, Function.comp_def]
  by_cases hab : r.state = .aborted
  · rw [if_pos hab]
    refine ⟨?_, ⟨r, hr, fun h => absurd hab h, fun _ => ⟨hg, ?_, ?_⟩⟩, bes, free, ?_, only, ?_⟩
    · simpa [setWork] using vv
    · show (getPart a w.part).events = _
      rw [hm]
    · show (getPart a w.part).store = _
      rw [hm]
    · intro k hk
      exact (show getCv (setWork a cv _) k = getCv a k by simp [setWork, getCv_setCv_ne _ _ hk]).trans (others k hk)
    · exact keeps_trans (keeps_mono keeps (by simp)) (keeps_mono (keeps_setWork _ _ _) (by simp))
  · rw [if_neg hab]
    obtain ⟨y, hy⟩ : ∃ y, y = setPart a w.part { getPart a w.part with store := withoutCopies cv (getPart a w.part).store } := ⟨_, rfl⟩
    have hyp : getPart y w.part = { getPart a w.part with store := withoutCopies cv (getPart a w.part).store } := by
      rw [hy, getPart_setPart_self]
    have hyk : Keeps [.parts] a y := by rw [hy]; exact keeps_setPart_cells _ _ _ rfl rfl
    rw [← hy]
    have hq : getPart (setRound (setWork y cv (faultWork v)) w.part { r with lost := true }) w.part =
        { getPart a w.part with store := withoutCopies cv (getPart a w.part).store, round := some { r with lost := true } } := by
      unfold setRound
      rw [getPart_setPart_self]
      have h' : getPart (setWork y cv (faultWork v)) w.part = getPart y w.part := rfl
      rw [h', hyp]
    obtain ⟨z, hz⟩ : ∃ z, z = setRound (setWork y cv (faultWork v)) w.part { r with lost := true } := ⟨_, rfl⟩
    rw [← hz] at hq ⊢
    have hcv : ∀ k, getCv (roundStatusEvent z w.part st 0 0) k = getCv (setWork a cv (faultWork v)) k := by
      intro k; rw [hz, hy]; rfl
    have hown := own_addEvent z w.part w.part ⟨.roundStatus, st, .idle, roundIdOf z w.part, BitVec.ofNat 64 0, BitVec.ofNat 64 1, {}⟩
    have hst : (getPart (roundStatusEvent z w.part st 0 0) w.part).store = (getPart z w.part).store := by
      have h2 := congrArg Partition.store hown
      exact h2
    refine ⟨?_, ⟨r, hr, fun _ => ⟨?_, ?_, ?_⟩, fun h => absurd h hab⟩, ?_, ?_, ?_, ?_, ?_⟩
    · rw [hcv]; simpa [setWork] using vv
    · rw [roundStatusEvent, getRound_addEvent]
      unfold getRound; rw [hq]
    · obtain ⟨y, h1, h2, h3, _⟩ := mem_roundStatusEvent z w.part st 0 0
      exact ⟨y, h1, h2, h3⟩
    · rw [hst, hq, hm]
    · have h2 := congrArg besides hown
      have h3 : ∀ x, besides (own x) = besides x := fun _ => rfl
      rw [h3, h3] at h2
      exact h2.trans (by rw [hq]; exact bes)
    · intro h
      refine ⟨?_, ?_, ?_, ?_, ?_⟩
      · have h2 := congrArg Partition.spaces hown
        refine (show (getPart (roundStatusEvent z w.part st 0 0) w.part).spaces = (getPart z w.part).spaces from h2).trans ?_
        rw [hq]; exact (free h).1
      · have h2 := congrArg Partition.weights hown
        refine (show (getPart (roundStatusEvent z w.part st 0 0) w.part).weights = (getPart z w.part).weights from h2).trans ?_
        rw [hq]; exact (free h).2.1
      · exact (show (roundStatusEvent z w.part st 0 0).outputs = a.outputs by rw [hz, hy]; rfl).trans (free h).2.2.1
      · exact (show (roundStatusEvent z w.part st 0 0).crossings = a.crossings by rw [hz, hy]; rfl).trans (free h).2.2.2.1
      · exact (show (roundStatusEvent z w.part st 0 0).freeCount = a.freeCount by rw [hz, hy]; rfl).trans (free h).2.2.2.2
    · intro k hk
      rw [hcv]
      exact (show getCv (setWork a cv _) k = getCv a k by simp [setWork, getCv_setCv_ne _ _ hk]).trans (others k hk)
    · intro q hq'
      rw [roundStatusEvent, getPart_addEvent_ne _ _ hq', hz]
      refine (getPart_setPart_ne _ _ hq').trans ?_
      refine (show getPart (setWork y cv (faultWork v)) q = getPart y q from rfl).trans ?_
      rw [hy]
      exact (getPart_setPart_ne _ _ hq').trans (only q hq')
    · refine keeps_trans ?_ (keeps_mono (keeps_addEvent _ _ _) (by simp))
      rw [hz]
      refine keeps_trans ?_ (keeps_mono (keeps_setRound _ _ _) (by simp))
      refine keeps_trans ?_ (keeps_mono (keeps_setWork _ _ _) (by simp))
      exact keeps_trans (keeps_mono keeps (by simp)) (keeps_mono hyk (by simp))

/-- A swap at the head of the chain holds back everything behind it. -/
theorem runFlow_swap {s : State} {cv : Nat} {w : Work} {r : Round} {b : Bool} {l : List ChainItem} (hw : (getCv s cv).work = some w)
    (hr : getRound s w.part = some r) (hf : w.flow = .swap b :: l) : ∀ n, runFlow cv n s = s
  | 0 => rfl
  | n + 1 => by simp [runFlow, hw, hr, hf]

-- ------------------------------------------------------------------ one issue as a whole

theorem setCv_setCv (s : State) (cv : Nat) (a b : Caravan) : setCv (setCv s cv a) cv b = setCv s cv b := by
  simp [setCv, Table.put_put]


theorem setWork_issuedCv (s : State) (cv : Nat) (w v x : Work) :
    setWork (setCv s cv (issuedCv (getCv s cv) w v)) cv x = setCv s cv (issuedCv (getCv s cv) w x) := by
  rw [setWork_issued, setCv_setCv]

theorem issued_setCv (s : State) (cv : Nat) (w x : Work) : Issued s cv w x (setCv s cv (issuedCv (getCv s cv) w x)) :=
  ⟨getCv_setCv_self _ _ _, fun _ hk => getCv_setCv_ne _ _ hk, keeps_setCv _ _ _⟩

theorem getCv_work_issued (s : State) (cv : Nat) (w x : Work) :
    (getCv (setCv s cv (issuedCv (getCv s cv) w x)) cv).work = some x := by
  simp [issuedCv]

/-- A register instruction that is one seqOp computes what its function says. -/
theorem computes_seqOp {op : Nat} {mk : Nat → FWord → Instr} {next : FWord → SeqRegs → SeqRegs} (k : FWord → SeqRegs → SeqRegs)
    (he : ∀ cv f s, exec (mk cv f) s = .next (seqOp s cv op f (k f))) (hk : ∀ f g, k f g = next f g) : Computes op mk next := by
  intro s cv f w r h
  refine ⟨_, he cv f s, ?_⟩
  unfold seqOp
  rw [issue_can _ h rfl]
  have := issued_setWork s cv w (nextWork w) { w with regs := next f (nextPc w.regs) }
  rw [hk]; exact this

/-- A marker whose condition holds arms its stage. -/
theorem arms_marker {op : Nat} {mk : Nat → FWord → Instr} {ok : FWord → Work → Round → Prop} {arm : Chain → Arm → Chain}
    (fault : FWord → State → Round → Work → Option Status) (k : FWord → Chain → Arm → Chain)
    (he : ∀ cv f s, exec (mk cv f) s = .next (marker s cv op f (fault f) (k f))) (hk : ∀ f w r c a, ok f w r → k f c a = arm c a)
    (hf : ∀ s cv f w r, CanIssue s cv op f w r → ok f w r →
      fault f (setCv s cv (issuedCv (getCv s cv) w (nextWork w))) r (nextWork w) = none) : Arms op mk ok arm := by
  intro s cv f w r h ho
  refine ⟨_, he cv f s, ?_⟩
  unfold marker
  rw [issue_can _ h rfl]
  simp only [hf _ _ _ _ _ h ho]
  rw [hk f w r _ _ ho]
  exact issued_setWork s cv w (nextWork w) _

/-- A marker whose condition fails stops its work. -/
theorem stops_marker {op : Nat} {mk : Nat → FWord → Instr} {bad : FWord → Work → Round → Prop} {st : Status}
    (fault : FWord → State → Round → Work → Option Status) (k : FWord → Chain → Arm → Chain)
    (he : ∀ cv f s, exec (mk cv f) s = .next (marker s cv op f (fault f) (k f)))
    (hf : ∀ s cv f w r, CanIssue s cv op f w r → bad f w r →
      fault f (setCv s cv (issuedCv (getCv s cv) w (nextWork w))) r (nextWork w) = some st) : StopsWhen op mk bad st := by
  intro s cv f w r h ho
  refine ⟨_, he cv f s, ?_⟩
  unfold marker
  rw [issue_can _ h rfl]
  simp only [hf _ _ _ _ _ h ho]
  exact stops_raise s cv w (nextWork w) st r h.2.1 h.2.2.2.2.2.1 (sameCall_refl _) rfl

end Sys2Proof.Laws
end

