-- ==== Sys2Proof/Laws/Sessions.lean ====
section
/-! SUPPORT. When a session record opens. -/

namespace Sys2Proof.Machine

/-- A record whose header names the session, the command's counter and the type, and whose segments verify, opens. -/
theorem openRecord_ok {x : Session} {counter type : Nat} {buf h c : Bytes} (hh : h = slice buf 0 32) (hl : x.live = true)
    (hn : field h 4 4 = x.number) (hc : field h 8 8 = counter) (hv : field h 0 2 = 1) (ht : field h 2 1 = type)
    (hd : field h 3 1 = 0) (hz : zeros h 0x19 7 = true) (hr : recordTypes.contains type = true)
    (hb : buf.length = 32 + recordBodyLen (field h 0x10 8))
    (hs : openSegments 0 x.h2d (recordNonce counter 0) h 0 (sealedSegments (slice buf 32 (recordBodyLen (field h 0x10 8)))) = some c) :
    openRecord x counter type buf = .ok { content := c, option := field h 0x18 1, counter := counter } := by
  subst hh; subst ht
  simp only [openRecord, hl, hn, hc, hv, hd, hz, hr, hb, hs]
  simp

/-- One sealed segment opens to its content. -/
theorem openSegments_one {code : Nat} {key : Bytes} {nonce : Nat → Bytes} {aad seg c : Bytes}
    (h : Sys2Proof.Config.aeadOpen code key (nonce 0) aad seg = some c) : openSegments code key nonce aad 0 [seg] = some c := by
  simp [openSegments, h]

end Sys2Proof.Machine
end

