-- ==== Sys2Proof/WellFormed.lean ====
section
/-! DEFINITION. Which commands are well formed: every operand inside the range that the spec gives the thing it names. The
machine is total and does not consult these checks; a host or a statement does. -/

namespace Sys2Proof

/-- VF n is numbered 0 to 63, as its partition (R252, R282). -/
def Fn.ok : Fn → Bool
  | .pf _ => true
  | .vf _ n => decide (n < 64)

/-- Only VFs: a command of a partition (R266). -/
def Fn.isVf : Fn → Bool
  | .pf _ => false
  | .vf _ _ => true

/-- Sources 0 to 15 are SQs and 16 to 19 the P0 slots (R261). -/
def CmdRef.ok (r : CmdRef) : Bool := r.fn.ok && decide (r.source < 20)

/-- A reference on a VF, to a command of the SQs alone or of any source (R266). -/
def CmdRef.vfOk (r : CmdRef) : Bool := r.ok && r.fn.isVf

/-- A reference on a PF (R266). -/
def CmdRef.pfOk (r : CmdRef) : Bool := r.ok && !r.fn.isVf

/-- Partitions 0 to 63 (R34). -/
def partOk (p : Nat) : Bool := decide (p < 64)
/-- Caravans C00 to C47 (R17). -/
def cvOk (cv : Nat) : Bool := decide (cv < 48)
/-- Queues 0 to 15 of a function (R257). -/
def queueOk (n : Nat) : Bool := decide (n < 16)
/-- P0 slots 0 to 3 (R271). -/
def slotOk (n : Nat) : Bool := decide (n < 4)
/-- Porush links 0 to 3 (R391). -/
def linkOk (l : Nat) : Bool := decide (l < 4)
/-- Lanes 0 to 7 of a Porush link (R391). -/
def laneOk (l : Nat) : Bool := decide (l < 8)
/-- Members of a circuit, 0 to 15 (R400). -/
def memberOk (m : Nat) : Bool := decide (m < 16)
/-- Clients below 2^24 (R47). -/
def clientOk (c : Nat) : Bool := decide (c < 2 ^ 24)
/-- Clocked islands 0 to 39 (R352). -/
def clockedOk (i : Nat) : Bool := decide (i < 40)
/-- Voltage islands 0 to 119 (R22). -/
def islandOk (i : Nat) : Bool := decide (i < 120)
/-- An island that can be woken: clocked 0 to 39, then the 120 voltage islands as 40 to 159 (R425, assumption 1). -/
def wakeOk (i : Nat) : Bool := decide (i < 160)
/-- Entropy banks 0 to 3 (R332). -/
def bankOk (b : Nat) : Bool := decide (b < 4)
/-- DRBG instances 0 to 64 (R341). -/
def drbgOk (n : Nat) : Bool := decide (n < 65)
/-- Roles 0 to 15 of an itinerary set (R226). -/
def roleOk (r : Nat) : Bool := decide (r < 16)
/-- A 64-byte descriptor (R258). -/
def descOk (raw : Bytes) : Bool := decide (raw.length = 64)
/-- The 32-byte fixed header of an envelope (R51). -/
def headerOk (h : Bytes) : Bool := decide (h.length = 32)
/-- An encapsulated key: 32 bytes, or 1,088 bytes (R51). -/
def encOk (e : Bytes) : Bool := decide (e.length = 32 ∨ e.length = 1088)
/-- A segment: at most 1,048,576 bytes of payload and a 16-byte tag (R51). -/
def segOk (s : Bytes) : Bool := decide (s.length ≤ 1048592)
/-- A write of 1 to 8 bytes inside the 64 MiB of BAR0 (R254); R256 says what a misaligned or other width does. -/
def accessOk (offset width : Nat) : Bool := decide (0 < width ∧ width ≤ 8 ∧ offset + width ≤ 2 ^ 26)
/-- The 32-byte challenge of R327. -/
def challengeOk (c : Bytes) : Bool := decide (c.length = 32)
/-- Eight arguments of a Falnyx call (R225). -/
def argsOk (a : List W64) : Bool := decide (a.length ≤ 8)
/-- Tamper causes 1 to 4 (R328). -/
def causeOk (c : Nat) : Bool := decide (1 ≤ c ∧ c ≤ 4)
/-- Seven rails and three dies (R428, R436). -/
def readingsOk (r : DutyReadings) : Bool := decide (r.rails.length = 7 ∧ r.temps.length = 3)

/-- Every operand of a command lies in its range. -/
def Instr.wellFormed : Instr → Bool
  | .partCreate r | .partRelease r | .fwStage r _ | .debugSet r _ => r.pfOk
  | .scrubFillDone p | .enterUnmasking p | .enterFinishing p | .enterExported p | .finishPassDone p
  | .reencryptionSweepEnd p | .stewardRebuild p | .roundStateDestroyed p => partOk p
  | .portFailover r | .keyRotate r | .sessionStart r _ | .sessionRecord r _ | .sessionEnd r _ | .attest r _
  | .fence r | .abort r | .quiesceEnter r | .quiesceLeave r => r.ok
  | .roundOpen r _ | .roundClose r | .roundResume r _ | .roundRetire r | .roundOutbuf r | .unmaskSeeds r _
  | .shareOutbuf r | .shareVerify r _ | .shareDrop r | .shareCombine r _ | .ctAdd r | .ctPmul r _ | .ctRot r
  | .ctLut r | .keyInstall r _ | .keysetLoad r _ | .keysetUnload r | .itinLoad r _ | .itinUnload r
  | .weightsLoad r _ | .weightsReadBack r | .admissionCommit r => r.vfOk
  | .admitEnvelope r h e => r.vfOk && headerOk h && encOk e
  | .porterSegmentStage r _ seg => r.vfOk && segOk seg
  | .admissionPass cv r _ => cvOk cv && r.vfOk
  | .sqTailDoorbell fn n _ | .cqHeadDoorbell fn n _ | .sqEnable fn n | .sqDisable fn n | .cqEnable fn n
  | .cqDisable fn n | .coalesceTimer fn n => fn.ok && queueOk n
  | .descriptorFetch fn n raw => fn.ok && queueOk n && descOk raw
  | .p0Doorbell fn slot raw => fn.ok && slotOk slot && descOk raw
  | .p0TagVerdict fn slot => fn.ok && slotOk slot
  | .registerWrite fn offset width _ => fn.ok && accessOk offset width
  | .hubReset _ _ | .i3cReset _ _ | .groupRestart _ | .recoveryCtrl _ _ | .i3cRecoveryCtrl _ _
  | .i3cRecoveryData _ | .pwrDoze | .dozeEntry | .dozeExit _ | .pwrSleep | .sleepWake _ | .i3cWake _
  | .pwrgoodAssert _ | .powerLoss | .perstAssert _ | .perstDeassert _ | .flrPf _ | .linkDown _ | .thermalTrip
  | .ageingRecordWrite | .dataLinkUp _ | .d3hotEntry _ | .attestationCertificateSigned | .faultDetected _
  | .queuePointerMismatch _ => true
  | .outsiderChallenge c => challengeOk c
  | .linkRetrain l | .porushLinkOpen l _ | .porushRetryTimer l | .porushFlitReceive l _ | .porushLinkFail l
  | .porushMessage l _ => linkOk l
  | .porushLaneFail l lane => linkOk l && laneOk lane
  | .circuitJoin p m _ _ _ | .rowPartialMerge p _ m _ => partOk p && memberOk m
  | .circuitVerdict p m c _ => partOk p && memberOk m && clientOk c
  | .circuitStateChange p _ | .checkpointTake p _ | .checkpointExportDone p _ | .unmaskTileDone p _
  | .applyTileCommit p _ | .imageWriteConfirm p _ | .refreshCommit p _ | .keyDrainEnd p _ | .mirrorCopyDone p _
  | .tileRepair p _ _ _ => partOk p
  | .secretReconstruct p c | .verifierRecord p c | .clientDecide p c => partOk p && clientOk c
  | .flrVf _ n => decide (n < 64)
  | .tamperAlarm a => causeOk a.cause
  | .dutyEvaluation r => readingsOk r
  | .canaryReading i _ => islandOk i
  | .entropySample b _ | .bankRetest b => bankOk b
  | .drbgInstantiate n | .reseedServe n | .drbgQueueRefill n | .drbgDraw n _ => drbgOk n
  | .watchdogExpiry k => clockedOk k.island
  | .crossingResync i _ | .islandClockReturn i => clockedOk i
  | .islandWake i => wakeOk i
  | .eventPost (.part p) => partOk p
  | .eventPost .device => true
  | .contextSwitch cv p => cvOk cv && partOk p
  | .stepDispatch cv | .stepBudgetEnd cv | .workEndComplete cv | .ledgSaveAck cv | .swapAtLedger cv => cvOk cv
  | .workStart cv p role args chain =>
    cvOk cv && partOk p && roleOk role && argsOk args && (match chain with | none => true | some c => decide (c < 4))
  | .nop cv _ | .set cv _ | .addx cv _ | .subx cv _ | .mulx cv _ | .minx cv _ | .shx cv _ | .andx cv _ | .cmp cv _
  | .br cv _ | .endWork cv _ | .step cv _ | .stepYield cv _ | .sdesc cv _ | .sset cv _ | .lset cv _ | .link cv _
  | .sweep cv _ | .wait cv _ | .byp cv _ | .openAead cv _ | .unpack cv _ | .ksLoad cv _ | .ksFold cv _
  | .combAdd cv _ | .combSub cv _ | .combMul cv _ | .ledgAcc cv _ | .ledgSwap cv _ | .ledgSave cv _
  | .ledgLoad cv _ | .turn cv _ | .nttF cv _ | .nttI cv _ | .auto cv _ | .finRows cv _ | .finNoise cv _
  | .finScale cv _ | .finClip cv _ | .finApply cv _ | .sealAead cv _ | .hash cv _ | .ksw cv _
  | .refresh cv _ => cvOk cv

end Sys2Proof
end

