-- ==== Sys2Proof/Tests/Slice0.lean ====
section
/-! SUPPORT. The model's own tests: well-formedness, values that the spec gives, single steps on small states, and for each statement a
witness that its hypotheses can be met together. -/

namespace Sys2Proof.Tests

open Sys2Proof.Machine Sys2Proof.Safety

-- one theorem at a time: checked side by side they ask for more memory than a check allows
set_option Elab.async false

-- ------------------------------------------------------------------ small states

/-- A ready device with both ports up. -/
def base : State :=
  { State.reset with
    pins := { pwrgood := true }
    hub := { bootState := 3 }
    cmd := { port0 := { linkUp := true, perst := false }, port1 := { linkUp := true, perst := false } } }

/-- A round descriptor of one masked-sum element, with everything else 0. -/
def rdesc : RoundDesc :=
  { raw := [], version := 1, mode := 0, packedBits := 32, roundId := 5, vectorLength := 1, rowLength := 1, nMax := 4, ringK := 32
    laneFormat := 0, prg := 0, seedFormat := 0, boundB := 1, graphDegree := 2, threshold := 2, aggCount := 2, aggIndex := 0, log2n := 12
    limbCount := 1, fieldPrime := 0, ptModulus := 0, ksFingerprint := 9, leveled := 2, refreshThreshold := 0, ckptEvery := 1
    ckptIntervalMs := 0, ckptAdmissions := 0, flags := 0, dpSigma := 0, clipBound := 0, optimiser := 0, learningRate := 0, beta1 := 0
    beta2 := 0, epsilon := 0, ownerKey := 0, distKey := 0, itinDigest := [], reservedOk := true }

/-- A round in a state. -/
def rnd (st : RoundState) : Round := { state := st, desc := rdesc, kem := 0, secret := [1], wDigest := [] }

/-- A live partition with a round. -/
def liveP (r : Option Round) : Partition := { phase := .live, serving := some .p0, round := r, session := { live := true, number := 1 } }

/-- The base state with partition 3. -/
def withP (x : Partition) : State := setPart base 3 x

/-- The base state with partition 3 and its round in a state. -/
def inRound (st : RoundState) : State := withP (liveP (some (rnd st)))

/-- A reference on VF 3 of port 0, SQ 2. -/
def ref3 : CmdRef := ⟨.vf .p0 3, 2, 7⟩

/-- A reference on the PF of port 0. -/
def refPf : CmdRef := ⟨.pf .p0, 1, 8⟩

/-- A descriptor with an opcode, parameters from byte 0 on, and a length. -/
def descOf (op : Nat) (params : Bytes) (len : Nat) : Desc :=
  { opcode := op, flags := 0, channel := 0, commandId := 7, reserved := 0, counter := 1, address := 0x1000, length := len
    params := padTo 16 params, tag := [], head := [] }

/-- A taken command of partition 3. -/
def cmd3 (op : Nat) (params : Bytes) (len : Nat) : Taken :=
  { ref := ref3, desc := descOf op params len, cls := .p1, part := some 3, order := 0, cells := {}, sqHead := 0 }

/-- A taken command of the PF, for no partition. -/
def cmdPf (op : Nat) (params : Bytes) (len : Nat) : Taken :=
  { ref := refPf, desc := descOf op params len, cls := .p1, part := none, order := 0, cells := {}, sqHead := 0 }

/-- A state in which one command is taken. -/
def takes (s : State) (t : Taken) : State := { s with cmd := { s.cmd with taken := [t], nextOrder := 1 } }

/-- A DRBG instance with cells. -/
def fed (s : State) (n : Nat) : State := setInst s n { live := true, queue := [[1], [2], [3]] }

/-- A field word with every field 0. -/
def w0 : FWord := { cls := 0, domain := 0, dst := 0, srcA := 0, srcB := 0, modif := 0, imm := 0 }

/-- A work of partition 3 in a role. -/
def wk (role : Nat) : Work := { part := 3, setSlot := 0, role := role, args := [] }

/-- A state whose caravan 5 steps a work of partition x in round r, its program one word. -/
def runsIn (x : Partition) (r : Round) (op : Nat) (f : FWord) (w : Work) : State :=
  setCv (withP { x with round := some r, itins := [(0, { digest := [], itins := [(w.role, 0, [wordOf op f])], consts := [] })] })
    5 { work := some w, stepping := true, entryLeft := 15000, owner := some 3 }

/-- The same of a partition with nothing besides. -/
def running (r : Round) (op : Nat) (f : FWord) (w : Work) : State := runsIn (liveP none) r op f w

/-- What holds of every entry of a table and of the value of an unlisted key holds of whatever a key reads. -/
theorem getD_of_all {κ α : Type} [DecidableEq κ] (P : α → Bool) {t : Table κ α} {d : α} (q : κ) (h : t.all (fun e => P e.2) = true)
    (hd : P d = true) : P (Table.getD t q d) = true := by
  induction t with
  | nil => exact hd
  | cons e t ih =>
    simp only [List.all_cons, Bool.and_eq_true] at h
    unfold Table.getD Table.get?
    split
    · exact h.1
    · exact ih h.2

/-- No CQ of a listed function holds a completion back: so none does. -/
theorem noneHeld_of {s : State} (f : Fn)
    (h : s.cmd.fns.all (fun e => e.2.cqs.all (fun k => decide (k.2.held = []))) = true) : NoneHeld s f := by
  intro g m _
  have hf := getD_of_all (d := {}) (fun e : FnState => e.cqs.all (fun k => decide (k.2.held = []))) g h rfl
  have hq := getD_of_all (d := {}) (fun k : Cq => decide (k.held = [])) m hf rfl
  exact of_decide_eq_true hq

/-- No partition that is listed waits to be erased: so none does. -/
theorem noneErasing_of {s : State} (h : s.parts.all (fun e => !e.2.erasing) = true) : NoneErasing s := by
  intro p
  have hp := getD_of_all (d := {}) (fun x : Partition => !x.erasing) p h rfl
  simpa [getPart] using hp

-- ------------------------------------------------------------------ witnesses: the block, queues, registers

theorem witness_StepRunsFrontCommand :
    ({ base with pending := [.powerLoss] } : State).pending = [.powerLoss] ∧ base.pending = [] := by decide

theorem witness_EveryStepKeepsTheInvariant : Inv { State.reset with pending := [.powerLoss] } ∧
    ∃ u, step { State.reset with pending := [.powerLoss] } = .next u := by
  refine ⟨⟨by decide, by decide, by decide, ?_, ?_, by decide, by decide, by decide⟩, ⟨_, rfl⟩⟩
  · intro e h; cases h
  · intro l h; cases h with | inl h => cases h | inr h => cases h

theorem witness_NoStepTakesBackTheRecord : ∃ u, step { State.reset with pending := [.powerLoss] } = .next u := ⟨_, rfl⟩

/-- A function whose CQ 1 is enabled with a ring of 32 entries, and SQ 2 bound to it with one entry to fetch. -/
def queues (s : State) : State :=
  setSq (setCq s (.vf .p0 3) 1 { log2 := 5, vector := 1, enable := true, tail := 31, head := 5 }) (.vf .p0 3) 2
    { log2 := 5, cls := 1, cq := 1, enable := true, head := 0, tail := 1 }

theorem witness_CompletionWritesOneEntry :
    completionCq (queues (inRound .opened)) ref3 = 1 ∧ (getPort (queues (inRound .opened)) .p0).linkUp = true ∧
    (getCq (queues (inRound .opened)) (.vf .p0 3) 1).enable = true ∧ (getCq (queues (inRound .opened)) (.vf .p0 3) 1).isFull = false ∧
    (getCq (queues (inRound .opened)) (.vf .p0 3) 1).held = [] := by decide

/-- An ADMITTED completion with number n. -/
def admitted (n : Nat) : Completion := { commandId := 7, source := 2, status := .ok, opcode := 0x0301, result0 := BitVec.ofNat 64 n }

/-- CQ 1 of VF 3 can take an entry, and CQ 2 holds the completion of number 4. -/
def heldAdmit : State := setCq (queues (inRound .opened)) (.vf .p0 3) 2 { log2 := 5, enable := true, held := [admitted 4] }

theorem test_admitted_in_sequence : mustWait heldAdmit (.vf .p0 3) 1 (admitted 5) = true ∧ mustWait heldAdmit (.vf .p0 3) 1 (admitted 3) = false := by
  decide

theorem witness_SharedRegionGates :
    ({ base with cmd := { base.cmd with sharedFree := 261631 } } : State).cmd.sharedFree < 261632 ∧
    313959 ≤ ({ base with cmd := { base.cmd with sharedFree := 313959 } } : State).cmd.sharedFree ∧
    (261632 ≤ (261632 : Nat) ∧ 261632 < 313959) ∧ (104652 : Nat) < 104653 ∧ 156980 ≤ (156980 : Nat) ∧
    (104653 ≤ (156979 : Nat) ∧ 156979 < 156980) := by decide

theorem witness_QueuesAreEnabledAndDisabled :
    (getSq base (.vf .p0 3) 15).enable = false ∧ (getCq base (.vf .p0 3) 0).enable = false ∧ (getCq base (.vf .p0 3) 0).held = [] ∧
    (getCq base (.vf .p0 3) 0).posted = [] ∧ NoneHeld base (.vf .p0 3) :=
  ⟨by decide, by decide, by decide, by decide, noneHeld_of _ (by decide)⟩

theorem witness_DoorbellsMovePointers :
    ((getSq (queues base) (.vf .p0 3) 2).enable = true ∧
      (31 : W32).toNat % 2 ^ 16 < 2 ^ (getSq (queues base) (.vf .p0 3) 2).log2.toNat) ∧
    (getSq base (.vf .p0 3) 2).enable = false ∧
    2 ^ (getSq (queues base) (.vf .p0 3) 2).log2.toNat ≤ (32 : W32).toNat % 2 ^ 16 ∧
    (getCq (queues base) (.vf .p0 3) 1).enable = true ∧ (31 : W32).toNat % 2 ^ 16 < (getCq (queues base) (.vf .p0 3) 1).size ∧
    NoneHeld (queues base) (.vf .p0 3) :=
  ⟨by decide, by decide, by decide, by decide, by decide, noneHeld_of _ (by decide)⟩

/-- FENCE, without flags, from SQ 2 of VF 3. -/
def fenceRaw : Bytes := padTo 64 [0x01, 0x0F, 0, 0, 7]

/-- ABORT of round 5 as a P0 command: version 2 of the flags, counter 1. -/
def abortRaw : Bytes := padTo 64 ([0x02, 0x0F, 1, 0, 7, 0, 0, 0, 1] ++ List.replicate 23 0 ++ [5])

theorem witness_CommandsAreTaken :
    canFetch (queues (inRound .opened)) (.vf .p0 3) 2 = true ∧
    (∃ c s, drawCells (queues (inRound .opened)) (some 3) 2 = some (c, s)) ∧
    earlyChecks (queues (inRound .opened)) (.vf .p0 3) 1 (parseDesc fenceRaw) = none ∧
    (lateChecks (queues (inRound .opened)) (.vf .p0 3) (parseDesc fenceRaw)).1 = none ∧
    (commandRow (parseDesc fenceRaw).opcode).any isCritical = false ∧
    acceptsCommands (inRound .opened) (.vf .p0 3) = true ∧ (getSlot (inRound .opened) (.vf .p0 3) 3).busy = false ∧
    earlyChecks (inRound .opened) (.vf .p0 3) 0 (parseDesc abortRaw) = none ∧
    (getSlot (setSlot (inRound .opened) (.vf .p0 3) 0 { busy := true }) (.vf .p0 3) 0).busy = true := by
  refine ⟨by decide, ⟨_, _, rfl⟩, by decide, by decide, by decide, by decide, by decide, by decide, by decide⟩

/-- An ADMIT of partition 3 in flight. -/
def flying : State :=
  let s := takes (inRound .opened) (cmd3 0x0301 [5] 64)
  setPart s 3 { getPart s 3 with flights := [(ref3, { header := [], enc := [], client := 1, segs := [(0, [1])] })] }

theorem witness_PointerMismatchDisablesAQueue : cmd3 0x0301 [5] 64 ∈ flying.cmd.taken ∧
    0 = 8 * portNat (fnPort (cmd3 0x0301 [5] 64).ref.fn) + (cmd3 0x0301 [5] 64).order % 8 ∧
    envelopeReceived (getPart flying 3) (cmd3 0x0301 [5] 64).ref = false ∧
    ∃ f, Table.get? (getPart flying 3).flights (cmd3 0x0301 [5] 64).ref = some f :=
  ⟨by decide, by decide, by decide, _, rfl⟩

/-- An ABORT in a P0 slot of VF 3, which nobody has looked at, and a CQ that can take its completion. -/
def slotted : State := takes (setCq (inRound .opened) (.vf .p0 3) 0 { log2 := 5, enable := true }) { cmd3 0x0F02 [5] 0 with ref := ⟨.vf .p0 3, 16, 7⟩, cls := .p0, cells := { p0Slots := 2 } }

theorem witness_P0SlotsAreReset : let t := { cmd3 0x0F02 [5] 0 with ref := ⟨.vf .p0 3, 16, 7⟩, cls := .p0, cells := { p0Slots := 2 } };
    slotted.cmd.taken.filter (fun x => decide (x.ref.fn = .vf .p0 3 ∧ 16 ≤ x.ref.source) && (x.unproved || unseen x)) = [t] ∧
    (getPort slotted (fnPort (.vf .p0 3))).linkUp = true ∧ (getCq slotted (.vf .p0 3) (completionCq slotted t.ref)).held = [] ∧
    (getCq slotted (.vf .p0 3) (completionCq slotted t.ref)).enable = true ∧
    (getCq slotted (.vf .p0 3) (completionCq slotted t.ref)).isFull = false := by decide

/-- A function with one MSI-X vector, masked or not, and completions of CQ 1 that have not been signalled. -/
def unsignalled (m : Bool) : State :=
  let s := setCq base (.vf .p0 3) 1 { log2 := 5, vector := 1, enable := true, unsignalled := 2 }
  setFn s (.vf .p0 3) { getFn s (.vf .p0 3) with msix := [(1, { masked := m })] }

/-- The base state with partition 3 live, an event held for it, one held for the device, and CQ0 of its VF and of the PF enabled. -/
def holding : State :=
  let s := setCq (setCq (inRound .opened) (.vf .p0 3) 0 { log2 := 5, enable := true }) (.pf .p0) 0 { log2 := 5, enable := true }
  let t := setPart s 3 { getPart s 3 with events := [{ kind := .port, status := .ok }] }
  { t with cmd := { t.cmd with events := [{ kind := .queueReset, status := .ok }] } }

theorem witness_SignalsAndEventsArePosted :
    lodgedReady holding 3 { kind := .port, status := .ok } = true ∧
    (∀ m, (getCq (unsignalled m) (.vf .p0 3) 1).unsignalled ≠ 0 ∧
      (Table.getD (getFn (unsignalled m) (.vf .p0 3)).msix (getCq (unsignalled m) (.vf .p0 3) 1).vector.toNat {}).masked = m) ∧
    (servingFn holding 3 = some (.vf .p0 3) ∧ (getPart holding 3).events = [{ kind := .port, status := .ok }] ∧
      cqCanTake holding (.vf .p0 3) 0 = true ∧ (getCq holding (.vf .p0 3) 0).held = []) ∧
    holding.cmd.events = [{ kind := .queueReset, status := .ok }] ∧ cqCanTake holding (.pf .p0) 0 = true ∧
    (getCq holding (.pf .p0) 0).held = [] := by decide

theorem witness_RegisterWritesFollowTheirAccessCodes :
    registersOff base = false ∧ base.hub.bootState ≠ 1 ∧ base.hub.bootState ≠ 5 ∧
    inP0Page (.vf .p0 3) 0x14 = false ∧ ((3 : Nat) ≠ 4 ∧ (3 : Nat) ≠ 8) ∧ (0x16 : Nat) % 4 ≠ 0 ∧ (15 : Nat) < 16 ∧
    registersOff State.reset = true ∧ (getSq (queues base) (.vf .p0 3) 2).enable = true := by decide

theorem witness_ReadsShowTheFields :
    (∀ o, o ∈ [0x10000, 0x101F8, 0x103E0, 8] → o % 8 = 0 ∧ isWide (.vf .p0 3) o = true ∧
      Table.get? (getFn (hostRead base (.vf .p0 3) o 4).1 (.vf .p0 3)).latch (o + 4) = some (readWord base (.vf .p0 3) (o + 4))) ∧
    (∀ o, o ∈ [0x128, 0x110000, 0x1103E0, 0x600018, 0x700020, 0x800010, 0x800108] → o % 8 = 0 ∧ isWide (.pf .p1) o = true) ∧
    registersOff (hostRead base (.pf .p1) 0x800010 4).1 = false ∧ registersOff base = false ∧ base.hub.bootState ≠ 1 ∧ base.hub.bootState ≠ 5 ∧
    ((3 : Nat) ≠ 4 ∧ (3 : Nat) ≠ 8) ∧ (0x16 : Nat) % 4 ≠ 0 ∧ (15 : Nat) < 16 ∧ (getSq base (.vf .p0 3) 15).enable = false := by
  decide +kernel

/-- CMD.CAP and the window of a VF whose partition does not exist read as R282 and R283 say. -/
theorem test_reset_values_of_registers : readWord base (.pf .p0) 0x100004 = 0x00041040 ∧ readWord base (.vf .p1 5) 0x1C = 0x2000 ∧
    readWord base (.vf .p1 5) 0x00 = 0x000001C5 ∧ readWord base (.pf .p0) 0x700008 = 0x398 ∧ readWord base (.pf .p0) 0x700000 = 0x840 ∧
    readWord base (.pf .p0) 0x100014 = 0x800 ∧ readWord base (.pf .p0) 0x500004 = 0xE0E0 ∧ readWord base (.pf .p0) 0x100020 = 1 := by
  decide +kernel

-- ------------------------------------------------------------------ witnesses: entropy

/-- The base state with bank 3 as given. -/
def bank (k : Bank) : State := setBank base 3 k

theorem witness_BankStatesFollowTheirTable :
    (getBank (bank { state := .retired }) 3).state = .retired ∧ (getBank (bank { state := .failed, failures := 2 }) 3).state = .failed ∧
    (getBank (bank { state := .failed, failures := 2 }) 3).failures < 3 ∧
    ¬ ((getBank (bank { state := .failed, failures := 3 }) 3).state = .failed ∧
      (getBank (bank { state := .failed, failures := 3 }) 3).failures < 3) ∧
    -- the sixteenth equal sample, the 191st recurrence, and one that fails neither test
    (decide ((getBank (bank { rctSample := some 0, rctRun := 15 }) 3).rctSample = some (rawSample 0) ∧
      15 ≤ (getBank (bank { rctSample := some 0, rctRun := 15 }) 3).rctRun) = true) ∧
    (decide ((getBank (bank { aptPos := 511, aptFirst := 0, aptCount := 190 }) 3).aptPos ≠ 0 ∧
      rawSample 0 = (getBank (bank { aptPos := 511, aptFirst := 0, aptCount := 190 }) 3).aptFirst ∧
      190 ≤ (getBank (bank { aptPos := 511, aptFirst := 0, aptCount := 190 }) 3).aptCount) = true) ∧
    (decide ((getBank (bank { startup := 1023, rctRun := 15 }) 3).rctSample = some (rawSample 0) ∧
      15 ≤ (getBank (bank { startup := 1023, rctRun := 15 }) 3).rctRun) ||
     decide ((getBank (bank { startup := 1023, rctRun := 15 }) 3).aptPos ≠ 0 ∧
      rawSample 0 = (getBank (bank { startup := 1023, rctRun := 15 }) 3).aptFirst ∧
      190 ≤ (getBank (bank { startup := 1023, rctRun := 15 }) 3).aptCount)) = false ∧
    (getBank (bank { state := .healthy }) 3).state = .healthy ∧
    (base.pins.pwrgood = true ∧ base.power.state ≠ .sleep ∧ base.pins.thermtrip = false ∧ base.hub.bootState ≠ 4 ∧
      ({} : BootInputs).tamper = []) ∧
    State.reset.pins.pwrgood = false := by decide

/-- The base state with two blocks in the seed buffer. -/
def seeded : State := { base with entropy := { seeds := [List.replicate 32 1, List.replicate 32 2] } }

/-- The device instance owes a reseed after n requests in an interval. -/
def owing (s : State) (n interval : Nat) : State := setInst s 64 { live := true, count := n, interval := interval, owed := true }

/-- Instance 3, strict or not, owes a reseed, and no block is there; bank 0 is healthy or not. -/
def owing3 (strict healthy : Bool) (n : Nat) : State :=
  setInst (setBank { withP (liveP none) with entropy := { strict := if strict then 8 else 0 } } 0
    { state := if healthy then .healthy else .testing }) 3
    { live := true, count := n, interval := 65536, owed := true }

theorem witness_InstancesAreSeededAndDrawnFrom :
    (seedServes seeded 64 = true ∧ (getInst seeded 64).live = false ∧ (isStrict seeded 64 = false ∨ anyHealthy seeded = true)) ∧
    (let s := setInst { withP (liveP none) with entropy := { strict := 8, seeds := seeded.entropy.seeds } } 64 { live := true };
      seedServes s 3 = true ∧ (getInst s 3).live = false ∧ isStrict s 3 = true ∧ anyHealthy s = false) ∧
    ((getInst (owing seeded 65536 65536) 64).live = true ∧ (getInst (owing seeded 65536 65536) 64).owed = true ∧
      seedServes (owing seeded 65536 65536) 64 = true) ∧
    (∀ b, (getInst (owing3 b true 65536) 3).live = true ∧ (getInst (owing3 b true 65536) 3).owed = true ∧
      (getInst (owing3 b true 65536) 3).stalled = false ∧ seedServes (owing3 b true 65536) 3 = false ∧
      anyHealthy (owing3 b true 65536) = true ∧
      (if isStrict (owing3 b true 65536) 3 then 65536 else (getInst (owing3 b true 65536) 3).interval) ≤ (getInst (owing3 b true 65536) 3).count ∧
      isStrict (owing3 b true 65536) 3 = b) ∧ (65536 : Nat) < 2 ^ 24 ∧
    (isStrict (owing3 true false 9) 3 = true ∧ anyHealthy (owing3 true false 9) = false ∧ (getInst (owing3 true false 9) 3).owed = true) := by
  decide

theorem witness_CellsAreGeneratedAndDrawn :
    (refillNext (setInst base 64 { live := true, filling := true }) 64 = true ∧
      (getInst (setInst base 64 { live := true, filling := true }) 64).count <
        dueAt (setInst base 64 { live := true, filling := true }) 64 ∧ 0 < queueRoom (setInst base 64 { live := true, filling := true }) 64) ∧
    (consumerDraws .createNonce = (decide ((64 : Nat) = 64), [16]) ∧ consumerDraws .roundSecret = (decide ((3 : Nat) = 64), [32]) ∧
      (consumerDraws .finishKeys).1 = decide ((3 : Nat) = 64) ∧ (consumerDraws .createNonce).1 ≠ decide ((3 : Nat) = 64)) ∧
    ((getInst (fed (fed base 64) 3) 64).live = true ∧ (getInst (fed (fed base 64) 3) 3).queue = [1] :: [2] :: [[3]] ∧
      (getInst (fed (fed base 64) 3) 3).stalled = false) ∧
    ((getInst (setInst (fed base 64) 3 { live := true }) 3).queue = [] ∧ 0 < queueRoom (setInst (fed base 64) 3 { live := true }) 3 ∧
      (getInst (setInst (fed base 64) 3 { live := true }) 3).count < dueAt (setInst (fed base 64) 3 { live := true }) 3) ∧
    (getInst (setInst (fed base 64) 3 { live := true, stalled := true }) 3).stalled = true ∧
    ((getInst (fed base 64) 64).live = true ∧ (getInst (fed base 64) 64).queue = [1] :: [[2], [3]]) ∧
    (getInst base 64).live = false := by decide

-- ------------------------------------------------------------------ witnesses: records
-- What a record opens to is a matter of the opaque AEAD, so these witnesses take one equation about it and no other hypothesis.

/-- A record of session 1 with counter n, and zeros where its sealed segment of len bytes and tag stand. -/
def recordOf (type n len option : Nat) : Bytes := recordHeader type 0 1 n len option ++ List.replicate (len + 16) 0

/-- The AEAD opens that segment to a content. -/
def Opens (type n len option : Nat) (c : Bytes) : Prop :=
  Sys2Proof.Config.aeadOpen 0 [] (recordNonce n 0 0) (recordHeader type 0 1 n len option) (List.replicate (len + 16) 0) = some c

/-- A live session 1 with empty keys. -/
def sess : Session := { live := true, number := 1 }

/-- The framing of the record is right. -/
def framed (type n len option : Nat) : Bool :=
  let b := recordOf type n len option
  let h := recordHeader type 0 1 n len option
  decide (h = slice b 0 32 ∧ field h 4 4 = 1 ∧ field h 8 8 = n ∧ field h 0 2 = 1 ∧ field h 2 1 = type ∧ field h 3 1 = 0) &&
    zeros h 0x19 7 && recordTypes.contains type &&
    decide (b.length = 32 + recordBodyLen (field h 0x10 8) ∧ field h 0x18 1 = option ∧
      sealedSegments (slice b 32 (recordBodyLen (field h 0x10 8))) = [List.replicate (len + 16) 0])

theorem opens_record {type n len option : Nat} {c : Bytes} (hf : framed type n len option = true) (h : Opens type n len option c) :
    openRecord sess n type (recordOf type n len option) = .ok ⟨c, option, n⟩ := by
  simp only [framed, Bool.and_eq_true, decide_eq_true_eq] at hf
  obtain ⟨⟨⟨⟨h1, h2, h3, h4, h5, h6⟩, h7⟩, h8⟩, h9, h10, h11⟩ := hf
  rw [openRecord_ok h1 rfl h2 h3 h4 h5 h6 h7 h8 h9 (by rw [h11]; exact openSegments_one h), h10]

theorem framed_keys : framed 8 1 256 0 = true := by decide +kernel
theorem framed_end : framed 9 1 0 0 = true := by decide +kernel
theorem framed_install : framed 2 1 48 0 = true := by decide +kernel

/-- A content of n bytes that begins with b. -/
def contentOf (b : Bytes) (n : Nat) : Bytes := padTo n b

/-- A SESSION.START buffer: version 1, and zeros. -/
def startBuf : Bytes := padTo 0x6A8 [1]

/-- The base state with a key pair pending for VF 3 of port 0, and its SESSION.START taken. -/
def starting : State :=
  let s := takes (inRound .opened) (cmd3 0x0B01 [] 0x6A8)
  { s with keeper := { s.keeper with pendingEk := [(.vf .p0 3, ([1], List.replicate 32 0))] } }

theorem witness_SessionStartNeedsTheOwnersProof :
    KeeperReady starting ref3 0x0B01 (cmd3 0x0B01 [] 0x6A8) ∧ (cmd3 0x0B01 [] 0x6A8).ref = ref3 ∧ ref3.fn = .vf .p0 3 ∧
    Table.get? starting.keeper.pendingEk ref3.fn = some ([1], List.replicate 32 0) ∧ 0x6A8 ≤ (cmd3 0x0B01 [] 0x6A8).desc.length ∧
    field (startBuf.take 0x6A8) 0 2 = 1 ∧ zeros (startBuf.take 0x6A8) 2 6 = true ∧ zeros (startBuf.take 0x6A8) 0x668 24 = true ∧
    slice (startBuf.take 0x6A8) 0x008 32 = List.replicate 32 0 := by
  unfold KeeperReady Ready; decide +kernel

/-- A partition's command taken, with its session. -/
def session3 (op : Nat) (params : Bytes) (len : Nat) : State :=
  takes (withP { liveP (some (rnd .opened)) with session := sess }) (cmd3 op params len)

theorem witness_SessionRecordsActOnTheSession (c : Bytes) (h : Opens 8 1 256 0 (contentOf [0, 2, 1] 256)) (he : Opens 9 1 0 0 [])
    (hi : ideStream (.vf .p0 3) = 2) :
    (KeeperReady (session3 0x0B02 [] 304) ref3 0x0B02 (cmd3 0x0B02 [] 304) ∧
      openRecord (sessionOf (session3 0x0B02 [] 304) ref3.fn) 1 8 ((recordOf 8 1 256 0).take 304) = .ok ⟨contentOf [0, 2, 1] 256, 0, 1⟩ ∧
      (contentOf [0, 2, 1] 256).length = 256 ∧ zeros (contentOf [0, 2, 1] 256) 3 5 = true ∧ zeros (contentOf [0, 2, 1] 256) 248 8 = true ∧
      field (contentOf [0, 2, 1] 256) 0 1 ≤ 1 ∧ field (contentOf [0, 2, 1] 256) 2 1 ≤ 1 ∧
      field (contentOf [0, 2, 1] 256) 1 1 = ideStream (onPort ref3.fn .p0)) ∧
    (KeeperReady (session3 0x0B03 [] 48) ref3 0x0B03 (cmd3 0x0B03 [] 48) ∧
      openRecord (sessionOf (session3 0x0B03 [] 48) ref3.fn) 1 9 ((recordOf 9 1 0 0).take 48) = .ok ⟨[], 0, 1⟩) ∧
    openRecord (sessionOf (session3 0x0B03 [] 48) ref3.fn) 1 9 (c.take 0) = .error .authFail := by
  unfold KeeperReady Ready
  refine ⟨⟨by decide +kernel, ?_, by decide +kernel, by decide +kernel, by decide +kernel, by decide +kernel, by decide +kernel, ?_⟩,
    ⟨by decide +kernel, ?_⟩, by simp; rfl⟩
  · rw [show (recordOf 8 1 256 0).take 304 = recordOf 8 1 256 0 by decide +kernel]; exact opens_record framed_keys h
  · rw [show onPort ref3.fn .p0 = .vf .p0 3 by decide, hi]; decide +kernel
  · rw [show (recordOf 9 1 0 0).take 48 = recordOf 9 1 0 0 by decide +kernel]; exact opens_record framed_end he

/-- ATTEST taken on the PF, with or without the tamper lock, the identity ready and the device instance fed. -/
def attesting (locked : Bool) (len : Nat) : State :=
  let s := takes (fed base 64) (cmdPf 0x0C01 [] len)
  { s with keeper := { identity := true, locked := locked } }

theorem witness_DeviceAttests :
    (∀ b, KeeperReady (attesting b 70448) refPf 0x0C01 (cmdPf 0x0C01 [] 70448) ∧ 70448 ≤ (cmdPf 0x0C01 [] 70448).desc.length ∧
      (attesting b 70448).keeper.locked = b ∧ (attesting b 70448).keeper.identity = true ∧ (getInst (attesting b 70448) 64).stalled = false ∧
      (getInst (attesting b 70448) 64).live = true ∧ (getInst (attesting b 70448) 64).queue = [1] :: [[2], [3]]) ∧
    (KeeperReady (attesting false 70447) refPf 0x0C01 (cmdPf 0x0C01 [] 70447) ∧ (cmdPf 0x0C01 [] 70447).desc.length < 70448) ∧
    (base.pins.pwrgood = true ∧ base.islands.stalled.getLsbD 35 = false ∧ base.islands.stalled.getLsbD 30 = false ∧
      ({ base with islands := { stalled := 0x40000000 } } : State).islands.stalled.getLsbD 30 = true) ∧ (base.keeper.identity = false ∧ base.hub.bootState = 3 ∧ base.keeper.locked = false) := by
  unfold KeeperReady Ready; decide +kernel

/-- A KEY.INSTALL record's content: kind 1, handle 0x0100_0005, 32 bytes of key. -/
def installContent : Bytes := contentOf [1, 0, 0, 0, 5, 0, 0, 1, 32] 48

/-- KEY.ROTATE and, after it, KEY.INSTALL of another SQ, taken for partition 3. -/
def twoTaken : State :=
  let s := takes (withP (liveP none)) (cmd3 0x0701 [] 0)
  { s with cmd := { s.cmd with taken := s.cmd.taken ++ [{ cmd3 0x0702 [] 0 with ref := ⟨.vf .p0 3, 3, 9⟩, order := 1 }] } }

theorem witness_KeysAreRotatedInstalledAndDrained (h : Opens 2 1 48 0 installContent) :
    (∀ b, let s := takes (withP { liveP none with oldLive := b }) (cmd3 0x0701 [] 0);
      KeeperReadyOn s ref3 0x0701 (cmd3 0x0701 [] 0) 3 ∧ (getPart s 3).oldLive = b ∧ (getPart s 3).phase = .live) ∧
    (∀ b, stepRunning (setCv (takes (withP (liveP none)) (cmd3 0x0701 [] 0)) 5 { stepping := b, work := some (wk 0) }) 3 = b) ∧
    (findTaken twoTaken ⟨.vf .p0 3, 3, 9⟩ = some { cmd3 0x0702 [] 0 with ref := ⟨.vf .p0 3, 3, 9⟩, order := 1 } ∧
      inOrder twoTaken { cmd3 0x0702 [] 0 with ref := ⟨.vf .p0 3, 3, 9⟩, order := 1 } = false ∧
      (keeperNext twoTaken).map (fun x => x.order) = some 0 ∧ keeperNext twoTaken = some (cmd3 0x0701 [] 0) ∧
      cmd3 0x0701 [] 0 ∈ keeperMail twoTaken ∧ isHead twoTaken (keeperMail twoTaken) (cmd3 0x0701 [] 0) = true) ∧
    (KeeperReadyOn (session3 0x0702 [5, 0, 0, 1] 96) ref3 0x0702 (cmd3 0x0702 [5, 0, 0, 1] 96) 3 ∧
      openRecord (getPart (session3 0x0702 [5, 0, 0, 1] 96) 3).session 1 2 ((recordOf 2 1 48 0).take 96) = .ok ⟨installContent, 0, 1⟩ ∧
      installContent.length = 48 ∧ 1 ≤ handleKind 0x01000005 ∧ handleKind 0x01000005 ≤ 4 ∧ field installContent 0 1 = handleKind 0x01000005 ∧
      zeros installContent 1 3 = true ∧ field installContent 8 4 = 32 ∧ zeros installContent 12 4 = true ∧
      field installContent 4 4 = (cmd3 0x0702 [5, 0, 0, 1] 96).desc.param 0 4 ∧ handleIndex 0x01000005 ≤ 255) ∧
    (let k : DrainKey := { handle := 0x01000005, value := [1], bound := 0 }; let s := withP { liveP none with drains := [k] };
      (getPart s 3).drains = [k] ∧ drainInUse s 3 k = false) := by
  unfold KeeperReadyOn KeeperReady Ready
  refine ⟨by decide +kernel, by decide +kernel, by decide +kernel, ⟨by decide +kernel, ?_, by decide +kernel, by decide +kernel, by decide +kernel, by decide +kernel, by decide +kernel,
    by decide +kernel, by decide +kernel, by decide +kernel, by decide +kernel⟩, by decide +kernel⟩
  rw [show (recordOf 2 1 48 0).take 96 = recordOf 2 1 48 0 by decide +kernel]; exact opens_record framed_install h

-- ------------------------------------------------------------------ witnesses: partitions

theorem witness_PartitionCreation : let s := takes (fed base 64) (cmdPf 0x0101 [63, 1, 1, 1, 224] 0); let t := cmdPf 0x0101 [63, 1, 1, 1, 224] 0;
    KeeperReady s refPf 0x0101 t ∧ t.desc.param 0 1 ≤ 63 ∧ t.desc.param 1 1 ≤ 1 ∧ t.desc.param 2 1 ≤ 1 ∧ (getPart s 63).phase = .absent ∧
    0 < t.desc.param 3 1 ∧ 0 < t.desc.param 4 1 ∧ dieLost s 0 = false ∧ dieLost s 1 = false ∧ t.desc.param 3 1 ≤ freeGran s 0 ∧
    t.desc.param 4 1 ≤ freeGran s 1 ∧ (getInst s 64).live = true ∧ (getInst s 64).stalled = false ∧ (getInst s 64).queue = [1] :: [[2], [3]] := by
  unfold KeeperReady Ready; decide +kernel

theorem witness_CreationInstantiates : let s := takes (fed seeded 64) (cmdPf 0x0101 [63, 1, 1, 1, 224] 0);
    2 ≤ s.entropy.seeds.length ∧ s.entropy.erased = false ∧ (getInst s 63).live = false ∧ ∀ m, m < 65 → m ≠ 63 → wantsSeed s m = false := by
  decide +kernel

theorem witness_PartitionCreationWaits :
    (let s := takes (fed base 64) (cmdPf 0x0101 [63, 1, 1, 1, 225] 0); let t := cmdPf 0x0101 [63, 1, 1, 1, 225] 0;
      KeeperReady s refPf 0x0101 t ∧ (getPart s 63).phase = .absent ∧ 0 < t.desc.param 3 1 ∧ dieLost s 0 = false ∧ dieLost s 1 = false ∧
      freeGran s 1 < t.desc.param 4 1) ∧
    (let s := takes (withP { phase := .scrubbing }) (cmdPf 0x0101 [3, 1, 1, 1, 1] 0); let t := cmdPf 0x0101 [3, 1, 1, 1, 1] 0;
      KeeperReady s refPf 0x0101 t ∧ t.desc.param 1 1 ≤ 1 ∧ t.desc.param 2 1 ≤ 1 ∧ (getPart s (t.desc.param 0 1)).phase = .scrubbing) := by
  unfold KeeperReady Ready; decide +kernel

/-- PART.RELEASE of partition 3, whose work on caravan 5 has a step running or not. -/
def releasing (b : Bool) : State :=
  takes (setCv (inRound .opened) 5 { work := some (wk 0), stepping := b, owner := some 3 }) (cmdPf 0x0102 [3] 0)

/-- A step of partition 3 that has ended, the partition waiting for it to be erased. -/
def erasingStep : State :=
  setCv (withP { phase := .scrubbing, erasing := true }) 5 { work := some { wk 0 with ending := some 0 }, stepping := true, owner := some 3 }

theorem witness_PartitionReleaseErases :
    (∀ b, KeeperReady (releasing b) refPf 0x0102 (cmdPf 0x0102 [3] 0) ∧ stepRunning (releasing b) 3 = b ∧
      (getPart (releasing b) ((cmdPf 0x0102 [3] 0).desc.param 0 1)).phase = .live) ∧
    ((getCv erasingStep 5).stepping = true ∧ stepOver erasingStep 5 = true ∧
      (getCv erasingStep 5).work = some { wk 0 with ending := some 0 } ∧ (getPart erasingStep 3).phase = .scrubbing ∧
      (getPart erasingStep 3).erasing = true ∧
      stepRunning (setCv erasingStep 5 { getCv erasingStep 5 with work := none, stepping := false, openBuf := [], sealBuf := [] }) 3 = false) ∧
    ((withP { phase := .scrubbing }).keeper.locked = false ∧ (getPart (withP { phase := .scrubbing }) 3).phase = .scrubbing ∧
      (getPart (withP { phase := .scrubbing }) 3).erasing = false) ∧
    ((withP { phase := .absent }).keeper.locked = false ∧ (getPart (withP { phase := .absent }) 3).phase ≠ .scrubbing ∧
      (getPart (withP { phase := .absent }) 3).erasing = false) ∧
    ({ base with keeper := { locked := true } } : State).keeper.locked = true := by
  unfold KeeperReady Ready; decide +kernel

theorem witness_FailoverMovesService :
    (ReadyOn (session3 0x0103 [3, 1] 0) ref3 0x0103 (cmd3 0x0103 [3, 1] 0) 3 ∧ (cmd3 0x0103 [3, 1] 0).desc.param 1 1 ≤ 1 ∧
      (getPart (session3 0x0103 [3, 1] 0) 3).serving ≠ some (portOf ((cmd3 0x0103 [3, 1] 0).desc.param 1 1))) ∧
    (getPart (session3 0x0103 [3, 0] 0) 3).serving = some (portOf ((cmd3 0x0103 [3, 0] 0).desc.param 1 1)) := by
  unfold ReadyOn Ready; decide +kernel

/-- A FENCE behind an earlier command of the partition that has begun. -/
def fenced : State :=
  let s := takes (inRound .opened) { cmd3 0x0202 [5] 0 with ref := ⟨.vf .p0 3, 0, 1⟩, begun := true }
  { s with cmd := { s.cmd with nextOrder := 2, taken := s.cmd.taken ++ [{ cmd3 0x0F01 [] 0 with order := 1 }] } }

theorem witness_FenceAndQuiesce :
    (Ready (session3 0x0F01 [] 0) ref3 0x0F01 (cmd3 0x0F01 [] 0) ∧
      ∀ x, x ∈ (session3 0x0F01 [] 0).cmd.taken → ¬ (x.order < (cmd3 0x0F01 [] 0).order ∧ x.part = (cmd3 0x0F01 [] 0).part)) ∧
    (Ready fenced ref3 0x0F01 { cmd3 0x0F01 [] 0 with order := 1 } ∧
      { cmd3 0x0202 [5] 0 with ref := ⟨.vf .p0 3, 0, 1⟩, begun := true } ∈ fenced.cmd.taken ∧ (0 : Nat) < 1) ∧
    (ReadyOn (session3 0x0F03 [1] 0) ref3 0x0F03 (cmd3 0x0F03 [1] 0) 3 ∧ (cmd3 0x0F03 [1] 0).desc.param 0 1 % 2 = 1) ∧
    (ReadyOn (session3 0x0F03 [0] 0) ref3 0x0F03 (cmd3 0x0F03 [0] 0) 3 ∧ (cmd3 0x0F03 [0] 0).desc.param 0 1 % 2 = 0) ∧
    NoneErasing (session3 0x0F03 [1] 0) := by
  unfold ReadyOn Ready
  exact ⟨by decide +kernel, by decide +kernel, by decide +kernel, by decide +kernel, noneErasing_of (by decide)⟩

theorem witness_LostFunctionsAndPorts :
    (getPart (inRound .opened) 3).phase ≠ .absent ∧ (getPart (inRound .opened) 3).serving = some .p0 ∧
    (getPort (inRound .opened) .p0).autoFailover = true ∧ (3 : Nat) < 64 ∧ (inRound .opened).pins.pwrgood = true := by decide +kernel

-- ------------------------------------------------------------------ witnesses: opening and resuming a round

/-- The digest under which the tests' itinerary set is loaded. -/
def digest7 : Bytes := List.replicate 32 7

/-- The finish profile of R200: version 1, and 1.0. -/
def profile : Bytes := [1, 0, 0, 0, 0, 0, 0x80, 0x3F] ++ List.replicate 24 0

/-- The proof profile of R166 with proof_kind 0, a verify key and a peer key for aggregator 0. -/
def proof0 : Bytes := [1, 0] ++ List.replicate 14 0 ++ [1, 0, 0, 3, 1, 0, 0, 4] ++ List.replicate 40 0

/-- A set with the roles and profiles that rounds without a map need. -/
def setOf7 : ItinSet := { digest := digest7, itins := (List.range 5).map (fun r => (r, 0, [])), consts := [(4, 0, profile), (2, 0, proof0)] }

/-- Partition 3 with a granule of each die, its set, keys and weights. -/
def opener (r : Option Round) : State :=
  let x : Partition := { liveP r with
    session := sess, gran0 := [(0, 0)], gran1 := [(4, 0)], itins := [(0, setOf7)]
    keys := [(0x01000001, ⟨[1]⟩), (0x02000001, ⟨[2]⟩), (0x03000001, ⟨[3]⟩), (0x04000001, ⟨[4]⟩)]
    weights := some { optimiser := 0, vectorLength := 1, flat := [0], digest := [] } }
  fed (fed { withP x with hbm := { gran := [((0, 0), .owned 3), ((4, 0), .owned 3)] } } 3) 64

/-- The checks end with a round of one package. -/
def okAlone (e : Except Status Round) : Bool :=
  match e with
  | .ok r => r.circuit.isNone
  | .error _ => false

theorem ok_of_okAlone {e : Except Status Round} (h : okAlone e = true) : ∃ r, e = .ok r ∧ Alone r := by
  cases e with
  | error => cases h
  | ok r => exact ⟨r, rfl, by simpa [okAlone, Alone] using h⟩

/-- The 256 bytes of a masked-sum descriptor: round 5, one 32-bit element, four clients, degree and threshold 2, learning rate 1.0. -/
def openBytes : Bytes :=
  toLe 2 1 ++ toLe 1 0 ++ toLe 1 32 ++ toLe 4 5 ++ toLe 8 1 ++ toLe 8 1 ++ toLe 4 4 ++ toLe 1 32 ++ List.replicate 3 0 ++ toLe 8 1 ++
  toLe 2 2 ++ toLe 2 2 ++ List.replicate 68 0 ++ toLe 4 0 ++ toLe 4 0x3F800000 ++ List.replicate 12 0 ++ toLe 4 0x01000001 ++ toLe 4 0x02000001 ++
  List.replicate 4 0 ++ digest7 ++ List.replicate 80 0

/-- ROUND.OPEN of round 5 with its key record at 0x40. -/
def openCmd : Taken := cmd3 0x0201 [5, 0, 0, 0, 0, 0, 0, 0, 0x40] (48 + 256)

theorem framed_open : framed 1 1 256 0 = true := by decide +kernel

theorem witness_RoundOpens (h : Opens 1 1 256 0 openBytes) :
    ReadyOn (takes (opener none) openCmd) ref3 0x0201 openCmd 3 ∧ roundFree (takes (opener none) openCmd) 3 = none ∧
    openRecord (getPart (takes (opener none) openCmd) 3).session 1 1 ((recordOf 1 1 256 0).take 304) = .ok ⟨openBytes, 0, 1⟩ ∧
    descCheck2 (parseRound openBytes) openBytes 0 (openCmd.desc.param 0 4) = true ∧ keyRecordAddressOk (openCmd.desc.param 8 8) = true ∧
    descCheck3 (parseRound openBytes)
      ((namedItin (getPart (takes (opener none) openCmd) 3) (parseRound openBytes).itinDigest).map (fun e => e.2)) = true ∧
    (∃ r, lateRoundChecks (takes (opener none) openCmd) 3 (parseRound openBytes) 0 false = .ok r ∧ Alone r) ∧
    (getInst (takes (opener none) openCmd) 64).live = true ∧ (getInst (takes (opener none) openCmd) 3).live = true ∧
    (getInst (takes (opener none) openCmd) 3).stalled = false ∧ (getInst (takes (opener none) openCmd) 3).queue = [1] :: [[2], [3]] ∧
    ∃ v, drawOp (withP (liveP none)) 3 = ((.notReady, []), v) := by
  unfold ReadyOn Ready
  refine ⟨by decide +kernel, by decide +kernel, ?_, by decide +kernel, by decide +kernel, by decide +kernel, ?_, by decide +kernel, by decide +kernel,
    by decide +kernel, by decide +kernel, _, rfl⟩
  · rw [show (recordOf 1 1 256 0).take 304 = recordOf 1 1 256 0 by decide +kernel]; exact opens_record framed_open h
  · exact ok_of_okAlone (by decide +kernel)

/-- The 256 bytes of a share-sum descriptor of the second of two aggregators: round 5, one 64-bit element of F64. -/
def shareBytes : Bytes :=
  toLe 2 1 ++ toLe 1 1 ++ toLe 1 64 ++ toLe 4 5 ++ toLe 8 1 ++ toLe 8 1 ++ toLe 4 4 ++ [0, 1, 0, 0] ++ toLe 8 1 ++
  toLe 2 0 ++ toLe 2 0 ++ [2, 1] ++ List.replicate 86 0 ++ toLe 4 0x01000001 ++ toLe 4 0x02000001 ++
  List.replicate 4 0 ++ digest7 ++ List.replicate 80 0

/-- A checkpoint's body: the share-sum descriptor, a secret, W = 0, and zeros. -/
def ckptBody : Bytes := padTo 700 (shareBytes ++ List.replicate 32 9)

/-- Such a partition without a weight image. -/
def resumer : State := setPart (opener none) 3 { getPart (opener none) 3 with weights := none }

/-- ROUND.RESUME of round 5 with its key record at 0x40. -/
def resumeCmd : Taken := cmd3 0x0203 [5, 0, 0, 0, 0, 0, 0, 0, 0x40] 1000

theorem witness_RoundResumesAtTheWatermark (h : checkpointUnseal (takes resumer resumeCmd) ([1, 0, 1, 0, 5].take 1000) = some ckptBody) :
    ReadyOn (takes resumer resumeCmd) ref3 0x0203 resumeCmd 3 ∧ roundFree (takes resumer resumeCmd) 3 = none ∧
    keyRecordAddressOk (resumeCmd.desc.param 8 8) = true ∧
    checkpointUnseal (takes resumer resumeCmd) ([1, 0, 1, 0, 5].take resumeCmd.desc.length) = some ckptBody ∧
    field (([1, 0, 1, 0, 5] : Bytes).take resumeCmd.desc.length) 4 4 = resumeCmd.desc.param 0 4 ∧
    (parseBody ckptBody).desc.roundId.toNat = resumeCmd.desc.param 0 4 ∧
    ((namedItin (getPart (takes resumer resumeCmd) 3) (parseBody ckptBody).desc.itinDigest).bind (fun e =>
      (match circuitOf (parseBody ckptBody).desc e.2 with | .ok c => c | .error _ => none))) = none ∧
    loadedDigest (getPart (takes resumer resumeCmd) 3) (freshRound (parseBody ckptBody).desc (parseBody ckptBody).kem none) =
      (parseBody ckptBody).wDigest ∧
    ∃ r, lateRoundChecks (takes resumer resumeCmd) 3 (parseBody ckptBody).desc (parseBody ckptBody).kem true = .ok r ∧ Alone r := by
  unfold ReadyOn Ready
  exact ⟨by decide +kernel, by decide +kernel, by decide +kernel, h, by decide +kernel, by decide +kernel, by decide +kernel, by decide +kernel,
    ok_of_okAlone (by decide +kernel)⟩

-- ------------------------------------------------------------------ witnesses: the life of a round

/-- A command of partition 3 in a round in a state. -/
def inState (st : RoundState) (t : Taken) : State := takes (inRound st) t

theorem witness_RoundsCloseAndRetire :
    (ReadyOn (inState .opened (cmd3 0x0202 [5] 0)) ref3 0x0202 (cmd3 0x0202 [5] 0) 3 ∧
      NamedRound (inState .opened (cmd3 0x0202 [5] 0)) 3 (cmd3 0x0202 [5] 0) (rnd .opened) ∧ Alone (rnd .opened) ∧ (rnd .opened).lost = false) ∧
    (∀ r, getRound (inState .opened (cmd3 0x0202 [6] 0)) 3 = some r →
      r.desc.roundId.toNat ≠ (cmd3 0x0202 [6] 0).desc.param 0 4 ∨ r.state ≠ .opened ∨ r.lost = true) ∧
    (ReadyOn (inState .aborted (cmd3 0x0204 [5] 0)) ref3 0x0204 (cmd3 0x0204 [5] 0) 3 ∧
      NamedRound (inState .aborted (cmd3 0x0204 [5] 0)) 3 (cmd3 0x0204 [5] 0) (rnd .aborted)) ∧
    (getRound (withP (liveP (some { rnd .aborted with destroying := true }))) 3 = some { rnd .aborted with destroying := true } ∧
      stepRunning (withP (liveP (some { rnd .aborted with destroying := true }))) 3 = false) ∧
    (ReadyOn (inState .finishing (cmd3 0x0205 [5, 0, 0, 0, 1] 64)) ref3 0x0205 (cmd3 0x0205 [5, 0, 0, 0, 1] 64) 3 ∧
      NamedRound (inState .finishing (cmd3 0x0205 [5, 0, 0, 0, 1] 64)) 3 (cmd3 0x0205 [5, 0, 0, 0, 1] 64) (rnd .finishing) ∧
      (cmd3 0x0205 [5, 0, 0, 0, 1] 64).desc.param 4 1 ≤ 1) ∧
    (ReadyOn (inState .finishing (cmd3 0x0205 [5, 0, 0, 0, 2] 64)) ref3 0x0205 (cmd3 0x0205 [5, 0, 0, 0, 2] 64) 3 ∧
      1 < (cmd3 0x0205 [5, 0, 0, 0, 2] 64).desc.param 4 1) := by
  unfold ReadyOn Ready NamedRound Alone
  refine ⟨by decide +kernel, ?_, by decide +kernel, by decide +kernel, by decide +kernel, by decide +kernel⟩
  intro r h
  have : r = rnd .opened := by
    have e : getRound (inState .opened (cmd3 0x0202 [6] 0)) 3 = some (rnd .opened) := by decide +kernel
    rw [e] at h; exact (Option.some.inj h).symm
  subst this; exact Or.inl (by decide +kernel)

/-- An ABORT in P0 slot 0 whose verdict is still out, its partition with a command key. -/
def p0Abort : Taken :=
  { cmd3 0x0F02 [5] 0 with ref := ⟨.vf .p0 3, 16, 7⟩, cls := .p0, unproved := true, desc := { descOf 0x0F02 [5] 0 with flags := 1 } }

/-- The state in which it waits. -/
def judging (key : Option Bytes) : State := takes (withP { liveP (some (rnd .opened)) with cmdKey := key }) p0Abort

theorem witness_AbortEndsTheRound (h : commandTag [1] (tagPartByte ((commandRow 0x0F02).getD { opcode := 0, fns := .pf, classes := [] })
      (.vf .p0 3) p0Abort.desc) p0Abort.desc = p0Abort.desc.tag) :
    (ReadyOn (inState .opened (cmd3 0x0F02 [5] 0)) ref3 0x0F02 (cmd3 0x0F02 [5] 0) 3 ∧
      NamedRound (inState .opened (cmd3 0x0F02 [5] 0)) 3 (cmd3 0x0F02 [5] 0) (rnd .opened) ∧ (rnd .opened).secret ≠ []) ∧
    (verdictBefore (judging (some [1])) (.vf .p0 3) p0Abort.order = false ∧ islandWaits (judging (some [1])) p0Abort = false ∧
      verdictBefore (judging none) (.vf .p0 3) p0Abort.order = false ∧ islandWaits (judging none) p0Abort = false) ∧
    (unprovedOf (judging (some [1])) (.vf .p0 3) 0 = some p0Abort ∧ p0Abort.part = some 3 ∧
      ∃ s, lateChecks (judging (some [1])) (.vf .p0 3) p0Abort.desc = (none, s) ∧ NamedRound s 3 p0Abort (rnd .opened)) ∧
    (unprovedOf (judging none) (.vf .p0 3) 0 = some p0Abort ∧
      ∃ s, lateChecks (judging none) (.vf .p0 3) p0Abort.desc = (some (.authFail, {}), s)) := by
  unfold ReadyOn Ready NamedRound
  refine ⟨by decide +kernel, by decide +kernel, ⟨by decide +kernel, rfl, acceptCounter (judging (some [1])) (.vf .p0 3) 1, ?_, by decide +kernel⟩,
    by decide +kernel, _, rfl⟩
  have hr : commandRow 0x0F02 = some ((commandRow 0x0F02).getD { opcode := 0, fns := .pf, classes := [] }) := by decide +kernel
  have hk : (getPart (judging (some [1])) 3).cmdKey = some [1] := by decide +kernel
  have hc : isCritical ((commandRow 0x0F02).getD { opcode := 0, fns := .pf, classes := [] }) = true := by decide +kernel
  have h4 : check4 (judging (some [1])) ((commandRow 0x0F02).getD { opcode := 0, fns := .pf, classes := [] }) (.vf .p0 3) p0Abort.desc = none := by
    rw [check4, show p0Abort.desc.critical = true by decide, show fnPart (.vf .p0 3) = some 3 from rfl]
    simp only [hk, h]; simp
  rw [lateChecks, show p0Abort.desc.opcode = 0x0F02 from rfl, hr]
  simp only [hc, h4]
  rw [if_neg (by simp), if_neg (by decide +kernel)]; rfl

-- ------------------------------------------------------------------ witnesses: admission

/-- The fixed header of an envelope of client 2 for round 5. -/
def header2 : Bytes := toLe 2 1 ++ [0, 0] ++ toLe 4 5 ++ toLe 4 2 ++ toLe 4 1 ++ toLe 8 4 ++ List.replicate 8 0

/-- An OPEN round with journal space, and one in which client 2 has been admitted. -/
def roomy : Round := { rnd .opened with jCap0 := 10000, jCap1 := 10000 }
def with2 : Round := { roomy with index := [(2, 1)], nextSeq := 2 }

/-- Its ADMIT. -/
def admitCmd : Taken := cmd3 0x0301 [5] (envelopeLen roomy none 0)

/-- The flight of that ADMIT, its envelope's key in slot 1 or in none yet, its one segment staged, or passed. -/
def flight (segs : Table Nat Bytes) (passed : Table Nat Bool) (slot : Option Nat := none) : Flight :=
  { header := header2, enc := [], client := 2, segs := segs, passed := passed, slot := slot }

/-- The state in which the ADMIT is under way. -/
def admitting (r : Round) (f : Flight) : State := takes (withP { liveP (some r) with flights := [(ref3, f)] }) { admitCmd with waiting := true }

theorem witness_AdmitReservesAndWaits :
    (let s := takes (withP { liveP (some roomy) with quiesced := true }) admitCmd;
      ReadyOn s ref3 0x0301 admitCmd 3 ∧ (getPort s (fnPort ref3.fn)).linkUp = true ∧ (getPart s 3).quiesced = true) ∧
    (let s := takes (withP (liveP (some roomy))) admitCmd;
      ReadyOn s ref3 0x0301 admitCmd 3 ∧ (getPort s (fnPort ref3.fn)).linkUp = true ∧ (getPart s 3).quiesced = false ∧ NamedRound s 3 admitCmd roomy ∧
      roomy.state = .opened ∧ roomy.lost = false ∧ Alone roomy ∧ gateRefusal s 3 admitCmd = none ∧
      journalLacks roomy (proofOf (getPart s 3) roomy) = false ∧ headerChecks roomy (proofOf (getPart s 3) roomy) header2 admitCmd.desc.length = 0 ∧
      headerChecks roomy (proofOf (getPart s 3) roomy) [] admitCmd.desc.length ≠ 0) ∧
    ∃ c s, drawCells (takes (withP (liveP (some roomy))) admitCmd) (some 3) 2 = some (c, s) := by
  unfold ReadyOn Ready NamedRound Alone
  exact ⟨by decide +kernel, by decide +kernel, _, _, rfl⟩

theorem witness_SegmentsAreStagedAndPassed :
    (freeOpenSlot (getPart (admitting roomy (flight [] [])) 3) = some 1 ∧ (flight [] []).slot = none ∧ (flight [] [] (some 1)).slot = some 1 ∧
      (getPort (admitting roomy (flight [] [])) (fnPort ref3.fn)).linkUp = true ∧
      flightOf (admitting roomy (flight [] [])) ref3 = some (3, flight [] []) ∧ getRound (admitting roomy (flight [] [])) 3 = some roomy ∧
      (ownSegs roomy (proofOf (getPart (admitting roomy (flight [] [])) 3) roomy)).contains 0 = true ∧
      Table.has (flight [] []).segs 0 = false ∧ stageAt (admitting roomy (flight [] [])) (segDie roomy.desc 0) = some 0) ∧
    (let s := setCv (admitting roomy (flight [(0, [])] [])) 0 { duty := true, staged := [(ref3, 0)] };
      flightOf s ref3 = some (3, flight [(0, [])] []) ∧ getRound s 3 = some roomy ∧ (getCv s 0).duty = true ∧ (getCv s 0).stepping = false ∧
      cvServes s 0 = true ∧ s.keeper.locked = false ∧ stagedOnDie s 0 ref3 0 = true ∧
      chainEmptied s 0 = true) := by decide +kernel

theorem witness_AdmissionCommitsInOrder (r : Round) (hr : r = roomy ∨ r = with2)
    (hb : bodyChecks (getPart (admitting r (flight [(0, [])] [(0, true)])) 3) r none (flight [(0, [])] [(0, true)]) = 0) :
    findTaken (admitting r (flight [(0, [])] [(0, true)])) ref3 = some { admitCmd with waiting := true } ∧ admitCmd.desc.opcode = 0x0301 ∧
    flightOf (admitting r (flight [(0, [])] [(0, true)])) ref3 = some (3, flight [(0, [])] [(0, true)]) ∧
    field header2 4 4 = r.desc.roundId.toNat ∧ getRound (admitting r (flight [(0, [])] [(0, true)])) 3 = some r ∧ Alone r ∧ r.state = .opened ∧ r.lost = false ∧
    (∀ i, i ∈ ownSegs r (proofOf (getPart (admitting r (flight [(0, [])] [(0, true)])) 3) r) → Table.has (flight [(0, [])] [(0, true)]).passed i = true) ∧
    bodyChecks (getPart (admitting r (flight [(0, [])] [(0, true)])) 3) r
      (proofOf (getPart (admitting r (flight [(0, [])] [(0, true)])) 3) r) (flight [(0, [])] [(0, true)]) = 0 ∧
    Table.has r.index 2 = decide (r = with2) := by
  unfold Alone
  rcases hr with rfl | rfl
  · exact ⟨by decide +kernel, rfl, by decide +kernel, by decide +kernel, by decide +kernel, rfl, rfl, rfl, by decide +kernel, hb, by decide +kernel⟩
  · exact ⟨by decide +kernel, rfl, by decide +kernel, by decide +kernel, by decide +kernel, rfl, rfl, rfl, by decide +kernel, hb, by decide +kernel⟩

-- ------------------------------------------------------------------ witnesses: unmasking, shares, ciphertexts

/-- A round that unmasks for the survivors given, with no client besides, its tile folded. -/
def unmasking (l : List Nat) : Round :=
  { rnd .unmasking with desc := { rdesc with nMax := 0 }, survivors := l, tiles := [(0, { groups := 1 })] }

/-- A CLOSING round whose journal is too small to unmask in. -/
def small : Round := { rnd .closing with unmask := { tooBig := true } }

theorem witness_Unmasking :
    (ReadyOn (inState .closing (cmd3 0x0401 [5] 64)) ref3 0x0401 (cmd3 0x0401 [5] 64) 3 ∧
      NamedRound (inState .closing (cmd3 0x0401 [5] 64)) 3 (cmd3 0x0401 [5] 64) (rnd .closing) ∧ (rnd .closing).desc.mode = 0 ∧
      (rnd .closing).lost = false ∧ (rnd .closing).unmask.tooBig = false ∧ canStep (inState .closing (cmd3 0x0401 [5] 64)) 3 = true) ∧
    (ReadyOn (inState .opened (cmd3 0x0401 [5] 64)) ref3 0x0401 (cmd3 0x0401 [5] 64) 3 ∧
      NamedRound (inState .opened (cmd3 0x0401 [5] 64)) 3 (cmd3 0x0401 [5] 64) (rnd .opened)) ∧
    (ReadyOn (takes (withP (liveP (some small))) (cmd3 0x0401 [5] 64)) ref3 0x0401 (cmd3 0x0401 [5] 64) 3 ∧
      NamedRound (takes (withP (liveP (some small))) (cmd3 0x0401 [5] 64)) 3 (cmd3 0x0401 [5] 64) small ∧ small.unmask.tooBig = true) ∧
    canStep (takes (withP { liveP (some (rnd .closing)) with quiesced := true }) (cmd3 0x0401 [5] 64)) 3 = false ∧
    (getRound (inRound .closing) 3 = some (rnd .closing) ∧ (rnd .closing).lost = false ∧ (rnd .closing).unmask.tooBig = false ∧
      canStep (inRound .closing) 3 = true ∧ stepRoom (inRound .closing) .p2 = true ∧ stepRoom (withP {}) .p2 = true ∧
      canStep (withP {}) 3 = false) ∧
    (∀ l, l = [] ∨ l = [2] → getRound (withP (liveP (some (unmasking l)))) 3 = some (unmasking l) ∧ (unmasking l).state = .unmasking ∧
      (unmasking l).desc.mode = 0 ∧ (unmasking l).lost = false ∧
      (ownTiles (unmasking l)).contains 0 = true ∧ (getTile (unmasking l) 0).prim.phase = .accumulating ∧
      foldGroups (unmasking l) ≤ (getTile (unmasking l) 0).groups) := by
  unfold ReadyOn Ready NamedRound
  refine ⟨by decide +kernel, by decide +kernel, by decide +kernel, by decide +kernel, by decide +kernel, ?_⟩
  rintro l (rfl | rfl) <;> decide +kernel

/-- A CLOSING round of two clients, of which 1 has been dropped; its pair key stands wrapped, and both entries are installed. -/
def dropping : Round :=
  { rnd .closing with
    desc := { rdesc with nMax := 2 }, survivors := [0]
    unmask := { directory := [(0, []), (1, [])], secrets := [(1, { survivor := 0xFFFFFFFF, dropped := some 1, negative := false, wrapped := [], tag := [] })] } }

/-- A CLOSING round that requires nothing. -/
def nobody : Round := { rnd .closing with desc := { rdesc with nMax := 0 } }

theorem witness_SecretsAreReconstructed (ha : graphA dropping = 1) (hc : graphC dropping = 0)
    (hw : ∀ v, unwrapRec dropping 0 v = none) :
    (windowsGood nobody 0 = true ∧ badSecrets (tryReconstruct nobody 0) = []) ∧
    (windowsGood dropping 1 = true ∧ badSecrets (tryReconstruct dropping 1) ≠ []) := by
  have hn : neighbours dropping 1 = [0] := by simp only [neighbours, ha, hc]; decide +kernel
  have h0 : neighbours dropping 0 = [1] := by simp only [neighbours, ha, hc]; decide +kernel
  have hd : droppedNeeded dropping = [1] := by
    unfold droppedNeeded
    rw [show List.range dropping.desc.nMax = [0, 1] by decide]
    simp only [List.filter, hn, h0]; decide +kernel
  have ht : tryReconstruct dropping 1 = dropping := by
    unfold tryReconstruct
    rw [if_pos (Or.inr (Or.inl (by decide +kernel)))]
  refine ⟨by decide +kernel, by decide +kernel, ?_⟩
  rw [ht, badSecrets, hd]
  have hi : secretIndex dropping 1 = 0 := by unfold secretIndex; rw [hd]; decide +kernel
  simp only [List.filter, entriesNeeded, hn, hi]
  rw [show (Table.get? dropping.unmask.secrets 1) = some { survivor := 0xFFFFFFFF, dropped := some 1, negative := false, wrapped := [], tag := [] } by decide +kernel]
  simp only [Option.any_some, hw]
  decide +kernel

/-- A share-sum descriptor of aggregator 0 of two, whose owner sees the total. -/
def sdesc : RoundDesc := { rdesc with mode := 1, packedBits := 64, flags := 1 }

/-- A proof profile with proof_kind 1 and blocks of one element. -/
def proof1 : Bytes := [1, 0, 1, 1, 0, 0, 0, 0, 1] ++ List.replicate 55 0

/-- The journal record of client 2. -/
def jrec2 : JournalRec := { seq := 1, client := 2, header := [], segs := [], block := [] }

/-- A share-sum round with client 2 in the journal. -/
def shareRnd (st : RoundState) : Round :=
  { rnd st with desc := sdesc, index := [(2, 1)], nextSeq := 2, journal := [jrec2] }

/-- Partition 3 with such a round, and a set of digest [] that carries the profile. -/
def sharing (r : Round) : State := withP { liveP (some r) with itins := [(0, { digest := [], itins := [], consts := [(2, 0, proof1)] })] }

theorem canStep_sharing (r : Round) : canStep (sharing r) 3 = true := by
  have e : canStep (sharing r) 3 = canStep (sharing (shareRnd .opened)) 3 := by
    unfold canStep sharing withP; simp only [getPart_setPart_self]; rfl
  rw [e]; decide +kernel

/-- A verifier record of zeros. -/
def vrec0 : VRec := ⟨[], [], 0, 0⟩

/-- The records that the device writes for client 2 are n bytes. -/
def recordBytes (r : Round) : Bytes :=
  ((peersOf r.desc).map (fun b => sealToPeer (getPart (sharing r) 3) r.desc (parseProof proof1) 2 b
    (vrecBody (verifierRecord r.desc (parseProof proof1) (servingKey (getPart (sharing r) 3) r.desc (parseProof proof1).verify) 2
      (journalPayload r jrec2 (ownSegs r (some (parseProof proof1)))))))).flatten

theorem witness_SharesAreVerifiedAndDecided (n : Nat) (r : Round) (hn : (recordBytes r).length ≤ n)
    (hr : r = { shareRnd .opened with share := { outbuf := some (0, n, .p0), verified := [2] } }) :
    (getRound (sharing r) 3 = some r ∧ proofOf (getPart (sharing r) 3) r = some (parseProof proof1) ∧
      journalOf r 2 = some jrec2 ∧ (parseProof proof1).kind = 1 ∧ shareStates.contains r.state = true ∧ r.lost = false ∧
      Table.has r.share.own 2 = false ∧ r.share.verified.contains 2 = true ∧ canStep (sharing r) 3 = true ∧
      ∃ s1 r1, writeRecords (sharing r) 3 r ((peersOf r.desc).map (fun b => sealToPeer (getPart (sharing r) 3) r.desc (parseProof proof1) 2 b
        (vrecBody (verifierRecord r.desc (parseProof proof1) (servingKey (getPart (sharing r) 3) r.desc (parseProof proof1).verify) 2
          (journalPayload r jrec2 (ownSegs r (some (parseProof proof1)))))))) = some (s1, r1)) ∧
    (let q := { shareRnd .closing with share := { own := [(2, vrec0)], peers := [((2, 1), vrec0)] } };
      getRound (sharing q) 3 = some q ∧ journalOf q 2 = some jrec2 ∧ Table.get? q.share.own 2 = some vrec0 ∧
      shareStates.contains q.state = true ∧ (parseProof proof1).kind = 1 ∧ proofOf (getPart (sharing q) 3) q = some (parseProof proof1) ∧
      verdictOf q 2 = .undecided ∧
      (List.range q.desc.aggCount).map (fun b => if b = q.desc.aggIndex then some vrec0 else Table.get? q.share.peers (2, b)) =
        [vrec0, vrec0].map some) := by
  subst hr
  refine ⟨⟨rfl, rfl, rfl, by decide +kernel, rfl, rfl, rfl, rfl, canStep_sharing _, ?_⟩, by decide +kernel⟩
  unfold recordBytes at hn
  simp only [writeRecords, if_neg (Nat.not_lt.mpr hn)]
  exact ⟨_, _, rfl⟩

theorem witness_SharesAreSummed :
    (∀ op params, (op = 0x0501 ∧ params = [5]) ∨ (op = 0x0503 ∧ params = [5, 0, 0, 0, 2]) ∨ (op = 0x0502 ∧ params = [5]) →
      ReadyOn (takes (sharing (shareRnd .closing)) (cmd3 op params 0)) ref3 op (cmd3 op params 0) 3 ∧
      NamedRound (takes (sharing (shareRnd .closing)) (cmd3 op params 0)) 3 (cmd3 op params 0) (shareRnd .closing)) ∧
    (sdesc.mode = 1 ∧ (shareRnd .closing).lost = false ∧ shareStates.contains (shareRnd .closing).state = true ∧ (cmd3 0x0503 [5, 0, 0, 0, 2] 0).desc.param 4 4 < sdesc.nMax ∧ verdictOf (shareRnd .closing) 2 = .undecided ∧
      verdictOf { shareRnd .closing with share := { verdicts := [(2, .accept)] } } 2 ≠ .undecided) ∧
    (proofOf (getPart (sharing (shareRnd .closing)) 3) (shareRnd .closing) = some (parseProof proof1) ∧ (parseProof proof1).kind ≠ 0 ∧
      (([] : Bytes).take 0).length % vrecLen (parseProof proof1).chunk = 0 ∧
      (takeRecords (getPart (sharing (shareRnd .closing)) 3) (parseProof proof1)
        (pieces (vrecLen (parseProof proof1).chunk) []) (shareRnd .closing) none).2.2 = false) ∧
    (let r := { shareRnd .unmasking with share := { sumSent := true, sums := [(1, [])] } };
      ReadyOn (takes (sharing r) (cmd3 0x0504 [5] 0)) ref3 0x0504 (cmd3 0x0504 [5] 0) 3 ∧
      NamedRound (takes (sharing r) (cmd3 0x0504 [5] 0)) 3 (cmd3 0x0504 [5] 0) r ∧ r.state = .unmasking ∧ r.lost = false ∧
      proofOf (getPart (takes (sharing r) (cmd3 0x0504 [5] 0)) 3) r = some (parseProof proof1) ∧ seesTotal r.desc = true ∧
      r.share.combined = false ∧ r.share.sumSent = true ∧ (∀ b, b ∈ peersOf r.desc → Table.has r.share.sums b = true)) ∧
    ReadyOn (inState .opened (cmd3 0x0504 [5] 0)) ref3 0x0504 (cmd3 0x0504 [5] 0) 3 ∧
    (∀ r, getRound (inState .opened (cmd3 0x0504 [5] 0)) 3 = some r → r.state ≠ .unmasking) := by
  unfold ReadyOn Ready NamedRound
  refine ⟨?_, by decide +kernel, by decide +kernel, by decide +kernel, by decide +kernel, ?_⟩
  · rintro op params (⟨rfl, rfl⟩ | ⟨rfl, rfl⟩ | ⟨rfl, rfl⟩) <;> decide +kernel
  · intro r h; have e : getRound (inState .opened (cmd3 0x0504 [5] 0)) 3 = some (rnd .opened) := by decide +kernel
    rw [e] at h; cases h; decide

/-- A key set of one limb, with relinearisation, rotation and refresh keys under one fingerprint. -/
def keys9 (fp : Nat) : KeySet :=
  { fingerprint := 9, log2n := 1, limbs := 1, special := 1, digitLimbs := 1, refreshOut := 1, modulus := 17, freshBudget := 20, outBudget := 10
    primes := [17, 19], roots := [2, 2], levelCap := [20, 20], publicKey := [], evalKeys := [(0, 0, fp, []), (1, 1, fp, []), (2, 0, fp, [])] }

/-- A ciphertext of a channel. -/
def ct (ch : Nat) : Cipher := { level := 1, ntt := false, channel := ch, budget := 12, fingerprint := 9, body := [1, 2, 3, 4, 5, 6, 7, 8] }

/-- A cipher-sum round in CLOSING, whose channel 1 is leveled. -/
def crnd : Round := { rnd .closing with desc := { rdesc with mode := 2 } }

/-- Partition 3 with that round, the key set, and ciphertexts 1 and 2 of a channel. -/
def ciphers (fp ch : Nat) : State :=
  withP { liveP (some crnd) with keySets := [(0, keys9 fp)], store := [(1, ct ch), (2, ct ch)], nextHandle := 3, session := sess }

/-- A CT command on a channel. -/
def ctCmd (op ch len : Nat) (params : Bytes) : Taken :=
  { cmd3 op params len with desc := { descOf op params len with channel := BitVec.ofNat 8 ch } }

theorem witness_CipherOperationsMakeNewHandles :
    (let t := ctCmd 0x0601 1 0 [1, 0, 0, 0, 2]; let s := takes (ciphers 9 1) t;
      CtTurn s ref3 0x0601 t 3 crnd (keys9 9) ∧ leveledChannel crnd t = true ∧ t.desc.param 0 4 = 1 ∧ t.desc.param 4 4 = 2 ∧
      Table.get? (getPart s 3).store 1 = some (ct 1) ∧ Table.get? (getPart s 3).store 2 = some (ct 1)) ∧
    (let t := ctCmd 0x0601 2 0 [1, 0, 0, 0, 2]; let s := takes (ciphers 9 2) t;
      CtTurn s ref3 0x0601 t 3 crnd (keys9 9) ∧ leveledChannel crnd t = false ∧
      shortfall (keys9 9) crnd.desc.refreshThreshold (.add 1 2) (ct 2) = false) ∧
    (∀ fp, fp = 9 ∨ fp = 8 → let t := ctCmd 0x0603 1 0 [1]; let s := takes (ciphers fp 1) t;
      CtTurn s ref3 0x0603 t 3 crnd (keys9 fp) ∧ leveledChannel crnd t = true ∧
      Table.get? (getPart s 3).store (t.desc.param 0 4) = some (ct 1) ∧
      galoisKey (keys9 fp) (rotationElement (keys9 fp).log2n (t.desc.param 4 4) (bitAt (t.desc.param 8 1) 0)) =
        some (1, rotationElement (keys9 fp).log2n (t.desc.param 4 4) (bitAt (t.desc.param 8 1) 0), fp, [])) := by
  unfold CtTurn ReadyOn Ready
  refine ⟨by decide +kernel, by decide +kernel, ?_⟩
  rintro fp (rfl | rfl) <;> decide +kernel

/-- The content of a PLAIN record for handle 1 on channel 1, with two words. -/
def plainContent : Bytes := [1, 0, 0, 0, 1] ++ List.replicate 19 0

theorem framed_plain : framed 6 1 24 0 = true := by decide +kernel

/-- The same with its ciphertexts at level 0. -/
def spent (ch : Nat) : State :=
  setPart (ciphers 9 ch) 3 { getPart (ciphers 9 ch) 3 with store := [(1, { ct ch with level := 0 })] }

theorem witness_ProductsThatFallShort :
    (∀ ch, ch = 1 ∨ ch = 2 → let t := ctCmd 0x0602 ch 72 [1]; let s := takes (spent ch) t;
      CtTurn s ref3 0x0602 t 3 crnd (keys9 9) ∧ leveledChannel crnd t = decide (ch = 1) ∧
      Table.get? (getPart s 3).store 1 = some { ct ch with level := 0 }) ∧
    shortfall (keys9 9) crnd.desc.refreshThreshold (.pmul 1 0 [0, 0]) { ct 2 with level := 0 } = true := by
  unfold CtTurn ReadyOn Ready
  refine ⟨?_, by decide +kernel⟩
  rintro ch (rfl | rfl) <;> decide +kernel

theorem witness_PlaintextProductsTablesAndRefreshes (h : Opens 6 1 24 0 plainContent) :
    (let t := ctCmd 0x0602 1 72 [1]; let s := takes (ciphers 9 1) t;
      (CtTurn s ref3 0x0602 t 3 crnd (keys9 9) ∧ Table.has (getPart s 3).plains t.order = false ∧ leveledChannel crnd t = true ∧
        0 < (ct 1).level ∧ (getPart s 3).session.plainNo.all (fun n => decide (n < 1)) = true ∧ field plainContent 0 4 = t.desc.param 0 4 ∧
        field plainContent 4 1 = t.desc.channel.toNat ∧ plainContent.length = 8 + 8 * 2 ^ (keys9 9).log2n ∧ zeros plainContent 5 3 = true) ∧
      openRecord (getPart s 3).session t.desc.counter.toNat 6 ((recordOf 6 1 24 0).take t.desc.length) = .ok ⟨plainContent, 0, 1⟩) ∧
    (let t := ctCmd 0x0604 2 0 [1]; let s := takes (ciphers 9 2) t;
      CtTurn s ref3 0x0604 t 3 crnd (keys9 9) ∧ leveledChannel crnd t = false ∧ (ct 2).channel = t.desc.channel.toNat ∧
      Table.get? (getPart s 3).store (t.desc.param 0 4) = some (ct 2) ∧
      t.desc.param 4 1 ≤ 31 ∧ lutEntries (getPart s 3) crnd (keys9 9) (t.desc.param 4 1) = some []) ∧
    (let t := ctCmd 0x0604 2 0 [1, 0, 0, 0, 32]; let s := takes (ciphers 9 2) t;
      CtTurn s ref3 0x0604 t 3 crnd (keys9 9) ∧ 31 < t.desc.param 4 1) ∧
    (let t := ctCmd 0x0604 1 0 [1]; let s := takes (ciphers 9 1) t;
      CtTurn s ref3 0x0604 t 3 crnd (keys9 9) ∧ leveledChannel crnd t = true ∧
      Table.get? (getPart s 3).store (t.desc.param 0 4) = some (ct 1)) ∧
    (∀ ph l, (ph, l) ∈ [((1 : Nat), (15001 : Nat)), (5, 15000), (6, 0)] →
      let s := setPart (ciphers 9 2) 3 { getPart (ciphers 9 2) 3 with store := [(1, { ct 2 with refreshing := some { lut := 0, phase := ph, left := l } })] };
      canStep s 3 = true ∧ libraryOn s 3 1 = false ∧ stepRoom s .p3 = true ∧ ctRound s 3 = some (crnd, keys9 9) ∧
      Table.get? (getPart s 3).store 1 = some { ct 2 with refreshing := some { lut := 0, phase := ph, left := l } } ∧
      refreshMismatch (keys9 9) { ct 2 with refreshing := some { lut := 0, phase := ph, left := l } } = none) ∧
    ([5, 6, 7] ≠ ([] : List Nat) ∧ (16 + [5, 6, 7].length / 2) % 17 < [5, 6, 7].length) := by
  unfold CtTurn ReadyOn Ready
  refine ⟨⟨by decide +kernel, ?_⟩, by decide +kernel, by decide +kernel, by decide +kernel, ?_, by decide⟩
  case refine_2 =>
    intro ph l h
    simp only [List.mem_cons, Prod.mk.injEq, List.not_mem_nil, or_false] at h
    rcases h with ⟨rfl, rfl⟩ | ⟨rfl, rfl⟩ | ⟨rfl, rfl⟩ <;> decide +kernel
  show openRecord sess 1 6 ((recordOf 6 1 24 0).take 72) = _
  rw [show (recordOf 6 1 24 0).take 72 = recordOf 6 1 24 0 by decide +kernel]; exact opens_record framed_plain h

-- ------------------------------------------------------------------ witnesses: sets and weights

/-- The parameter block of R179 with N = 2^14, two limbs and one special prime, plain modulus 65,537. -/
def params14 : Bytes :=
  toLe 2 1 ++ [14, 2, 1, 1, 2, 0] ++ toLe 8 65537 ++ toLe 2 20 ++ toLe 2 10 ++ List.replicate 12 0 ++
  ([65537, 163841, 786433].map (fun p => toLe 8 p ++ toLe 8 (powMod (if p = 786433 then 10 else 3) ((p - 1) / 32768) p))).flatten ++
  toLe 2 20 ++ toLe 2 20

/-- A key set of those parameters, with a public key of zeros and no evaluation key. -/
def keysContent : Bytes := params14 ++ List.replicate 524288 0

theorem keys_are_read : ∃ k, readKeySet keysContent = .ok k := by
  have L : params14.length = 84 := by decide +kernel
  have l : keysContent.length = 84 + 524288 := by rw [keysContent, List.length_append, L, List.length_replicate]
  have F : ∀ o n, o + n ≤ 84 → field keysContent o n = field params14 o n := fun o n h => field_append _ _ (by omega)
  have Z : ∀ o n, o + n ≤ 84 → zeros keysContent o n = zeros params14 o n := by
    intro o n h
    unfold zeros slice keysContent
    rw [List.drop_append_of_le_length (by omega), List.take_append_of_le_length (by simp; omega)]
  have k2 : (parseKeySet keysContent).log2n = 14 := (F 2 1 (by omega)).trans (by decide +kernel)
  have k3 : (parseKeySet keysContent).limbs = 2 := (F 3 1 (by omega)).trans (by decide +kernel)
  have k4 : (parseKeySet keysContent).special = 1 := (F 4 1 (by omega)).trans (by decide +kernel)
  have k5 : (parseKeySet keysContent).digitLimbs = 1 := (F 5 1 (by omega)).trans (by decide +kernel)
  have k6 : (parseKeySet keysContent).refreshOut = 2 := (F 6 1 (by omega)).trans (by decide +kernel)
  have k8 : (parseKeySet keysContent).modulus = 65537 := (F 8 8 (by omega)).trans (by decide +kernel)
  have kp : (parseKeySet keysContent).primes = [65537, 163841, 786433] := by
    show (List.range (field keysContent 3 1 + field keysContent 4 1)).map (fun i => field keysContent (0x20 + 16 * i) 8) = _
    rw [F 3 1 (by omega), F 4 1 (by omega), show field params14 3 1 + field params14 4 1 = 3 by decide +kernel]
    simp only [List.range_succ, List.range_zero, List.nil_append, List.cons_append, List.map_cons, List.map_nil]
    rw [F _ _ (by omega), F _ _ (by omega), F _ _ (by omega)]; decide +kernel
  have kr : (parseKeySet keysContent).roots = [9, 243, 10 ^ 24 % 786433] := by
    show (List.range (field keysContent 3 1 + field keysContent 4 1)).map (fun i => field keysContent (0x28 + 16 * i) 8) = _
    rw [F 3 1 (by omega), F 4 1 (by omega), show field params14 3 1 + field params14 4 1 = 3 by decide +kernel]
    simp only [List.range_succ, List.range_zero, List.nil_append, List.cons_append, List.map_cons, List.map_nil]
    rw [F _ _ (by omega), F _ _ (by omega), F _ _ (by omega)]; decide +kernel
  have R : keySetRanges (parseKeySet keysContent) = true := by
    unfold keySetRanges; rw [k2, k3, k4, k5, k6, k8, kp, kr]; decide +kernel
  have P : paramBlockLen 2 1 + publicKeyLen 14 2 = 84 + 524288 := by decide +kernel
  have D : keysContent.drop (84 + 524288) = [] := List.drop_eq_nil_of_le (by omega)
  refine ⟨{ parseKeySet keysContent with evalKeys := [] }, ?_⟩
  unfold readKeySet
  simp only [k2, k3, k4, P, D, l, F 0 2 (by omega), Z 7 1 (by omega), Z 0x14 12 (by omega), R]
  rw [if_neg (by decide +kernel), if_neg (by decide), if_neg (by simp)]
  rfl

/-- A weight image of n words of SGD: W alone. -/
def image1 : Weights := { optimiser := 0, vectorLength := 1, flat := [7], digest := [] }

/-- A live partition with a key set and an itinerary set in slot i, in round 5 of digest []. -/
def loaded (i : Nat) (d : Bytes) : Partition :=
  { liveP (some (rnd .opened)) with keySets := [(i, keys9 9)], itins := [(i, { digest := d, itins := [], consts := [] })], session := sess }

theorem framed_weights : framed 5 1 4 0 = true := by decide +kernel

theorem witness_SetsAndWeightsAreLoaded (buf : Bytes) (hk : openRecord sess 1 3 (buf.take 600000) = .ok ⟨keysContent, 0, 1⟩)
    (hw : Opens 5 1 4 0 [1, 2, 3, 4]) :
    ((∃ k, let t := cmd3 0x0801 [] 600000; let s := session3 0x0801 [] 600000;
        KeeperReadyOn s ref3 0x0801 t 3 ∧ openRecord (getPart s 3).session t.desc.counter.toNat 3 (buf.take t.desc.length) = .ok ⟨keysContent, 0, 1⟩ ∧
        freeSetSlot (getPart s 3).keySets = some 0 ∧ readKeySet keysContent = .ok k) ∧
      (∀ i, i = 0 ∨ i = 3 → let t := cmd3 0x0802 [BitVec.ofNat 8 i] 0; let s := takes (withP (loaded i [])) t;
        ReadyOn s ref3 0x0802 t 3 ∧ i = t.desc.param 0 1 ∧ Table.get? (getPart s 3).keySets i = some (keys9 9) ∧
        roundNamesKeySet (getPart s 3) (keys9 9).fingerprint = false ∧ keySetBusy (getPart s 3) (keys9 9) = false) ∧
      (∀ i d, (i = 0 ∨ i = 3) ∧ (d = [] ∨ d = [1]) → let t := cmd3 0x0902 [BitVec.ofNat 8 i] 0; let s := takes (withP (loaded i d)) t;
        ReadyOn s ref3 0x0902 t 3 ∧ i = t.desc.param 0 1 ∧
        Table.get? (getPart s 3).itins i = some { digest := d, itins := [], consts := [] } ∧
        roundNamesItin (getPart s 3) { digest := d, itins := [], consts := [] } = decide (d = []) ∧ itinBusy s 3 i = false)) ∧
    (let t := cmd3 0x0802 [1] 0; let x := loaded 1 [];
      ReadyOn (takes (withP x) t) ref3 0x0802 t 3 ∧ Table.get? (loaded 0 []).keySets 1 = none ∧ Table.get? (loaded 0 []).itins 1 = none ∧
      roundNamesKeySet { x with round := some { rnd .opened with desc := { rdesc with mode := 2 } } } 9 = true ∧
      roundNamesKeySet { x with store := [(5, { ct 1 with refreshing := some { lut := 0 } })] } 9 = false ∧
      keySetBusy { x with store := [(5, { ct 1 with refreshing := some { lut := 0 } })] } (keys9 9) = true ∧
      itinBusy (setCv (withP (loaded 0 [])) 5 { work := some (wk 0) }) 3 0 = true) ∧
    ((let t := cmd3 0x0A01 [0] 52; let s := takes (withP { liveP none with session := sess }) t;
        (KeeperReadyOn s ref3 0x0A01 t 3 ∧ t.desc.param 0 1 = 0 ∧ weightsBusy s 3 = false ∧ ([1, 2, 3, 4] : Bytes).length = 4 * weightParts 0 * 1) ∧
        openRecord (getPart s 3).session t.desc.counter.toNat 5 ((recordOf 5 1 4 0).take t.desc.length) = .ok ⟨[1, 2, 3, 4], 0, 1⟩) ∧
      (let t := cmd3 0x0A01 [1] 52; let s := takes (withP { liveP none with session := sess, weights := some image1 }) t;
        KeeperReadyOn s ref3 0x0A01 t 3 ∧ t.desc.param 0 1 = 1 ∧ weightsBusy s 3 = false ∧ (getPart s 3).weights = some image1 ∧
        (getPart s 3).session.live = true ∧ 32 + recordBodyLen (wordsLe image1.flat).length ≤ t.desc.length) ∧
      (∀ d, d = 0 ∨ d = 1 → let t := cmd3 0x0A01 [BitVec.ofNat 8 d] 52; let s := takes (inRound .opened) t;
        KeeperReadyOn s ref3 0x0A01 t 3 ∧ weightsBusy s 3 = true ∧ (getPart s 3).weights = none ∧ t.desc.param 0 1 = d)) := by
  unfold KeeperReadyOn KeeperReady ReadyOn Ready
  obtain ⟨k, e⟩ := keys_are_read
  refine ⟨⟨⟨k, by decide +kernel, hk, by decide +kernel, e⟩, ?_, ?_⟩, by decide +kernel, ⟨by decide +kernel, ?_⟩, by decide +kernel, ?_⟩
  · rintro i (rfl | rfl) <;> decide +kernel
  · rintro i d ⟨rfl | rfl, rfl | rfl⟩ <;> decide +kernel
  · show openRecord sess 1 5 ((recordOf 5 1 4 0).take 52) = _
    rw [show (recordOf 5 1 4 0).take 52 = recordOf 5 1 4 0 by decide +kernel]; exact opens_record framed_weights hw
  · rintro d (rfl | rfl) <;> decide +kernel

/-- A set of R247 with one word, NOP, for each of the roles given. -/
def setBytes (roles : List Nat) : Bytes :=
  toLe 2 1 ++ toLe 2 roles.length ++ List.replicate 12 0 ++
  ((List.range roles.length).map (fun i => toLe 4 (roles.getD i 0) ++ toLe 4 (16 + 16 * roles.length + 8 * i) ++ toLe 4 1 ++ toLe 4 0)).flatten ++
  List.replicate (8 * roles.length) 0

theorem witness_SetsCarryEachRoleAtMostOnce (buf : Bytes) (roles : List Nat)
    (hr : openRecord sess 1 4 (buf.take 500) = .ok ⟨setBytes roles, 0, 1⟩) (hl : roles = [0, 6] ∨ roles = [6, 6] ∨ roles = [7]) :
    let t := cmd3 0x0901 [] 500; let s := session3 0x0901 [] 500;
    (KeeperReadyOn s ref3 0x0901 t 3 ∧ freeSetSlot (getPart s 3).itins = some 0) ∧
    openRecord (getPart s 3).session t.desc.counter.toNat 4 (buf.take t.desc.length) = .ok ⟨setBytes roles, 0, 1⟩ ∧
    ((parseSet (setBytes roles)).isSome = decide (roles = [0, 6])) := by
  unfold KeeperReadyOn KeeperReady Ready
  refine ⟨by decide +kernel, hr, ?_⟩
  rcases hl with rfl | rfl | rfl
  · unfold parseSet
    simp only
    rw [if_neg (by decide +kernel), show allSome ((chunks (field (setBytes [0, 6]) 2 2) 16 ((setBytes [0, 6]).drop 16)).map parseEntry) =
      some [(0, 0, 48, 1), (6, 0, 56, 1)] by decide +kernel]
    simp only
    rw [show parseCode (setBytes [0, 6]) (16 + 16 * field (setBytes [0, 6]) 2 2) [(0, 0, 48, 1), (6, 0, 56, 1)] =
      some ([(0, 0, [0]), (6, 0, [0])], 64) by decide +kernel]
    simp only
    rw [show parseConsts (field (setBytes [0, 6]) 4 4) ((setBytes [0, 6]).drop 64) = some [] by decide +kernel]
    simp only
    rw [if_pos (by decide +kernel)]; rfl
  · decide +kernel
  · decide +kernel

-- ------------------------------------------------------------------ witnesses: checkpoints, transitions, finishing, circuits

/-- A checkpoint of a round at W = 1. -/
def ck (exported done : Bool) : Ckpt := { w := 1, number := 1, batch := 1, final := false, exported := exported, mirrorDone := done }

/-- An OPEN round with one admission, swept, and a checkpoint. -/
def sweptRnd (len : Nat) (c : Option Ckpt) : Round :=
  { with2 with desc := { rdesc with vectorLength := len }, batchW := 1, batchNo := 1, sinceCkpt := 1, ckpt := c
               tiles := [(0, { prim := { watermark := 1, batch := 1 } })] }

theorem witness_CheckpointsRunToLodged :
    (∀ cause, cause = .interval ∨ cause = .final → let r := if cause = .final then { sweptRnd 1 none with state := .closing } else sweptRnd 1 none;
      getRound (withP (liveP (some r))) 3 = some r ∧ Alone r ∧ (r.state = .opened ∨ r.state = .closing) ∧ r.ckpt = none ∧ canClose r = true ∧ r.lost = false ∧
      (getPart (withP (liveP (some r))) 3).quiesced = false ∧ base.keeper.locked = false ∧ checkpointDue r cause = true) ∧
    (let r := { sweptRnd 1 (some (ck true true)) with index := [(2, 1), (1, 2)], nextSeq := 3 };
      getRound (withP (liveP (some r))) 3 = some r ∧ Alone r ∧ r.state = .opened ∧ r.ckpt = some (ck true true) ∧ canClose r = true ∧
      r.lost = false ∧ checkpointDue r .interval = true) ∧
    (∀ len ex, (len = 1 ∨ len = 600000) ∧ (ex = true ∨ ex = false) → let r := sweptRnd len (some (ck ex false));
      getRound (withP (liveP (some r))) 3 = some r ∧ r.ckpt = some (ck ex false) ∧ (ck ex false).mirrorDone = false ∧
      (ck ex false).mirrored.contains 0 = false ∧ (ownTiles r).contains 0 = true ∧ (getTile r 0).prim.watermark = (ck ex false).w ∧
      r.lost = false ∧ base.rel.crossDown = false ∧ canStep (withP (liveP (some r))) 3 = true ∧
      stepRoom (withP (liveP (some r))) (if drainWaits (withP (liveP (some r))) 3 0 then .p2 else .p3) = true ∧ decide ((insertNat 0 (ck ex false).mirrored).length < (ownTiles r).length) = decide (len = 600000)) ∧
    (let r := sweptRnd 1 (some (ck true true)); let s := fed (withP (liveP (some r))) 64;
      getRound s 3 = some r ∧ Alone r ∧ r.ckpt = some (ck true true) ∧ (ck true true).mirrorDone = true ∧ (ck true true).exported = true ∧
      r.lost = false ∧ admittedHeld s 3 (ck true true).w = false ∧ (getInst s 64).live = true ∧
      (getInst s 64).stalled = false ∧ (getInst s 64).queue = [1] :: [[2], [3]]) ∧
    drainWaits (setCv (withP (liveP none)) 5 { work := some { wk 0 with draining := some (0, []) } }) 3 0 = true := by
  unfold Alone
  refine ⟨?_, by decide +kernel, ?_, by decide +kernel, by decide +kernel⟩
  · rintro c (rfl | rfl) <;> decide +kernel
  · rintro len ex ⟨rfl | rfl, rfl | rfl⟩ <;> decide +kernel

/-- A CLOSING round without clients whose last share has been seen and whose final checkpoint is done. -/
def doneRnd : Round := { rnd .closing with desc := { rdesc with nMax := 0 }, finalDone := true, finalLodged := true, unmask := { lastSeen := true } }

/-- An UNMASKING round whose one tile is unmasked and mirrored, with noise to draw. -/
def unmaskedRnd : Round :=
  { rnd .unmasking with desc := { rdesc with dpSigma := 0x3F800000, flags := 2 }
                        tiles := [(0, { prim := { phase := .unmasked }, mirr := { phase := .unmasked }, mirrored := true })] }

theorem witness_InternalTransitionsOfTheRound :
    (getRound (withP (liveP (some doneRnd))) 3 = some doneRnd ∧ Alone doneRnd ∧ closingDone (withP (liveP (some doneRnd))) 3 doneRnd = true ∧ doneRnd.desc.mode = 0 ∧
      base.keeper.locked = false) ∧
    (∀ b, let r := { unmaskedRnd with desc := { unmaskedRnd.desc with dpSigma := if b then 0x3F800000 else 0 } };
      let s := fed (fed (withP (liveP (some r))) 3) 64;
      getRound s 3 = some r ∧ Alone r ∧ finishReady s 3 r = true ∧ s.keeper.locked = false ∧ drawsNoise r = b ∧
      (getInst s 64).live = true ∧ (getInst s 3).live = true ∧ (getInst s 3).stalled = false ∧ (getInst s 3).queue = [1] :: [2] :: [[3]]) ∧
    (let r := { rnd .finishing with finish := { pass := .exporting, confirmed := [1, 0] } };
      getRound (withP (liveP (some r))) 3 = some r ∧ Alone r ∧ r.state = .finishing ∧ r.lost = false ∧ base.keeper.locked = false ∧
      r.finish.pass ≠ .waitingEntropy ∧ nextImage r = none) := by
  unfold Alone; decide +kernel

/-- A FINISHING round in a pass, with space for its staging, whose one tile is in the state given. -/
def finishingRnd (pass : FinishPass) (x : Tile) : Round :=
  { rnd .finishing with finish := { pass := pass }, jCap0 := 100000, tiles := [(0, x)] }

/-- Its partition, with one weight. -/
def finishingOf (r : Round) : State := withP { liveP (some r) with weights := some image1 }

theorem canStep_finishing (r : Round) : canStep (finishingOf r) 3 = true := by
  have e : canStep (finishingOf r) 3 = canStep (finishingOf (rnd .opened)) 3 := by
    unfold canStep finishingOf withP; simp only [getPart_setPart_self]; rfl
  rw [e]; decide +kernel

-- How long a sealed image is, and so how many segments it has, depends on the opaque digests and AEAD: two premises say it.
theorem witness_FinishingCommits (k n : Nat) (hk : k = 1 ∨ k = 0) (r : Round) (hr : r =
      { finishingRnd .exporting {} with finish := { pass := .exporting, confirmed := if k = 1 then [] else [1], sealed := [0] }, outbufs := [(k, (0, n, .p0))] })
    (hn : (sealedImage (getPart (finishingOf r) 3) r k).length ≤ n) (hs : imageSegments (getPart (finishingOf r) 3) r k = 1) :
    (let q := finishingRnd .update { prim := { phase := .finished } };
      getRound (finishingOf q) 3 = some q ∧ q.state = .finishing ∧ q.lost = false ∧ canStep (finishingOf q) 3 = true ∧
      q.finish.pass = .update ∧ (∀ t, t ∈ ownTiles q → (getTile q t).prim.phase = .finished)) ∧
    (let q := finishingRnd .apply { staging := some [9] };
      getRound (finishingOf q) 3 = some q ∧ (getPart (finishingOf q) 3).weights = some image1 ∧ q.state = .finishing ∧
      q.finish.pass = .apply ∧ (ownTiles q).contains 0 = true ∧ q.lost = false ∧ canStep (finishingOf q) 3 = true ∧
      (getTile q 0).applyRec = .untouched ∧ (getTile q 0).staging = some [9]) ∧
    (let q := finishingRnd .apply { applyRec := .staged, staging := some [9] };
      getRound (finishingOf q) 3 = some q ∧ (getPart (finishingOf q) 3).weights = some image1 ∧ q.state = .finishing ∧
      q.finish.pass = .apply ∧ (ownTiles q).contains 0 = true ∧ q.lost = false ∧ canStep (finishingOf q) 3 = true ∧
      (getTile q 0).applyRec = .staged ∧ (getTile q 0).staging = some [9]) ∧
    (getRound (finishingOf r) 3 = some r ∧ r.state = .finishing ∧ r.finish.pass = .exporting ∧ nextImage r = some k ∧ r.lost = false ∧
      canStep (finishingOf r) 3 = true ∧ sealedWhole (getPart (finishingOf r) 3) r k = true ∧ Table.get? r.outbufs (if k = 1 then 1 else 0) = some (0, n, .p0) ∧
      (sealedImage (getPart (finishingOf r) 3) r k).length ≤ n ∧ (getPart (finishingOf r) 3).serving = some .p0 ∧ (getPort (finishingOf r) .p0).linkUp = true) ∧
    (let q := { finishingRnd .exporting {} with finish := { pass := .exporting, sealed := [0] } };
      getRound (finishingOf q) 3 = some q ∧ q.finish.pass = .exporting ∧ nextImage q = some 1 ∧ q.lost = false ∧ sealedWhole (getPart (finishingOf q) 3) q 1 = true ∧
      canStep (finishingOf q) 3 = true ∧ Table.get? q.outbufs 1 = none) := by
  refine ⟨by decide +kernel, by decide +kernel, by decide +kernel, ?_, by decide +kernel⟩
  refine ⟨by simp [getRound, finishingOf, withP, liveP], by subst hr; rfl, by subst hr; rfl, ?_, by subst hr; rfl, canStep_finishing r, ?_, ?_, hn, rfl, rfl⟩
  · subst hr; rcases hk with rfl | rfl <;> rfl
  · subst hr
    unfold sealedWhole; rw [hs]; rfl
  · subst hr; rcases hk with rfl | rfl <;> rfl

/-- A circuit of n members that start at tiles 0, 1, 2 …, as member self of it sees it. -/
def ring (n self : Nat) : Circuit :=
  { members := (List.range n).map (fun i => (i, 3, i)), self := self, routes := (List.range n).map (fun _ => (0, 1)) }

/-- A round of a circuit in a state, with a row over two tiles. -/
def ringRnd (st : RoundState) (c : Circuit) : Round :=
  { roomy with state := st, desc := { rdesc with vectorLength := 1048576, rowLength := 1048576 }, circuit := some c }

theorem witness_CircuitMembersJoinAndFollow :
    (∀ m, m = 1 ∨ m = 3 → let r := ringRnd .opened (ring 4 0); let s := withP { liveP none with opening := some r };
      (getPart s 3).opening = some r ∧ r.circuit = some (ring 4 0) ∧ (ring 4 0).self = 0 ∧ 0 < m ∧ m < (ring 4 0).members.length ∧
      (ring 4 0).joined.contains m = false ∧ (ring 4 0).joined.length + 2 < (ring 4 0).members.length) ∧
    (let r := ringRnd .finishing (ring 2 0);
      getRound (withP (liveP (some r))) 3 = some r ∧ r.circuit = some (ring 2 0) ∧ r.state = .finishing ∧ r.lost = false ∧
      ownsRow r 0 = true ∧ (rowOthers r 0).contains 1 = true ∧ (List.replicate 40 (0 : Byte)).length = 40) ∧
    (let r := ringRnd .opened (ring 2 1); let s := takes (withP { liveP (some r) with flights := [(ref3, flight [] [])] }) admitCmd;
      getRound s 3 = some r ∧ r.circuit = some (ring 2 1) ∧ (ring 2 1).self ≠ 0 ∧ clientFlight s 3 2 = some (admitCmd, flight [] [])) ∧
    (∀ m k, (m = 1 ∧ k = 2) ∨ (m = 2 ∧ k = 0) → let r := ringRnd .opened (ring 3 0);
      getRound (withP (liveP (some r))) 3 = some r ∧ r.circuit = some (ring 3 0) ∧ (ring 3 0).self = 0 ∧ 0 < m ∧
      m < (ring 3 0).members.length ∧ k < (ring 3 0).members.length ∧ k ≠ m ∧ Table.has (ring 3 0).verdicts (2, k) = false) ∧
    (∀ st, st = .opened ∨ st = .closing → let r := ringRnd st (ring 2 1);
      getRound (withP (liveP (some r))) 3 = some r ∧ r.circuit = some (ring 2 1) ∧ (ring 2 1).self ≠ 0 ∧ r.state = st) := by
  refine ⟨?_, by decide +kernel, by decide +kernel, ?_, ?_⟩
  · rintro m (rfl | rfl) <;> decide +kernel
  · rintro m k (⟨rfl, rfl⟩ | ⟨rfl, rfl⟩) <;> decide +kernel
  · rintro st (rfl | rfl) <;> decide +kernel

-- ------------------------------------------------------------------ witnesses: Falnyx

/-- The fields of a word that writes register d and reads register a, with a modifier. -/
def fw (d a m : Nat) : FWord := { w0 with dst := BitVec.ofNat 4 d, srcA := BitVec.ofNat 4 a, modif := BitVec.ofNat 4 m }

theorem witness_RegisterInstructionsCompute :
    (∀ op, op ∈ List.range 15 → ∀ m, m ∈ [0, 1, 3] → CanIssue (running (rnd .opened) op (fw 15 8 m) (wk 0)) 5 op (fw 15 8 m) (wk 0) (rnd .opened)) ∧
    (let s := running (rnd .opened) 0x00 w0 (wk 0);
      (getCv s 5).work = some (wk 0) ∧ (programOf (getPart s 3) (wk 0))[(wk 0).regs.pc.toNat]? ≠ some (wordOf 0x02 w0)) := by
  unfold CanIssue; dsimp only
  refine ⟨?_, ?_⟩ <;> decide +kernel

/-- The work with a value in X0. -/
def wkX (role v : Nat) : Work := { wk role with regs := setX {} 0 (BitVec.ofNat 64 v) }

/-- A work of the role on caravan 5, with keys of partition 3 in OPEN slots 0 and 1, FINISH slot 0 and SEAL slot 1, or without. -/
def keyed (b : Bool) (op : Nat) (f : FWord) (role : Nat) : State :=
  let s := running (rnd .finishing) op f (wk role)
  setCv s 5 { getCv s 5 with slots := if b then [((.opens, 3, 0), [1]), ((.opens, 3, 1), [2]), ((.finish, 3, 0), [3]), ((.seals, 3, 1), [4])] else [] }

theorem witness_MarkersArmTheirStages :
    (∀ c, c ∈ [1, 8] → let f := { w0 with cls := BitVec.ofNat 4 c }; CanIssue (running (rnd .opened) 0x13 f (wk 0)) 5 0x13 f (wk 0) (rnd .opened)) ∧
    (∀ b e, e ∈ [(0, 1), (2, 7), (3, 7)] → let f := { w0 with modif := BitVec.ofNat 4 e.1, imm := BitVec.ofNat 32 e.2 };
      let s := keyed b 0x20 f 0;
      CanIssue s 5 0x20 f (wk 0) (rnd .finishing) ∧ (slotKey s 5 .opens 3 (if f.modif = 2 then 0 else f.imm.toNat)).isSome = (b && decide (e.1 ≠ 3))) ∧
    (∀ op, op ∈ [0x28, 0x40, 0x41, 0x42, 0x50, 0x60, 0x70, 0x71, 0x80, 0x82, 0x83, 0x91] →
      CanIssue (running (rnd .opened) op w0 (wk 0)) 5 op w0 (wk 0) (rnd .opened)) ∧
    (∀ v, v ∈ [0, 1, 4096, 4097] → CanIssue (running (rnd .opened) 0x31 w0 (wkX 0 v)) 5 0x31 w0 (wkX 0 v) (rnd .opened) ∧
      (decide (1 ≤ (getX (wkX 0 v).regs w0.srcB).toNat ∧ (getX (wkX 0 v).regs w0.srcB).toNat ≤ 4096) = decide (v ∈ [1, 4096]))) ∧
    (∀ v, v ∈ [0, 1, 8191, 8193] → let f := { w0 with imm := BitVec.ofNat 32 v };
      CanIssue (running (rnd .opened) 0x72 f (wk 0)) 5 0x72 f (wk 0) (rnd .opened) ∧
      (decide (f.imm.toNat % 2 = 1 ∧ f.imm.toNat < 2 ^ ((rnd .opened).desc.log2n + 1)) = decide (v ∈ [1, 8191]))) ∧
    (∀ b, let f := { w0 with imm := 1 };
      CanIssue (keyed b 0x81 w0 2) 5 0x81 w0 (wk 2) (rnd .finishing) ∧ (slotKey (keyed b 0x81 w0 2) 5 .finish 3 0).isSome = b ∧
      CanIssue (keyed b 0x90 f 4) 5 0x90 f (wk 4) (rnd .finishing) ∧ (slotKey (keyed b 0x90 f 4) 5 .seals 3 1).isSome = b) ∧
    (∀ role, role ∈ [2, 3] → CanIssue (running (rnd .finishing) 0x84 w0 (wk role)) 5 0x84 w0 (wk role) (rnd .finishing)) := by
  unfold CanIssue; dsimp only
  refine ⟨?_, ?_, ?_, ?_, ?_, ?_, ?_⟩ <;> decide +kernel

/-- A round with one vault record, and a descriptor of it in space VAULT. -/
def vaultRec : VaultRec := { survivor := 1, dropped := none, negative := true, wrapped := [], tag := [] }
def vaultRnd : Round := { rnd .unmasking with unmask := { vault := [(0, vaultRec)] } }
def vaultDesc : StreamDesc := BitVec.ofNat 256 (7 * 2 ^ 48 + 1 * 2 ^ 64)

/-- A work with a descriptor in S0. -/
def wkS (d : StreamDesc) : Work := { wk 1 with regs := setS {} 0 d }

/-- A work that would link on caravan 5, the next of its chain on caravan 6, while another chain of the die holds a ring of n units. -/
def linking (w : Work) (n : Nat) : State :=
  let s := setCv (running (rnd .opened) 0x10 w0 w) 6 { work := some { wk 0 with linked := true, ringUnits := 16, chained := some 1 } }
  setCv (setCv s 7 { work := some { wk 0 with part := 2, linked := true, ringUnits := n, chained := some 0 } })
    8 { work := some { wk 0 with part := 2, linked := true, ringUnits := 16, chained := some 3 } }

theorem witness_ControlInstructionsActOnTheWork (hv : unwrapRec vaultRnd 0 vaultRec = some [9]) :
    (∀ op, op ∈ [0x0A, 0x0B, 0x10, 0x12] → CanIssue (running (rnd .opened) op w0 (wk 0)) 5 op w0 (wk 0) (rnd .opened)) ∧
    (chainStill (running (rnd .opened) 0x0B w0 (wk 0)) 5 (wk 0) = true ∧ (rnd .opened).state ≠ .aborted ∧ (rnd .opened).state ≠ .retired ∧ (wk 0).chained = none ∧
      (getPart (running (rnd .opened) 0x0B w0 (wk 0)) 3).phase = .live ∧ NoneErasing (running (rnd .opened) 0x0B w0 (wk 0)) ∧
      ∀ m, m ∈ [0, 1, 2, 3] → waitReady m (wk 0) = true) ∧
    (let w := { wk 0 with ring := [1], chained := some 0 };
      CanIssue (running (rnd .opened) 0x0B w0 w) 5 0x0B w0 w (rnd .opened) ∧
      chainStill (running (rnd .opened) 0x0B w0 w) 5 w = false ∧ waitReady 3 w = false ∧
      (getCv (running (rnd .opened) 0x0B w0 w) 5).work = some w) ∧
    CanIssue (running (rnd .opened) 0x0B (fw 7 0 1) (wk 0)) 5 0x0B (fw 7 0 1) (wk 0) (rnd .opened) ∧
    (∀ b n, n ∈ [224, 225] → let w := { wk 0 with chained := some 3, swept := b };
      CanIssue (linking w n) 5 0x10 w0 w (rnd .opened) ∧ w.chained.isSome = true ∧ w.swept = b ∧
      decide (ringUnitsOn (setWork (linking w n) 5 { w with chained := some (w0.imm.toNat % 4), linked := true, ringUnits := 16 }) (dieOf 5)
        ≤ 240) = decide (n = 224)) ∧
    (∀ b, let w := { wkS vaultDesc with flow := if b then [.load ⟨0, 0, 1⟩] else [] };
      CanIssue (running vaultRnd 0x30 w0 w) 5 0x30 w0 w vaultRnd ∧ vaultDesc = getS w.regs w0.srcA ∧ Machine.descOk vaultDesc = true ∧
      descSpace vaultDesc = 7 ∧ descKind vaultDesc = 0 ∧ descBase vaultDesc + descLength vaultDesc ≤ vaultRnd.unmask.vault.length ∧
      slotsBusy w (getX w.regs w0.srcB).toNat (descLength vaultDesc) = b) ∧
    fillSeeds vaultRnd [] ⟨0, 0, 1⟩ = some [(0, (0, true, [9]))] ∧
    (let w := wkS 0; CanIssue (running vaultRnd 0x30 w0 w) 5 0x30 w0 w vaultRnd ∧ descSpace (getS w.regs w0.srcA) ≠ 7) := by
  unfold CanIssue
  refine ⟨by decide +kernel, ⟨by decide +kernel, by decide +kernel, by decide +kernel, by decide +kernel, by decide +kernel,
    noneErasing_of (by decide +kernel),
    by decide +kernel⟩, by decide +kernel, by decide +kernel, by decide +kernel, by decide +kernel, ?_, by decide +kernel⟩
  have hg : Table.get? vaultRnd.unmask.vault 0 = some vaultRec := rfl
  have hn : vaultRec.negative = true := rfl
  simp [fillSeeds, List.range_succ, hg, hv, hn, Table.put]

/-- A sweep has its effect. -/
def okSweep {ε : Type} (e : Except ε State) : Bool :=
  match e with
  | .ok _ => true
  | .error _ => false

theorem witness_SweepsAreCheckedAndEnterTheChain :
    (∀ fl, fl ∈ [[], [ChainItem.swap false]] → let w := { wk 0 with flow := fl }; let s := running (rnd .opened) 0x11 w0 w;
      CanIssue s 5 0x11 w0 w (rnd .opened) ∧ sweepsOut w < 8 ∧ w.chained = none ∧ w.exitQ = [] ∧ descSpace (getS w.regs w0.srcA) ≠ 6 ∧
      (let v := { nextWork w with swept := true }; let u := setCv s 5 (issuedCv (getCv s 5) w v);
        let n := entryBeats (envOf u 5 v (rnd .opened)) w.chain 0 0;
        n ≤ (getCv s 5).entryLeft ∧
        okSweep (sweepEffect (setCv u 5 { getCv u 5 with entryLeft := (getCv s 5).entryLeft - n, work := some { v with flow := [] } }) 5
          { v with flow := [] } (rnd .opened) w.chain 0 none 0 []) = true) ∧
      sweepFault (envOf s 5 (nextWork w) (rnd .opened)) w.chain (getS w.regs w0.srcA) none w0.imm.toNat = none) ∧
    (let s := running (rnd .opened) 0x11 (fw 1 0 1) (wk 0);
      CanIssue s 5 0x11 (fw 1 0 1) (wk 0) (rnd .opened) ∧ sweepsOut (wk 0) < 8 ∧
      sweepFault (envOf s 5 (nextWork (wk 0)) (rnd .opened)) (wk 0).chain (getS (wk 0).regs 0) (some (getS (wk 0).regs 1)) 0 = some .malformed) ∧
    (let w := { wk 0 with flow := List.replicate 8 (.sweep {} 0 none 0 0 []) }; let s := running (rnd .opened) 0x11 w0 w;
      (getCv s 5).work = some w ∧ getRound s w.part = some (rnd .opened) ∧ 8 ≤ sweepsOut w) := by
  unfold CanIssue; dsimp only
  refine ⟨?_, ?_, ?_⟩ <;> decide +kernel

/-- A set that holds tile 0 in a state. -/
def setIn (st : SetState) : LedgerSet := { state := st, tile := 0, data := [4], check := setWords rdesc false [4] }

theorem witness_LedgerSetsLoadSwapAndDrain :
    (∀ i, i ∈ [0, 1] → let w := { wk 0 with swapsIssued := i }; let s := running (rnd .opened) 0x53 w0 w;
      CanIssue s 5 0x53 w0 w (rnd .opened) ∧ w.shadowQ = [] ∧ w.draining = none ∧ (w.swapsDone < w.swapsIssued ↔ i = 1) ∧
      (shadowSet w).state ≠ .draining ∧ heldElsewhere s w.part 5 ((getL w.regs w0.srcA).toNat % 2 ^ 32) = false ∧
      (ownTiles (rnd .opened)).contains ((getL w.regs w0.srcA).toNat % 2 ^ 32) = true ∧
      (getL w.regs w0.srcA).toNat % 2 ^ 32 % 2 = dieOf 5 ∧ (activeSet w).state = .empty) ∧
    (let w := { wk 0 with setB := setIn .held }; let s := running (rnd .opened) 0x52 w0 w;
      CanIssue s 5 0x52 w0 w (rnd .opened) ∧ w0.modif.getLsbD 0 = false ∧ w.shadowQ = [] ∧ w.draining = none ∧
      w.swapsIssued ≤ w.swapsDone ∧ (shadowSet w).state = .held ∧ setAgrees (rnd .opened).desc (shadowSet w) = true) ∧
    (let f := fw 0 0 1; let w := { wk 0 with setB := setIn .held }; let s := running (rnd .opened) 0x52 f w;
      CanIssue s 5 0x52 f w (rnd .opened) ∧ f.modif.getLsbD 0 = true ∧ w.shadowQ = [] ∧ w.draining = none ∧
      backReady s 5 w.chain = true ∧
      routedFault (envOf (setCv s 5 (issuedCv (getCv s 5) w (nextWork w))) 5 (nextWork w) (rnd .opened)) (routedChain w.chain) = none ∧
      (let op : ShadowOp := ⟨false, (getL w.regs f.srcA).toNat % 2 ^ 32, (getL w.regs f.srcA).getLsbD 32, true, w.swapsIssued, w.chain⟩;
        let v := { nextWork w with shadowQ := [op] }; let b := setCv s 5 (issuedCv (getCv s 5) w v);
        slotsEmpty (envOf b 5 v (rnd .opened)) (routedChain w.chain) = false ∧
        (routedData b 5 (envOf b 5 v (rnd .opened)) op (shadowSet w).data).2.any (fun o => !o.2.good) = false)) ∧
    (∀ w, w ∈ [{ wk 0 with shadowQ := List.replicate 3 ⟨true, 0, false, false, 1, {}⟩, setB := setIn .loading },
        { wk 0 with shadowQ := List.replicate 3 ⟨true, 0, false, false, 1, {}⟩, draining := some (0, []) }] →
      (getCv (running (rnd .opened) 0x53 w0 w) 5).work = some w ∧
      4 ≤ w.shadowQ.length + (if w.draining.isSome then 1 else 0) + (if (shadowSet w).state = .loading then 1 else 0)) ∧
    (∀ m, m ∈ [0, 1] → CanIssue (running (rnd .opened) 0x51 (fw 0 0 m) (wk 0)) 5 0x51 (fw 0 0 m) (wk 0) (rnd .opened) ∧
      (fw 0 0 m).modif.getLsbD 0 = decide (m = 1) ∧ (wk 0).loadSince = false) ∧
    (∀ b, let w := { wk 0 with flow := [.swap b], swapsIssued := 1, setB := if b then {} else setIn .held };
      let s := running (rnd .opened) 0x00 w0 w;
      (getCv s 5).work = some w ∧ getRound s w.part = some (rnd .opened) ∧ w.stopped = false ∧ w.shadowQ = [] ∧ w.draining = none ∧
      w.chained = none ∧ (shadowSet (settleLoad w)).state = (if b then .empty else .held)) ∧
    (∀ role, role ∈ [0, 2, 1] → let w := { wk role with setB := setIn .draining, draining := some (0, [4]), args := [0, 1], batchW := 1 };
      let s := running (rnd .opened) 0x00 w0 w;
      (getCv s 5).work = some w ∧ getRound s w.part = some (rnd .opened) ∧ w.stopped = false ∧ mirrorWaits w (rnd .opened) 0 = false ∧
      w.shadowQ = [] ∧ (rnd .opened).state ≠ .aborted ∧ (rnd .opened).lost = false ∧ (getTile (rnd .opened) 0).prim.watermark < w.batchW ∧
      (runTiles w.args).contains 0 = true ∧ argNat w.args 0 = 0 ∧ (rnd .opened).desc.mode ≠ 1) := by
  unfold CanIssue; dsimp only
  refine ⟨?_, ?_, ?_, ?_, ?_, ?_, ?_⟩ <;> decide +kernel

/-- A partition with the key set and ciphertexts 1 and 2 of a channel, for library routines. -/
def libraryOf (ch : Nat) (op : Nat) (f : FWord) (w : Work) : State :=
  runsIn { liveP none with keySets := [(0, keys9 9)], store := [(1, ct ch), (2, ct ch)], nextHandle := 3 } crnd op f w

theorem witness_LibraryRoutinesRun :
    (∀ ch, ch ∈ [0, 1] → let f := { w0 with dst := 15, imm := 1 }; let w := wkX 6 1;
      let r := { crnd with desc := { crnd.desc with refreshThreshold := 11 } };
      let s := runsIn { liveP none with keySets := [(0, keys9 9)], store := [(1, ct ch)], nextHandle := 3 } r 0xA0 f w; let x := getPart s 3;
      CanIssue s 5 0xA0 f w r ∧ roundKeySet x r.desc = some (keys9 9) ∧ w.inserted = false ∧
      Table.get? x.store (workKey x 5 (getX w.regs f.srcA).toNat) = some (ct ch) ∧
      shortfall (keys9 9) r.desc.refreshThreshold (CtOp.rot (getX w.regs f.srcA).toNat 1) (ct ch) = true ∧ (ct ch).channel = ch) ∧
    (let f := { w0 with dst := 15, imm := 1 }; let w := wkX 6 1; let s := libraryOf 0 0xA0 f w; let x := getPart s 3;
      CanIssue s 5 0xA0 f w crnd ∧ crnd.desc.mode = 2 ∧ roundKeySet x crnd.desc = some (keys9 9) ∧ (getX w.regs f.srcA).toNat = 1 ∧
      workKey x 5 1 = 1 ∧ Table.get? x.store 1 = some (ct 0) ∧ (ct 0).refreshing = none ∧
      shortfall (keys9 9) crnd.desc.refreshThreshold (CtOp.rot 1 1) (ct 0) = false ∧ (keys9 9).evalKeys[f.imm.toNat]? = some (1, 1, 9, []) ∧
      (ct 0).fingerprint = 9) ∧
    (∀ ch, ch ∈ [0, 1] → ∀ imm : W32, imm ∈ [0, 31] → let f := { w0 with imm := imm }; let w := wkX 6 1; let s := libraryOf ch 0xA1 f w;
      let x := getPart s 3;
      CanIssue s 5 0xA1 f w crnd ∧ roundKeySet x crnd.desc = some (keys9 9) ∧ Table.has x.store (workCopyKey 5 1) = false ∧
      Table.get? x.store 1 = some (ct ch) ∧ (ct ch).refreshing = none ∧ lutEntries x crnd (keys9 9) imm.toNat = (if imm = 0 then some [] else none) ∧
      (Table.get? x.store (workKey x 5 1)).any (fun c => c.refreshing.isSome) = false ∧ (ct ch).channel = ch) := by
  unfold CanIssue
  refine ⟨by decide +kernel, by decide +kernel, ?_⟩
  intro ch h imm hi
  simp only [List.mem_cons, List.not_mem_nil, or_false] at h hi
  rcases h with rfl | rfl <;> rcases hi with rfl | rfl <;> decide +kernel

/-- An OPEN round in which client 2 has number 1, with its keys in the engines. -/
def admittedRnd : Round := { rnd .opened with index := [(2, 1)], engineKeys := some ([1], [2], [3]) }

/-- Caravan 40, of no admission duty, or caravan 0, as given, in a partition whose round calls role 5. -/
def placed (cv : Nat) (c : Caravan) (saved : Table Nat Work) : State :=
  setCv (withP { liveP (some admittedRnd) with saved := saved, itins := [(0, { digest := [], itins := [(5, 7, List.replicate 9 0)], consts := [] })] }) cv c

theorem witness_WorksEnd : ∀ e, e ∈ [(1, RoundState.unmasking), (3, .finishing), (4, .finishing), (6, .finishing)] →
    let r := rnd e.2; let w := { wk e.1 with ending := some 4, args := [1, 0, 1] }; let s := setCv (withP (liveP (some r))) 5 { work := some w };
    (getCv s 5).work = some w ∧ getRound s 3 = some r ∧ r.state = e.2 ∧ r.lost = false ∧ chainStill s 5 w = true ∧
    w.setA.state = .empty ∧ w.setB.state = .empty ∧ nextImage r = some (argNat w.args 0) := by decide +kernel

theorem witness_WorksRunAndContextsSwitch :
    (∀ o ch, o ∈ [none, some { wk 5 with part := 2 }] ∧ ch ∈ [none, some 3] →
      let s := placed 40 { work := o, owner := o.map (fun w => w.part) } [];
      getRound s 3 = some admittedRnd ∧ roleEntry (getPart s 3) admittedRnd 5 = some (0, 7, List.replicate 9 0) ∧ cvServes s 40 = true ∧
      canStep s 3 = true ∧ admittedRnd.lost = false ∧ roleDue admittedRnd 5 = true ∧
      Machine.argsOk s 3 admittedRnd 40 5 [1, 2, 3, 4, 5, 6, 7, 8] = true ∧ hasWork s 40 3 = false ∧ (getCv s 40).switching = none ∧
      (∀ k, k ∈ ch → k ≤ 3 ∧ (getCv s 40).duty = false ∧ ∀ e, e ∈ chainWorks s 3 5 (dieOf 40) → chainPos e.2 ≠ k) ∧
      reservedFree s (some 3) ≠ 0 ∧ (getCv s 40).work = o) ∧
    (let r := unmasking []; let w := { wk 1 with args := [0, 0, 1] };
      let s := setCv (withP { liveP (some r) with itins := [(0, { digest := [], itins := [(1, 7, [0])], consts := [] })] }) 5 { work := some w };
      getRound s 3 = some r ∧ roleEntry (getPart s 3) r 1 = some (0, 7, [0]) ∧ cvServes s 6 = true ∧ canStep s 3 = true ∧ r.lost = false ∧
      roleDue r 1 = true ∧ hasWork s 6 3 = false ∧ (getCv s 6).switching = none ∧ reservedFree s (some 3) ≠ 0 ∧
      unmaskHolder s 3 (argNat [] 0) = some 5 ∧ argNat [] 0 % 2 = dieOf 6 ∧ (getCv s 5).work = some w ∧ w.ending = none) ∧
    (∀ duty, let c : Caravan := { work := some (wk 5), owner := some 3, mailbox := [⟨2, .p2, 3, 1⟩], duty := duty }; let s := placed 40 c [];
      c = getCv s 40 ∧ (wk 5).part = 3 ∧ wantsStep (wk 5) = true ∧ (wk 5).chained = none ∧ cvServes s 40 = true ∧ canStep s 3 = true ∧
      c.stepping = false ∧ c.switching = none ∧ c.staged = []) ∧
    (∀ e, e ∈ [(0, 3), (9, 15000)] → let s := placed 40 { work := some (wk 5), stepping := true, entryLeft := e.1, issued := e.2 } [];
      (getCv s 40).work = some (wk 5) ∧ (getCv s 40).stepping = true ∧ getRound s (wk 5).part = some admittedRnd ∧
      admittedRnd.state ≠ .aborted ∧ admittedRnd.state ≠ .retired ∧ (getPart s 3).phase = .live ∧ (wk 5).ending = none ∧
      (wk 5).stopped = false ∧ (wk 5).library = none ∧ chainStill s 40 (wk 5) = true ∧
      ((getCv s 40).entryLeft = 0 ∨ 15000 ≤ (getCv s 40).issued)) ∧
    (∀ b, let w := { wk 5 with ending := some 4, setA := if b then setIn .held else {} }; let s := placed 40 { work := some w } [];
      (getCv s 40).work = some w ∧ getRound s w.part = some admittedRnd ∧ w.ending = some 4 ∧ w.flow = [] ∧ w.shadowQ = [] ∧
      w.draining = none ∧ w.loadQ = [] ∧ w.ring = [] ∧ w.exitQ = [] ∧ w.stopped = false ∧ chainStill s 40 w = true ∧
      admittedRnd.lost = false ∧ admittedRnd.state ≠ .aborted ∧ w.setB.state = .empty ∧ (w.setA.state = .empty ↔ b = false)) ∧
    (let c : Caravan := { work := some { wk 5 with part := 2 }, owner := some 2, mailbox := [⟨2, .p2, 3, 1⟩] }; let s := placed 40 c [(40, wk 5)];
      c = getCv s 40 ∧ cvServes s 40 = true ∧ c.stepping = false ∧ c.staged = [] ∧ c.switching = none ∧ c.duty = false ∧
      switchingOn s (dieOf 40) < 3 ∧ nextIs s 40 3 = true ∧ chainEmptied s 40 = true ∧ Table.get? (getPart s 3).saved 40 = some (wk 5) ∧ (wk 5).chained = none ∧
      getRound s 3 = some admittedRnd ∧ imageAgrees admittedRnd.desc (wk 5) = true ∧ loadSeeds admittedRnd (wk 5) = some (wk 5)) ∧
    (∀ sw : Option (Nat × Nat), sw ∈ [none, some (3, 1), some (3, 2), some (3, 3)] →
      let c : Caravan := { duty := true, owner := some 2, switching := sw, mailbox := [⟨2, .p2, 3, 1⟩] }; let s := placed 0 c [(0, wk 5)];
      c = getCv s 0 ∧ cvServes s 0 = true ∧ c.stepping = false ∧ c.staged = [] ∧ (sw = none → switchingOn s (dieOf 0) < 3 ∧ nextIs s 0 3 = true ∧
        chainEmptied s 0 = true) ∧
      Table.get? (getPart s 3).saved 0 = some (wk 5) ∧ imageAgrees admittedRnd.desc (wk 5) = true ∧ (loadSeeds admittedRnd (wk 5)).isSome = true) ∧
    (let w := { wk 5 with part := 2, flow := [.swap true] };
      let s := placed 0 { work := some w, duty := true, owner := some 2, mailbox := [⟨2, .p2, 3, 1⟩] } [(0, wk 5)];
      (getCv s 0).work = some w ∧ cvServes s 0 = true ∧ switchingOn s (dieOf 0) < 3 ∧ nextIs s 0 3 = true ∧ w.part ≠ 3 ∧
      chainEmptied s 0 = false) ∧
    NoneErasing (placed 40 {} []) := by
  refine ⟨?_, by decide +kernel, by decide +kernel, by decide +kernel, by decide +kernel, by decide +kernel, by decide +kernel,
    by decide +kernel, noneErasing_of (by decide +kernel)⟩
  rintro o ch ⟨ho, hc⟩
  simp only [List.mem_cons, List.not_mem_nil, or_false] at ho hc
  rcases ho with rfl | rfl <;> rcases hc with rfl | rfl <;> decide +kernel

-- ------------------------------------------------------------------ witnesses: Porush

/-- The base state with link l as given. -/
def linkIs (l : Nat) (k : Link) : State := setLink base l k

theorem witness_LinksGoDownAndTrainAgain :
    (∀ l, l ∈ [0, 3] → ∀ b, let s := linkIs l { up := b, key := [1] }; getLink s l = { up := b, key := [1] } ∧ (getLink s l).up = b ∧ l < 4) ∧
    (∀ c, c ∈ [0, 2, 5, 7, 6] → let s := linkIs 3 { cause := c };
      (getLink s 3).up = false ∧ (getLink s 3).training = false ∧ ((c = 2 ∨ c = 5 ∨ c = 7) ∨ (c ≠ 2 ∧ c ≠ 5 ∧ c ≠ 7)) ∧ (getLink s 3).cause = c) ∧
    (∀ e, e ∈ [((0 : BitVec 8), 0), (0, 7), (1, 7)] → let k : Link := { up := true, failed := e.1 };
      getLink (linkIs 0 k) 0 = k ∧ k.up = true ∧ e.2 < 8 ∧
      ((let b := k.failed ||| (1 <<< e.2); b.toNat % 16 ≠ 0 ∧ b.toNat / 16 ≠ 0) ↔ e = (1, 7))) := by
  refine ⟨?_, ?_, ?_⟩
  · intro l h; simp only [List.mem_cons, List.not_mem_nil, or_false] at h; rcases h with rfl | rfl <;> decide +kernel
  · intro l h; simp only [List.mem_cons, List.not_mem_nil, or_false] at h; rcases h with rfl | rfl | rfl | rfl | rfl <;> decide +kernel
  · intro l h; simp only [List.mem_cons, List.not_mem_nil, or_false] at h; rcases h with rfl | rfl | rfl <;> decide +kernel

/-- The fabric group code is 0000. -/
theorem groupCode_zero (h : ∀ i, Sys2Proof.Config.fabricGroupSymbol i = 0) : Sys2Proof.Config.fabricGroupCode = [0x30, 0x30, 0x30, 0x30] := by
  simp only [Sys2Proof.Config.fabricGroupCode, h]; decide

/-- A partner's block: a version word, group code 0000, configuration 0, and a serial. -/
def partnerBlock (version serial : Nat) : Bytes := toLe 4 version ++ [0x30, 0x30, 0x30, 0x30] ++ toLe 8 0 ++ toLe 8 serial ++ toLe 8 9

theorem witness_LinksOpen (hv : Sys2Proof.Config.linkVersion = 0x02010000) (hg : ∀ i, Sys2Proof.Config.fabricGroupSymbol i = 0)
    (hs : Sys2Proof.Config.deviceSerial = 5) (c : Bytes) :
    let s := linkIs 3 { training := true };
    ((getLink s 3).training = true ∧ (getLink s 3).up = false ∧ s.keeper.locked = false ∧ s.hub.bootState = 3 ∧ s.power.state ≠ .sleep ∧
      s.pins.thermtrip = false) ∧
    trainingCause s ⟨true, false, true, false, partnerBlock 0x01010000 4, c⟩ = none ∧
    trainingCause s ⟨true, true, true, true, partnerBlock 0x03020000 4, c⟩ = none ∧
    trainingCause s ⟨false, true, true, true, partnerBlock 0x03020000 4, c⟩ = some 1 ∧
    trainingCause s ⟨true, true, true, true, partnerBlock 0x03030000 4, c⟩ = some 2 ∧
    trainingCause s ⟨true, true, true, true, partnerBlock 0x02010000 5, c⟩ = some 6 := by
  have e : ∀ s a b l h p, trainingCause s ⟨a, b, l, h, p, c⟩ = trainingCause s ⟨a, b, l, h, p, []⟩ := fun _ _ _ _ _ _ => rfl
  simp only [e]
  unfold trainingCause
  rw [hv, groupCode_zero hg, hs]
  exact ⟨by decide +kernel, by decide +kernel, by decide +kernel, by decide +kernel, by decide +kernel, by decide +kernel⟩

/-- A flit of class 0 and 216 bytes of zeros with counter 0, and its CRC. -/
def flitBody : Bytes := padTo 0xF8 [1, 0, 216]
def flit0 : Bytes := flitBody ++ toLe 8 (crc64 flitBody).toNat

theorem flit0_length : flit0.length = 256 := by
  rw [flit0, List.length_append, length_toLe, show flitBody.length = 248 by decide +kernel]

theorem flit0_crc : field flit0 0xF8 8 = (crc64 (flit0.take 0xF8)).toNat := by
  have l : flitBody.length = 248 := by decide +kernel
  unfold field slice flit0
  rw [List.drop_left' l, List.take_left' l, List.take_of_length_le (Nat.le_of_eq (length_toLe _ _)), leNat_toLe]
  exact Nat.mod_eq_of_lt (crc64 flitBody).isLt

/-- A message of 16 bytes from member 1 to member 0, of class 0. -/
def message0 : Bytes := [1, 0, 0, 0] ++ toLe 4 0 ++ toLe 4 16 ++ toLe 4 0

theorem witness_FlitsAndMessagesArrive (payload : Option Bytes)
    (h : Sys2Proof.Config.aeadOpen 0 [1] (flitNonce 0 true) (flit0.take 16) (slice flit0 0x10 232) = payload) :
    (let k : Link := { up := true, key := [1] }; let s := linkIs 3 k;
      (getLink s 3 = k ∧ k.up = true ∧ k.replay.length < 512) ∧ (flit0.take 255).length ≠ 256 ∧ flit0.length = 256 ∧
      field flit0 0xF8 8 = (crc64 (flit0.take 0xF8)).toNat ∧ flitCounter k.rxCtr (field flit0 8 4) = k.rxCtr ∧
      Sys2Proof.Config.aeadOpen 0 k.key (flitNonce k.rxCtr (!k.lower)) (flit0.take 16) (slice flit0 0x10 232) = payload ∧
      field flit0 0 1 = 1 ∧ field flit0 1 1 < 3) ∧
    (let r := ringRnd .opened (ring 2 0); let s := setLink (withP (liveP (some r))) 3 { up := true, partials := [(0, message0 ++ [7])] };
      16 ≤ message0.length ∧ field message0 8 4 = message0.length ∧ Table.getD (getLink s 3).partials (field message0 2 1) [] = message0 ++ [7] ∧
      circuitOwner s (field message0 0 1) (field message0 1 1) = some (3, ring 2 0) ∧ field message0 1 1 = (ring 2 0).self ∧
      s.porush.unacked = [] ∧ field message0 4 4 = Table.getD s.porush.delivered (field message0 0 1, field message0 1 1, field message0 2 1) 0) := by
  refine ⟨⟨by decide +kernel, ?_, flit0_length, flit0_crc, by decide +kernel, h, by decide +kernel, by decide +kernel⟩, by decide +kernel⟩
  rw [List.length_take, flit0_length]; decide

-- ------------------------------------------------------------------ witnesses: power, boot, reset

/-- The base state asleep, each group's digest that of what its slot holds. -/
def asleep : State :=
  { base with
    power := { state := .sleep }
    hub := { base.hub with fw := (List.range 6).map (fun g => (g, { digest := (parseImage []).digest })) } }

theorem witness_DozeAndSleepAreEnteredAndLeft
    (ho : ∀ k n c, Sys2Proof.Config.aeadOpen 0 k n [] c = some [7, 0, 0, 0, 0, 0, 0, 0]) :
    (∀ port : Port, (getPort base port).linkUp = true ∧ base.power.state = .d0) ∧
    (let s := setCv { base with power := { entering := true } } 5 { work := some (wk 0), owner := some 3 };
      s.power.entering = true ∧ (∀ e, e ∈ s.caravans → e.2.stepping = false)) ∧
    (∀ c, c ∈ [DozeExitCause.ctrlWrite, .d0Return .p1, .command] → let s := takes { base with power := { state := .doze } } (cmdPf 0x0104 [] 0);
      s.pins.thermtrip = false ∧ s.power.state = .doze ∧ (c = .command → s.cmd.taken ≠ [])) ∧
    (let s := withP (liveP none); s.pins.thermtrip = false ∧ s.power.state ≠ .sleep ∧ s.hub.bootState = 3 ∧ (getPart s 3).phase ≠ .absent) ∧
    (base.power.state ≠ .sleep ∧ ∀ e, e ∈ base.parts → e.2.phase = .absent) ∧
    (asleep.power.state = .sleep ∧ asleep.keeper.retentionLost = false ∧ ∀ g, g < 6 → sameImage asleep g = true) ∧
    flashCeiling asleep = none ∧
    (let c := List.replicate 36 (0 : Byte); flashCeiling { asleep with flash := { asleep.flash with ceiling0 := c, ceiling1 := c } } = some 7) := by
  refine ⟨by intro p; cases p <;> decide +kernel, by decide +kernel, by decide +kernel, by decide +kernel,
    by decide +kernel, ⟨rfl, rfl, ?_⟩, by decide +kernel, ?_⟩
  rotate_left
  · unfold flashCeiling copyCeiling areaOpen; simp [ho]; decide +kernel
  intro g h
  have : g = 0 ∨ g = 1 ∨ g = 2 ∨ g = 3 ∨ g = 4 ∨ g = 5 := by omega
  rcases this with rfl | rfl | rfl | rfl | rfl | rfl <;> exact decide_eq_true rfl

/-- Readings of a die in W and C. -/
def readings (w : Nat) (t : Int) : DutyReadings := { package := w, rails := List.replicate 7 0, temps := [t, t, t] }

theorem witness_DutyFollowsPowerAndHeat :
    ∀ calm, calm ∈ [98, 99] → let s := { base with power := { calm0 := calm } };
      s.pins.pwrgood = true ∧ s.power.state ≠ .sleep ∧ clockStopped s 37 = false ∧ 1 ≤ s.power.duty0 ∧ s.power.duty0 ≤ 16 ∧ s.power.calm0 = calm ∧
      (∀ t : Int, t ∈ [96, 97, 99] → (overPower s (readings 100 t) 0 || decide (100 ≤ (readings 100 t).temps.getD 0 0)) = false ∧
        calmDie s (readings 100 t) 0 = decide (t = 96)) ∧
      (∀ t : Int, t ∈ [100, 104, 105, 127] → (overPower s (readings 100 t) 0 || decide (100 ≤ (readings 100 t).temps.getD 0 0)) = true ∧
        calmDie s (readings 100 t) 0 = false) ∧
      (overPower s (readings 921 20) 0 = true ∧ calmDie s (readings 921 20) 0 = false ∧ overPower s (readings 920 20) 0 = false) := by
  intro c h; simp only [List.mem_cons, List.not_mem_nil, or_false] at h; rcases h with rfl | rfl <;> decide +kernel

/-- An image of R412 whose body is 12 zeros and the group code 0000: version 0, sequence 1, compatible with every version of every group. -/
def imageHead (g : Nat) : Bytes :=
  ascii "CHFW" ++ toLe 1 1 ++ toLe 1 g ++ toLe 2 0 ++ toLe 4 1 ++ toLe 4 16 ++ (List.replicate 5 (toLe 2 0 ++ toLe 2 0xFFFF)).flatten ++
  List.replicate 92 0 ++ List.replicate 12 0 ++ [0x30, 0x30, 0x30, 0x30]
def imageOf (g : Nat) : Bytes := imageHead g ++ List.replicate 16224 0

/-- A device without power whose flash holds such an image of every group in slot A. -/
def shelf : State := { State.reset with flash := { slots := (List.range 6).map (fun g => ((g, false), imageOf g)) } }

/-- A group loaded from slot A. -/
def ld (s : State) (g : Nat) : State :=
  setFw { s with hbm := { s.hbm with images := Table.put s.hbm.images g (imageOf g) } } g (runImage (parseImage (imageOf g)) false false)

/-- The shelf's device once it has power. -/
def shelf0 : State := { poweredUp shelf with keeper := { (poweredUp shelf).keeper with asserted := [] } }

/-- The shelf's device after its Keeper image and its configuration block, and with the device-level counter and the keys besides. -/
def shelf1 : State :=
  let s := setFw (ld shelf0 0) 5 (runImage (parseImage (imageOf 5)) false false)
  { s with hub := { s.hub with config := 0, rolling := false, configDigest := (parseImage (imageOf 5)).digest } }
def shelf2 : State := rederiveXts (bootCounter { shelf1 with keeper := { shelf1.keeper with derived := true } })

theorem shelf2_keeps : shelf2.hub = shelf1.hub ∧ shelf2.flash.slots = shelf.flash.slots := by
  unfold shelf2 bootCounter rederiveXts placeXts writeCeiling bumpFree
  generalize flashCeiling { shelf1 with keeper := { shelf1.keeper with derived := true } } = c
  cases c <;> simp only <;> split <;> exact ⟨rfl, rfl⟩

theorem imageOf_verifies (h : ∀ k m sg, Sys2Proof.Config.slhdsaVerify k m sg = true) {g : Nat} (hg : g < 6) : imageVerifies g (imageOf g) = true := by
  have e : g = 0 ∨ g = 1 ∨ g = 2 ∨ g = 3 ∨ g = 4 ∨ g = 5 := by omega
  have l : (imageOf g).length = 144 + 16224 := by
    rw [imageOf, List.length_append, List.length_replicate]
    rcases e with rfl | rfl | rfl | rfl | rfl | rfl <;> rfl
  unfold imageVerifies
  simp only [h, l]
  rcases e with rfl | rfl | rfl | rfl | rfl | rfl <;> decide +kernel

/-- With the shelf's flash, a group is taken from slot A wherever the registers of the hub allow it. -/
theorem loads {s : State} {g : Nat} {done : List Nat} {h : Hub} (hv : ∀ k m sg, Sys2Proof.Config.slhdsaVerify k m sg = true) (hg : g < 6)
    (hh : s.hub = h) (hs : s.flash.slots = shelf.flash.slots)
    (hd : (done.all (fun k => compatible g (parseImage (imageOf g)) k (Table.getD h.fw k {})) &&
      (h.rolling || decide (g = 0) || decide ((parseImage (imageOf g)).bundle = (Table.getD h.fw 0 {}).bundle))) = true) :
    loadGroup s g done = some (ld s g) ∧ (ld s g).hub = { h with fw := Table.put h.fw g (runImage (parseImage (imageOf g)) false false) } ∧
      (ld s g).flash.slots = shelf.flash.slots := by
  have e : g = 0 ∨ g = 1 ∨ g = 2 ∨ g = 3 ∨ g = 4 ∨ g = 5 := by omega
  have hf : flashSlot s g false = imageOf g := by unfold flashSlot; rw [hs]; rcases e with rfl | rfl | rfl | rfl | rfl | rfl <;> rfl
  have ht : flashSlot s g true = [] := by unfold flashSlot; rw [hs]; rcases e with rfl | rfl | rfl | rfl | rfl | rfl <;> rfl
  have h1 : firstSlot s g = false := by
    unfold firstSlot slotSequence; rw [ht]
    simp only
    rw [if_neg (show ¬ (parseImage []).magic = ascii "CHFW" by decide +kernel)]; exact decide_eq_false (Nat.not_lt_zero _)
  refine ⟨?_, by subst hh; rfl, hs⟩
  unfold loadGroup slotTakeable getFw
  simp only [h1, hf, imageOf_verifies hv hg, Bool.true_and, hh]
  rw [if_pos hd]; simp [takeImage, ld, hf]

theorem witness_DeviceBootsAndPortsComeUp (h : ∀ k m sg, Sys2Proof.Config.slhdsaVerify k m sg = true)
    (hg : ∀ i, Sys2Proof.Config.fabricGroupSymbol i = 0) :
    (shelf.pins.pwrgood = false ∧ shelf.rel.keeperDown = false ∧ ({} : BootInputs).tamper = [] ∧ ({} : BootInputs).keeperFault = false ∧
      ({} : BootInputs).badStacks = 0 ∧ ({} : BootInputs).caravans = 0 ∧ ({} : BootInputs).stewards ≠ 0xFF ∧
      ∃ s1 s2 s3, loadGroup shelf0 0 [] = some s1 ∧ loadConfig s1 = some s2 ∧
      loadGroups [1, 2, 3, 4] [0] (rederiveXts (bootCounter { s2 with keeper := { s2.keeper with derived := true } })) = (s3, none)) ∧
    (∀ l, l ∈ [[], [2]] → let s := { State.reset with keeper := { asserted := l } }; s.pins.pwrgood = false ∧
      (l = [] → [2].filter (fun x => !s.keeper.asserted.contains x) = 2 :: []) ∧
      (l = [2] → ∀ x, x ∈ [2] → s.keeper.asserted.contains x = true)) ∧
    ({ State.reset with rel := { keeperDown := true } } : State).rel.keeperDown = true ∧
    (∀ e : W32 × W32, e ∈ [(0x01000000, 0x02010000)] → bridgeVersion e.1 e.2 ≠ none) ∧
    (State.reset.pins.pwrgood = false ∧ State.reset.rel.keeperDown = false ∧
      loadGroup { poweredUp State.reset with keeper := { (poweredUp State.reset).keeper with asserted := [] } } 0 [] = none) ∧
    (∀ q : Port, ∀ b, b ∈ [2, 3] → let s := setPort { base with hub := { bootState := b } } q { perst := false };
      s.pins.pwrgood = true ∧ s.power.state ≠ .sleep ∧ s.pins.thermtrip = false ∧ (getPort s q).linkUp = false ∧ (getPort s q).perst = false ∧
      s.hub.bootState = b) := by
  refine ⟨⟨rfl, rfl, rfl, rfl, rfl, rfl, by decide, ld shelf0 0, ?_⟩, by decide, rfl, fun _ h => List.mem_singleton.1 h ▸ by decide,
    ⟨rfl, rfl, by decide +kernel⟩, ?_⟩
  · have c : configVerifies (imageOf 5) = true := by
      unfold configVerifies
      simp only [imageOf_verifies h (show 5 < 6 by omega), groupCode_zero hg]
      rw [show decide (field (parseImage (imageOf 5)).body 4 8 = 0) = true by decide +kernel,
        show decide (field (parseImage (imageOf 5)).body 0 1 ≠ 2) = true by decide +kernel, Bool.and_true, Bool.or_true]
      decide +kernel
    obtain ⟨k1, k2⟩ := shelf2_keeps
    obtain ⟨a1, b1, c1⟩ := loads (g := 1) (done := [0]) h (by omega) k1 k2 (by decide +kernel)
    obtain ⟨a2, b2, c2⟩ := loads (g := 2) (done := [0] ++ [1]) h (by omega) b1 c1 (by decide +kernel)
    obtain ⟨a3, b3, c3⟩ := loads (g := 3) (done := [0] ++ [1] ++ [2]) h (by omega) b2 c2 (by decide +kernel)
    obtain ⟨a4, b4, c4⟩ := loads (g := 4) (done := [0] ++ [1] ++ [2] ++ [3]) h (by omega) b3 c3 (by decide +kernel)
    refine ⟨shelf1, ld (ld (ld (ld shelf2 1) 2) 3) 4, (loads (s := shelf0) (g := 0) (done := []) h (by omega) rfl (by rfl) (by decide +kernel)).1, ?_, ?_⟩
    · unfold loadConfig
      have f : firstSlot (ld shelf0 0) 5 = false := by decide +kernel
      have g : flashSlot (ld shelf0 0) 5 false = imageOf 5 := rfl
      simp only [f, g, c, if_true]
      rw [show field (parseImage (imageOf 5)).body 0 1 = 0 by decide +kernel,
        show decide (field (parseImage (imageOf 5)).body 1 1 = 1) = false by decide +kernel]; rfl
    · rw [show rederiveXts (bootCounter { shelf1 with keeper := { shelf1.keeper with derived := true } }) = shelf2 from rfl]
      simp only [loadGroups, a1, a2, a3, a4]
  · intro q b hb
    simp only [List.mem_cons, List.not_mem_nil, or_false] at hb
    cases q <;> rcases hb with rfl | rfl <;> decide +kernel

theorem witness_WarmResetKeepsPartitions :
    let s := withP (liveP (some (rnd .opened)));
    s.pins.pwrgood = true ∧ s.power.state ≠ .sleep ∧ s.pins.thermtrip = false ∧ s.hub.bootState ≠ 4 ∧ (getPart s 3).phase = .live ∧
    ({} : BootInputs).tamper = [] ∧ ({} : BootInputs).badStacks = 0 := by
  decide +kernel

-- ------------------------------------------------------------------ witnesses: firmware, tamper, faults, islands

/-- A device in recovery for a group, some bytes of its image received. -/
def recovering (cause : Nat) (img : Bytes) (st : Nat) : State :=
  { base with hub := { bootState := 1, cause := 1, causeGroup := cause, recState := st, recImage := img, recI3c := true } }

/-- A RECOVERY_CTRL value: offset, length, group, last. -/
def ctrl (off len g last : Nat) : W64 := BitVec.ofNat 64 (off + len * 2 ^ 32 + g * 2 ^ 49 + last * 2 ^ 52)

/-- A device under rolling whose flash holds images of groups 0 to 4 in slot B, or nothing. -/
def rollingOf (l : Table (Nat × Bool) Bytes) : State := { base with hub := { base.hub with rolling := true }, flash := { slots := l } }

theorem witness_FirmwareIsStagedAndRecovered (h : ∀ k m sg, Sys2Proof.Config.slhdsaVerify k m sg = true) :
    (∀ e : Nat × Nat, e ∈ [(0, 1), (4, 1), (4, 0)] → let t := cmdPf 0x1001 [BitVec.ofNat 8 e.1, BitVec.ofNat 8 e.2] (slotBytes e.1); let s := takes base t;
      KeeperReady s refPf 0x1001 t ∧ e.1 = t.desc.param 0 1 ∧ e.1 < 5 ∧ t.desc.param 1 1 ≤ 1 ∧ e.2 = t.desc.param 1 1 ∧
      ((getFw s e.1).slot = decide (t.desc.param 1 1 = 1) ↔ e.2 = 0) ∧ t.desc.length ≤ slotBytes e.1) ∧
    (KeeperReady (takes base (cmdPf 0x1001 [5, 1] 64)) refPf 0x1001 (cmdPf 0x1001 [5, 1] 64) ∧ (cmdPf 0x1001 [5, 1] 64).desc.param 0 1 = 5 ∧
      (let t := cmdPf 0x1001 [1, 1] (slotBytes 1 + 1); KeeperReady (takes base t) refPf 0x1001 t ∧ slotBytes 1 < t.desc.length ∧
        (getFw (takes base t) 1).slot ≠ decide (t.desc.param 1 1 = 1))) ∧
    KeeperReady (takes base (cmdPf 0x1002 [] 16384)) refPf 0x1002 (cmdPf 0x1002 [] 16384) ∧
    (∀ path : Bool, ∀ last, last ∈ [0, 1] → let v := ctrl 2 368 3 last; let s := recovering 3 [0x43, 0x48] (if path then 1 else 0);
      s.power.state ≠ .sleep ∧ s.hub.bootState = 1 ∧ (s.hub.recState = 0 ∨ s.hub.recI3c = path) ∧ s.hub.recState ≠ 2 ∧
      v.toNat / 2 ^ 32 % 2 ^ 17 = 368 ∧ v.toNat / 2 ^ 49 % 8 = s.hub.causeGroup ∧ v.toNat % 2 ^ 32 = s.hub.recImage.length ∧ bitAt v.toNat 52 = decide (last = 1)) ∧
    ((ctrl 0 1 3 0).toNat / 2 ^ 32 % 2 ^ 17 = 1 ∧ (ctrl 0 65536 3 0).toNat / 2 ^ 32 % 2 ^ 17 = 65536) ∧
    recoveryOk 3 (imageOf 3) = true ∧ base.hub.bootState ≠ 1 ∧
    (∀ g, g ∈ [1, 4] → let l : Table (Nat × Bool) Bytes := [((g, true), imageOf g)]; let s := rollingOf l;
      g = (BitVec.ofNat 32 g).toNat % 8 ∧ s.hub.rolling = true ∧ s.hub.bootState = 3 ∧ firstSlot s g = true ∧ true ≠ (getFw s g).slot ∧
      imageVerifies g (flashSlot s g true) = true) ∧
    (let s := rollingOf [((2, true), ascii "CHFW" ++ [0, 2, 0, 0] ++ toLe 4 9)];
      firstSlot s 2 = true ∧ imageVerifies 2 (flashSlot s 2 true) = false ∧ firstSlot (rollingOf []) 2 = (getFw (rollingOf []) 2).slot) := by
  unfold KeeperReady Ready
  refine ⟨?_, by decide +kernel, by decide +kernel, ?_, by decide +kernel, ?_, by decide +kernel, ?_, by decide +kernel, by decide +kernel, by decide +kernel⟩
  · intro e he; simp only [List.mem_cons, List.not_mem_nil, or_false] at he; rcases he with rfl | rfl | rfl <;> decide +kernel
  · intro p l hl; simp only [List.mem_cons, List.not_mem_nil, or_false] at hl; cases p <;> rcases hl with rfl | rfl <;> decide +kernel
  · rw [recoveryOk, if_neg (by decide)]; exact imageOf_verifies h (by omega)
  · intro g hg
    simp only [List.mem_cons, List.not_mem_nil, or_false] at hg
    rcases hg with rfl | rfl
    · exact ⟨by decide +kernel, rfl, rfl, by decide +kernel, by decide +kernel, imageOf_verifies h (by omega)⟩
    · exact ⟨by decide +kernel, rfl, rfl, by decide +kernel, by decide +kernel, imageOf_verifies h (by omega)⟩

theorem witness_TamperAlarmZeroesAndLocks :
    ∀ c, c ∈ [1, 3, 4] → ∀ d : Bool, ∀ st, st ∈ [PowerState.d0, .doze, .sleep] → ∀ pg : Bool,
      let s := { inRound .opened with keeper := { armed := true, derived := d, tamperCount := 1023 }, pins := { pwrgood := pg }, power := { state := st } };
      s.keeper.armed = true ∧ 1 ≤ c ∧ c ≤ 4 ∧ (c = 4 ∨ c ≤ 3) ∧ s.pins.pwrgood = pg ∧ s.keeper.derived = d ∧ s.power.state = st ∧
      base.keeper.armed = false := by
  intro c hc d st hs pg
  simp only [List.mem_cons, List.not_mem_nil, or_false] at hc
  rcases hc with rfl | rfl | rfl <;> exact ⟨rfl, by omega, by omega, by omega, rfl, rfl, rfl, rfl⟩

/-- A partition whose segment waits on caravan 5. -/
def stagedOn5 : State := setCv flying 5 { duty := true, staged := [(ref3, 0)] }

/-- A round whose tile 0 was unmasked on one copy alone. -/
def oneCopy : Round := { rnd .unmasking with tiles := [(0, { prim := { phase := .unmasked } })] }

/-- A fault on a unit. -/
def faultOn (k : UnitKind) (i : Nat) (corrected third : Bool) : FaultInfo :=
  { kind := k, index := i, mechanism := 1, corrected := corrected, thirdInTen := third }

theorem witness_FaultsAreContainedAndRebuilt :
    ((faultOn .hbm 7 true false).corrected = true ∧
      (∀ b, (faultOn .caravan 47 false b).corrected = false ∧ (faultOn .caravan 47 false b).kind = .caravan ∧ (faultOn .caravan 47 false b).index < 48 ∧
        (faultOn .caravan 47 false b).inReplay = false ∧
        (getCv (placed 47 { work := some (wk 0) } []) 47).work.any (inReplay (placed 47 { work := some (wk 0) } []) 47) = false ∧ (faultOn .caravan 47 false b).watchdogAgain = false ∧
        (faultOn .caravan 47 false b).thirdInTen = b) ∧
      ((faultOn .x25519 7 false true).kind = .x25519 ∧ (faultOn .x25519 7 false true).index < 8) ∧
      ((faultOn .keeper 0 false false).kind = .keeper ∧ (faultOn .keeper 0 false false).corrected = false) ∧
      ((faultOn .crossBridge 2 false false).kind = .crossBridge ∧ (faultOn .crossBridge 2 false false).corrected = false) ∧
      (let s := placed 47 { work := some (wk 0), faultedOn := some (callOf (wk 0)) } [];
        (getCv s 47).work.any (inReplay s 47) = true ∧ (getPart s 3).erasing = false)) ∧
    (getRound (inRound .opened) 3 = some (rnd .opened) ∧ (ownTiles (rnd .opened)).contains 0 = true ∧
      (getTile (rnd .opened) 0).prim.phase = .accumulating ∧ (rnd .opened).ckpt = none ∧ roundLive (rnd .opened) = true ∧
      (getTile (finishingRnd .update { prim := { phase := .finished } }) 0).prim.phase = .finished) ∧
    ((ownTiles oneCopy).contains 0 = true ∧ (getTile oneCopy 0).prim.phase = .unmasked ∧ (getTile oneCopy 0).mirrored = false) ∧
    (NoneErasing stagedOn5 ∧ (ref3, 0) ∈ (getCv stagedOn5 5).staged ∧ fnPart ref3.fn = some 3 ∧ (getPart stagedOn5 3).erasing = false ∧
      ∃ f, Table.get? (getPart stagedOn5 3).flights ref3 = some f) ∧
    (∀ m : BitVec 8, m ∈ [0x01, 0x7F] → let s := { withP (liveP none) with rel := { base.rel with stewards := m } };
      (getPart s 3).phase ≠ .absent ∧ s.rel.stewards.getLsbD (getPart s 3).steward = true ∧ s.rel.stewards ≠ 0xFF) := by
  refine ⟨by decide +kernel, by decide +kernel, by decide +kernel,
    ⟨noneErasing_of (by decide +kernel), by decide +kernel, by decide +kernel, by decide +kernel, _, rfl⟩, ?_⟩
  intro m hm; simp only [List.mem_cons, List.not_mem_nil, or_false] at hm; rcases hm with rfl | rfl <;> decide +kernel

/-- The base state with island 119 at a voltage after a run of high readings. -/
def islandAt (v runs : Nat) : State := { base with islands := { base.islands with volts := [(119, v)], highRuns := [(119, runs)] } }

-- The projection of a canary's rate to 105 C is an opaque constant of the device: one premise says that it is the rate itself.
theorem witness_AgeingSteersTheVoltage (hc : ∀ q, Sys2Proof.Config.canaryAt105 119 q 60 = q) :
    (∀ v, v ∈ [650, 845, 850] → ∀ runs, runs ∈ [1, 2] → ∀ fp, fp ∈ [2204, 2205, 2310, 2311] → let s := islandAt v runs;
      s.power.state = .d0 ∧ s.pins.pwrgood = true ∧ clockStopped s 37 = false ∧ clockStopped s 36 = false ∧
      (∃ q, q ∈ [fp + 1, fp] ∧ fp = Sys2Proof.Config.canaryAt105 119 q 60) ∧
      (∀ q, q ∈ [fp + 1, fp] → fp ≤ Sys2Proof.Config.canaryAt105 119 q 60) ∧ v = Table.getD s.islands.volts 119 850 ∧ 650 ≤ v ∧
      v ≤ 850 ∧ v % 5 = 0 ∧ Table.getD s.islands.highRuns 119 0 = runs) ∧
    (∀ e, e ∈ [(831, 15), (830, 20)] → recordedVolt (islandAt e.1 0) 119 = 850 ∧
      max (e.1 : Nat) 850 - min (e.1 : Nat) 850 = if e.2 = 15 then 19 else 20) := by
  refine ⟨?_, by decide +kernel⟩
  intro v hv r hr f hf
  simp only [List.mem_cons, List.not_mem_nil, or_false] at hv hr hf
  simp only [hc]
  rcases hv with rfl | rfl | rfl <;> rcases hr with rfl | rfl <;> rcases hf with rfl | rfl | rfl | rfl <;> decide +kernel

/-- The base state with items in the crossing of island i. -/
def crossingOf (i : Nat) : State :=
  let x : Crossing := { inFifo := [.msix (.pf .p0) 1], inReplay := [.msix (.pf .p0) 1, .msix (.pf .p0) 2], outFifo := [.msix (.pf .p0) 3], holding := some [7], value := [6] }
  { base with crossings := [(i, x)] }

theorem witness_IslandsStallReturnAndWake :
    (∀ i, i ∈ [4, 38] → crossingKinds i ≠ [] ∧ base.islands.parked.getLsbD i = false ∧ base.pins.pwrgood = true) ∧
    (crossingKinds 0 = [] ∧ ({ base with islands := { parked := 32 } } : State).islands.parked.getLsbD 5 = true) ∧
    ((Table.get? (crossingOf 5).crossings 5).isSome = true ∧ 5 ∈ clockGroup 5 ∧ 4 ∉ clockGroup 5 ∧
      (∀ l, l < 4 → crossingKinds (20 + l) ≠ []) ∧ (getCrossing (crossingOf 23) 23).holding = some [7]) ∧
    (base.pins.thermtrip = false ∧ base.power.state ≠ .sleep) := by decide +kernel

-- ------------------------------------------------------------------ well-formedness: a term that each check refuses

theorem test_references_outside_their_range_are_refused :
    (Instr.partCreate ⟨.pf .p0, 20, 0⟩).wellFormed = false ∧ (Instr.partCreate ⟨.vf .p0 3, 0, 0⟩).wellFormed = false ∧
    (Instr.abort ⟨.vf .p1 64, 0, 0⟩).wellFormed = false ∧ (Instr.abort ⟨.pf .p1, 19, 0⟩).wellFormed = true ∧
    (Instr.ctAdd ⟨.pf .p1, 0, 0⟩).wellFormed = false ∧ (Instr.ctAdd ref3).wellFormed = true ∧ (Instr.flrVf .p0 64).wellFormed = false := by decide

theorem test_operands_outside_their_range_are_refused :
    (Instr.scrubFillDone 64).wellFormed = false ∧ (Instr.stepDispatch 48).wellFormed = false ∧ (Instr.nop 48 w0).wellFormed = false ∧
    (Instr.sqEnable (.pf .p0) 16).wellFormed = false ∧ (Instr.p0TagVerdict (.pf .p0) 4).wellFormed = false ∧
    (Instr.linkRetrain 4).wellFormed = false ∧ (Instr.porushLaneFail 3 8).wellFormed = false ∧ (Instr.circuitJoin 0 16 [] [] 0).wellFormed = false ∧
    (Instr.secretReconstruct 0 (2 ^ 24)).wellFormed = false ∧ (Instr.watchdogExpiry ⟨40, false⟩).wellFormed = false ∧
    (Instr.canaryReading 120 ⟨[], 20⟩).wellFormed = false ∧ (Instr.islandWake 160).wellFormed = false ∧ (Instr.bankRetest 4).wellFormed = false ∧
    (Instr.reseedServe 65).wellFormed = false ∧ (Instr.workStart 0 0 16 [] none).wellFormed = false ∧
    (Instr.workStart 0 0 0 (List.replicate 9 0) none).wellFormed = false ∧ (Instr.workStart 0 0 0 [] (some 4)).wellFormed = false ∧
    (Instr.workStart 47 63 15 (List.replicate 8 0) (some 3)).wellFormed = true ∧ (Instr.tamperAlarm ⟨0, true⟩).wellFormed = false ∧
    (Instr.tamperAlarm ⟨5, true⟩).wellFormed = false ∧ (Instr.eventPost (.part 64)).wellFormed = false := by decide

theorem test_byte_strings_of_the_wrong_length_are_refused :
    (Instr.descriptorFetch (.pf .p0) 0 []).wellFormed = false ∧ (Instr.p0Doorbell (.pf .p0) 0 [0]).wellFormed = false ∧
    (Instr.admitEnvelope ref3 [] (List.replicate 32 0)).wellFormed = false ∧ (Instr.admitEnvelope ref3 (List.replicate 32 0) [0]).wellFormed = false ∧
    segOk (List.replicate 1048593 0) = false ∧ (Instr.outsiderChallenge [0]).wellFormed = false ∧
    (Instr.registerWrite (.pf .p0) (2 ^ 26) 1 0).wellFormed = false ∧ (Instr.registerWrite (.pf .p0) 0 0 0).wellFormed = false ∧
    (Instr.registerWrite (.pf .p0) 0 9 0).wellFormed = false ∧ (Instr.dutyEvaluation { readings 1 20 with rails := [] }).wellFormed = false := by
  have h : segOk (List.replicate 1048593 0) = false := by unfold segOk; rw [List.length_replicate]; decide
  exact ⟨by decide, by decide, by decide, by decide, h, by decide, by decide, by decide, by decide, by decide⟩

-- ------------------------------------------------------------------ values that the spec works out

/-- The descriptor of 09's example: an ABORT of round 0x0000_1234 with command_id 7, counter 0x29 and flag bit 0, without its tag. -/
theorem test_abort_descriptor :
    let d := parseDesc ([0x02, 0x0F, 0x01, 0, 7, 0, 0, 0, 0x29] ++ List.replicate 23 0 ++ [0x34, 0x12] ++ List.replicate 30 0);
    d.opcode = 0x0F02 ∧ d.critical = true ∧ d.commandId = 7 ∧ d.counter = 0x29 ∧ d.address = 0 ∧ d.length = 0 ∧ d.param 0 4 = 0x1234 := by
  decide +kernel

/-- R71's example: Model A, client 4,321. -/
theorem test_retry_hint : admitHint 313959 255000 230000000000 1680000000 1 4321 = 114393278 := by decide

/-- 04's example of one wrap in RING(24). -/
theorem test_one_wrap : domAdd (.ring 24) 0xF00000 0x200003 = 0x100003 ∧ residue 0xF00000 = 240 ∧ residue 0x200003 = 35 ∧ residue 0x100003 = 19 := by
  decide

/-- 04's example of cancellation: the five terms' exact sum, 4.5 + 2^(-20), rounds once. -/
theorem test_cancellation :
    ([0x71800000, 0x40400000, 0xF1800000, 0x35800000, 0x3FC00000].foldl longAdd { a := 0, posInf := false, negInf := false, nan := false }).a =
      BitVec.ofNat 312 (9 * 2 ^ 148 + 2 ^ 129) ∧
    longRound ([0x71800000, 0x40400000, 0xF1800000, 0x35800000, 0x3FC00000].foldl longAdd { a := 0, posInf := false, negInf := false, nan := false }) =
      0x40900002 := by decide +kernel

/-- The instruction word of 08's example. -/
theorem test_word_of_comb_sub :
    wordOf 0x41 { cls := 4, domain := 1, dst := 2, srcA := 2, srcB := 1, modif := 0, imm := 0 } = 0x4141221000000000 ∧
    wordOp 0x4141221000000000 = 0x41 ∧ wordOk 1 [] 0x4141221000000000 = true := by decide +kernel

/-- R154's example: among holders 0 and 2 the weight of holder 0 is 1 + 1/x, and its share x^2 + x times it is s = x^2 + 1. -/
theorem test_shamir : lambdaAt [0, 2] 0 = (0x80000000000000000000000000000042, true) ∧ gfMul 0x80000000000000000000000000000042 6 = 5 := by
  decide +kernel

/-- 07's example of one element, from u_e to the broadcast copy. -/
theorem test_one_element :
    updateValue 0x39800000 920000 (3680184 - 184) = 0x3A800000 ∧ clipFactor 0x3E800000 0x3F000000 = 0x3F000000 ∧
    clippedValue 0x3A800000 0x3F000000 = 0x3A000000 ∧
    applyElem { rdesc with optimiser := 2, learningRate := 0x3C800000, beta1 := 0x3F600000, beta2 := 0x3F700000, epsilon := 0x35800000 }
      0x3A000000 0x3E800000 0 0 = (0x3E83F810, 0x38800000, 0x32800000) ∧
    fpDiv 0x38800000 0x39010000 = 0x3EFE03F8 ∧ broadcastElem 0x3E83F810 0x3F000000 = 0x3F04 := by decide +kernel

/-- Two images that are compatible one way only are not compatible (16's example). -/
theorem test_compatibility_is_mutual :
    compatible 1 { (parseImage []) with version := 5, compat := [(1, 9)] } 0 { version := 3, compat := [(0, 0), (2, 4)] } = false ∧
    compatible 1 { (parseImage []) with version := 4, compat := [(1, 9)] } 0 { version := 3, compat := [(0, 0), (2, 4)] } = true := by decide +kernel

/-- 10's example: nine granules on a die go three, two, two and two to its stacks. -/
theorem test_granules_spread : (List.range 4).map (fun k => ((takeGranules 5 0 9 0 base []).1.filter (fun g => decide (g.1 = k))).length) = [3, 2, 2, 2] := by decide +kernel

/-- The published check value of the CRC of R393. -/
theorem test_crc : crc64 (ascii "123456789") = 0x995DC9BBDF1939FA := by decide +kernel

/-- ADDX with an immediate of -1 takes 1 from X0 = 5. -/
theorem test_addx_sign_extends :
    (let f := { w0 with dst := 3, modif := 1, imm := 0xFFFFFFFF };
      match exec (.addx 5 f) (running (rnd .opened) 0x02 f (wkX 0 5)) with
      | .next u => (getCv u 5).work.map (fun w => (getX w.regs 3, w.regs.pc))
      | _ => none) = some (4, 1) := by decide +kernel

/-- LINK_RETRAIN as the one command of the queue: a step takes it and the link trains. -/
theorem test_step_takes_the_front :
    (match step { linkIs 2 { up := true } with pending := [.linkRetrain 2, .pwrDoze] } with
      | .next u => decide (u.pending = [.pwrDoze] ∧ (getLink u 2).training = true ∧ (getLink u 2).up = false)
      | _ => false) = true := by decide +kernel

theorem witness_ChannelsAreFenced :
    (faultOn .hbm 7 false true).kind = .hbm ∧ (faultOn .hbm 7 false true).index < 8 ∧ (faultOn .hbm 7 false true).thirdInTen = true ∧
    (faultOn .hbm 7 false true).corrected = false ∧ (∀ g, g ∈ (getPart base 3).gran0 ++ (getPart base 3).gran1 → g.1 ≠ 7) := by decide +kernel

/-- The regions of 16 R411 follow one another without a gap, up to 0x0395_0000. -/
theorem test_flash_regions :
    flashRegions.foldl (fun e r => if r.1 = e then e + r.2 else 0) 0 = 0x3950000 := by decide +kernel

/-- ALERT# and the ports' outputs in four columns of R442. -/
theorem test_pins :
    [State.reset, base, { base with hub := { base.hub with bootState := 4 } }, { base with pins := { base.pins with thermtrip := true } }].map
      (fun s => (pinLevel s .alert, pinLevel s (.portTx .p0), pinLevel s .thermtrip)) =
    [(.released, .highImpedance, .released), (.released, .functional, .released), (.low, .electricalIdle, .released),
     (.low, .electricalIdle, .low)] := by decide +kernel

/-- A mailbox that is reset drops what was taken and keeps what was not, past the wrap of its numbers (R381). -/
theorem test_mailbox_reset :
    (resetMail { mailbox := [⟨2, .p2, 3, 2 ^ 32 - 1⟩, ⟨2, .p2, 4, 0⟩], mailTook := [(2, 2 ^ 32 - 1)] }).mailbox = [⟨2, .p2, 4, 0⟩] := by
  decide +kernel

/-- OPEN's predicted parity of a product that is reduced (R123): x^127 times x + 1 is x^128 + x^127, of which x^128 is x^7 + x^2 + x + 1. -/
theorem test_predicted_parity : gfMul (1 <<< 127) 3 = (1 <<< 127) ^^^ 0x87 ∧ gfParity ((1 <<< 127) ^^^ 0x87) = 1 ∧ predictGf (1 <<< 127) 3 = 1 := by
  decide +kernel

end Sys2Proof.Tests
end

section
/-! PROOFS. The Keeper's turn: which command it serves next, and what the state is in which it serves it (R26, R27, R285). -/

namespace Sys2Proof.Proofs

open Sys2Proof.Machine Sys2Proof.Safety Sys2Proof.Laws

-- ------------------------------------------------------------------ the state in which the Keeper serves

section Served

variable (s : State) (t : Taken)

/-- Serving a command writes down the mailbox served last, and nothing else. -/
theorem keeperServed_eq : ∃ l, keeperServed s t = { s with keeper := { s.keeper with lastServed := l } } := by
  unfold keeperServed
  split
  · exact ⟨_, rfl⟩
  · exact ⟨_, rfl⟩

@[simp] theorem keeperServed_cmd : (keeperServed s t).cmd = s.cmd := by obtain ⟨l, h⟩ := keeperServed_eq s t; rw [h]
@[simp] theorem keeperServed_parts : (keeperServed s t).parts = s.parts := by obtain ⟨l, h⟩ := keeperServed_eq s t; rw [h]
@[simp] theorem keeperServed_caravans : (keeperServed s t).caravans = s.caravans := by obtain ⟨l, h⟩ := keeperServed_eq s t; rw [h]
@[simp] theorem keeperServed_hbm : (keeperServed s t).hbm = s.hbm := by obtain ⟨l, h⟩ := keeperServed_eq s t; rw [h]
@[simp] theorem keeperServed_hub : (keeperServed s t).hub = s.hub := by obtain ⟨l, h⟩ := keeperServed_eq s t; rw [h]
@[simp] theorem keeperServed_entropy : (keeperServed s t).entropy = s.entropy := by obtain ⟨l, h⟩ := keeperServed_eq s t; rw [h]
@[simp] theorem keeperServed_rel : (keeperServed s t).rel = s.rel := by obtain ⟨l, h⟩ := keeperServed_eq s t; rw [h]
@[simp] theorem keeperServed_locked : (keeperServed s t).keeper.locked = s.keeper.locked := by
  obtain ⟨l, h⟩ := keeperServed_eq s t; rw [h]

@[simp] theorem getPart_keeperServed (p : Nat) : getPart (keeperServed s t) p = getPart s p := by simp [getPart]
@[simp] theorem getCv_keeperServed (cv : Nat) : getCv (keeperServed s t) cv = getCv s cv := by simp [getCv]
@[simp] theorem getInst_keeperServed (n : Nat) : getInst (keeperServed s t) n = getInst s n := by simp [getInst]
@[simp] theorem getBank_keeperServed (n : Nat) : getBank (keeperServed s t) n = getBank s n := by rw [getBank, keeperServed_entropy, ← getBank]
@[simp] theorem getGran_keeperServed (g : Nat × Nat) : getGran (keeperServed s t) g = getGran s g := by simp [getGran]
@[simp] theorem stepRunning_keeperServed (p : Nat) : stepRunning (keeperServed s t) p = stepRunning s p := by simp [stepRunning]
@[simp] theorem freeGran_keeperServed (die : Nat) : freeGran (keeperServed s t) die = freeGran s die := by simp [freeGran, countGran]
@[simp] theorem dieLost_keeperServed (die : Nat) : dieLost (keeperServed s t) die = dieLost s die := by simp [dieLost]
@[simp] theorem stewardOf_keeperServed (p : Nat) : stewardOf (keeperServed s t) p = stewardOf s p := by simp [stewardOf]
@[simp] theorem wantsSeed_keeperServed (n : Nat) : wantsSeed (keeperServed s t) n = wantsSeed s n := by
  simp [wantsSeed, isStrict, anyHealthy]

end Served

-- ------------------------------------------------------------------ a command whose turn has come, and one whose turn has not

theorem withCmd_ready {s : State} {ref : CmdRef} {op : Nat} {t : Taken} (h : Ready s ref op t) (k : Taken → State) :
    withCmd s ref op k = k t := by
  obtain ⟨hfind, hop, hwait, hproved, hturn⟩ := h
  simp [withCmd, hfind, hop, hwait, hproved, hturn]

theorem withKeeper_ready {s : State} {ref : CmdRef} {op : Nat} {t : Taken} (h : KeeperReady s ref op t) (k : State → Taken → State) :
    withKeeper s ref op k = k (keeperServed s t) t := by
  obtain ⟨hready, hnext⟩ := h
  rw [withKeeper, withCmd_ready hready]
  cases hb : t.begun with
  | true => simp [keeperServed, hb]
  | false => simp [keeperServed, hb, hnext hb]

theorem withCmd_outOfTurn {s : State} {ref : CmdRef} {t : Taken} (hfind : findTaken s ref = some t) (hturn : inOrder s t = false)
    (op : Nat) (k : Taken → State) : withCmd s ref op k = s := by
  simp [withCmd, hfind, hturn]

theorem withKeeper_unserved {s : State} {ref : CmdRef} {t : Taken} (hfind : findTaken s ref = some t)
    (h : inOrder s t = false ∨ (t.begun = false ∧ (keeperNext s).map (fun x => x.order) ≠ some t.order))
    (op : Nat) (k : State → Taken → State) : withKeeper s ref op k = s := by
  rcases h with hturn | ⟨hbegun, hnext⟩
  · exact withCmd_outOfTurn hfind hturn _ _
  · simp [withKeeper, withCmd, hfind, hbegun, hnext]

-- ------------------------------------------------------------------ the order of service

/-- How far the mailbox of a message is behind the one that was served last of its class. -/
def serveRank (s : State) (t : Taken) : Nat := boxRank (Table.getD s.keeper.lastServed t.cls.prio 8) (keeperBox s t)

theorem servedBefore_iff (s : State) (a b : Taken) :
    servedBefore s a b = true ↔ a.cls.prio < b.cls.prio ∨ (a.cls.prio = b.cls.prio ∧ serveRank s a < serveRank s b) := by
  simp only [servedBefore, serveRank, Bool.or_eq_true, Bool.and_eq_true, decide_eq_true_eq]
  refine or_congr_right (and_congr_right (fun h => ?_))
  rw [h]

/-- The Keeper need not serve b before a: the order by class, then by rank. -/
def NotAfter (s : State) (a b : Taken) : Prop :=
  a.cls.prio < b.cls.prio ∨ (a.cls.prio = b.cls.prio ∧ serveRank s a ≤ serveRank s b)

theorem NotAfter.refl (s : State) (a : Taken) : NotAfter s a a := Or.inr ⟨rfl, Nat.le_refl _⟩

theorem NotAfter.trans {s : State} {a b c : Taken} (h : NotAfter s a b) (k : NotAfter s b c) : NotAfter s a c := by
  unfold NotAfter at *; omega

theorem notAfter_of_before {s : State} {a b : Taken} (h : servedBefore s a b = true) : NotAfter s a b := by
  rw [servedBefore_iff] at h; unfold NotAfter; omega

theorem notAfter_of_not_before {s : State} {a b : Taken} (h : ¬ servedBefore s a b = true) : NotAfter s b a := by
  rw [servedBefore_iff] at h; unfold NotAfter; omega

/-- One turn of the Keeper's choice: the message chosen so far, and the next one. -/
def pickServed (s : State) (acc : Option Taken) (t : Taken) : Option Taken :=
  match acc with
  | none => some t
  | some b => if servedBefore s t b then some t else some b

theorem keeperNext_eq (s : State) : keeperNext s =
    if keeperBusy s then none else ((keeperMail s).filter (isHead s (keeperMail s))).foldl (pickServed s) none := rfl

/-- What is chosen from a list comes after none of the list, and is one of the list or was chosen before. -/
theorem foldl_pickServed (s : State) : ∀ (l : List Taken) (b t : Taken), l.foldl (pickServed s) (some b) = some t →
    (t = b ∨ t ∈ l) ∧ NotAfter s t b ∧ ∀ x, x ∈ l → NotAfter s t x
  | [], b, t, h => by
    obtain rfl : b = t := Option.some.inj h
    exact ⟨Or.inl rfl, NotAfter.refl s b, fun x hx => absurd hx List.not_mem_nil⟩
  | x :: l, b, t, h => by
    rw [List.foldl_cons, pickServed] at h
    by_cases hx : servedBefore s x b = true
    · rw [if_pos hx] at h
      obtain ⟨hmem, hle, hall⟩ := foldl_pickServed s l x t h
      exact ⟨Or.inr (List.mem_cons.mpr hmem), hle.trans (notAfter_of_before hx), List.forall_mem_cons.mpr ⟨hle, hall⟩⟩
    · rw [if_neg hx] at h
      obtain ⟨hmem, hle, hall⟩ := foldl_pickServed s l b t h
      exact ⟨hmem.imp_right (List.mem_cons_of_mem x), hle,
        List.forall_mem_cons.mpr ⟨hle.trans (notAfter_of_not_before hx), hall⟩⟩

/-- The command that the Keeper serves next is a head of its mailbox, and comes after no other head. -/
theorem keeperNext_first {s : State} {t : Taken} (h : keeperNext s = some t) :
    t ∈ keeperMail s ∧ isHead s (keeperMail s) t = true ∧
      ∀ x, x ∈ keeperMail s → isHead s (keeperMail s) x = true → NotAfter s t x := by
  rw [keeperNext_eq] at h
  split at h
  · cases h
  · cases hl : (keeperMail s).filter (isHead s (keeperMail s)) with
    | nil => simp [hl] at h
    | cons b l =>
      rw [hl, List.foldl_cons] at h
      obtain ⟨hmem, hle, hall⟩ := foldl_pickServed s l b t h
      have hchosen : t ∈ b :: l := List.mem_cons.mpr hmem
      rw [← hl, List.mem_filter] at hchosen
      refine ⟨hchosen.1, hchosen.2, fun x hx hhead => ?_⟩
      have hxl : x ∈ b :: l := hl ▸ List.mem_filter.mpr ⟨hx, hhead⟩
      exact List.forall_mem_cons.mpr ⟨hle, hall⟩ x hxl

theorem isHead_oldest {s : State} {l : List Taken} {t x : Taken} (h : isHead s l t = true) (hx : x ∈ l)
    (hbox : keeperBox s x = keeperBox s t) : t.order ≤ x.order := by
  simpa [hbox] using List.all_eq_true.mp h x hx

theorem NotAfter.prio_le {s : State} {a b : Taken} (h : NotAfter s a b) : a.cls.prio ≤ b.cls.prio := by
  unfold NotAfter at h; omega

theorem NotAfter.rank_le {s : State} {a b : Taken} (h : NotAfter s a b) (hprio : b.cls.prio = a.cls.prio) :
    boxRank (Table.getD s.keeper.lastServed a.cls.prio 8) (keeperBox s a)
      ≤ boxRank (Table.getD s.keeper.lastServed a.cls.prio 8) (keeperBox s b) := by
  have hrank : serveRank s a ≤ serveRank s b := by unfold NotAfter at h; omega
  rwa [serveRank, serveRank, hprio] at hrank

end Sys2Proof.Proofs
end

section
/-! PROOFS. The keys of a partition: rotation, the end of the sweep, installation, the drain (R36, R292, R298 to R302), and O19. -/

namespace Sys2Proof.Proofs

open Sys2Proof.Machine Sys2Proof.Safety Sys2Proof.Laws

-- ------------------------------------------------------------------ the controllers' keys

theorem get?_erase {κ α : Type} [DecidableEq κ] (t : Table κ α) (q : κ) : Table.get? (Table.erase t q) q = none := by
  induction t with
  | nil => rfl
  | cons e t ih =>
    by_cases h : e.1 = q
    · simpa [Table.erase, h] using ih
    · simpa [Table.erase, Table.get?, h] using ih

theorem keeps_hbmUpd (s : State) (x : Hbm) : Keeps [.hbm] s { s with hbm := x } := by
  intro c hc; cases c <;> simp_all [Comp.same, getPart]

section Xts

variable (s : State) (p e : Nat)

theorem keeps_placeXts : Keeps [.hbm] s (placeXts s p e) := by
  unfold placeXts
  split
  · exact keeps_refl _ _
  · exact keeps_hbmUpd _ _

/-- Placing a key changes the controllers' keys alone. -/
theorem placeXts_eq : ∃ x, placeXts s p e = { s with hbm := { s.hbm with xts := x } } := by
  unfold placeXts
  split
  · exact ⟨_, rfl⟩
  · exact ⟨_, rfl⟩

@[simp] theorem placeXts_parts : (placeXts s p e).parts = s.parts := by obtain ⟨x, h⟩ := placeXts_eq s p e; rw [h]
@[simp] theorem placeXts_caravans : (placeXts s p e).caravans = s.caravans := by obtain ⟨x, h⟩ := placeXts_eq s p e; rw [h]
@[simp] theorem placeXts_hub : (placeXts s p e).hub = s.hub := by obtain ⟨x, h⟩ := placeXts_eq s p e; rw [h]
@[simp] theorem placeXts_entropy : (placeXts s p e).entropy = s.entropy := by obtain ⟨x, h⟩ := placeXts_eq s p e; rw [h]
@[simp] theorem placeXts_gran : (placeXts s p e).hbm.gran = s.hbm.gran := by obtain ⟨x, h⟩ := placeXts_eq s p e; rw [h]
@[simp] theorem placeXts_images : (placeXts s p e).hbm.images = s.hbm.images := by obtain ⟨x, h⟩ := placeXts_eq s p e; rw [h]
@[simp] theorem getPart_placeXts (q : Nat) : getPart (placeXts s p e) q = getPart s q := by simp [getPart]
@[simp] theorem getGran_placeXts (g : Nat × Nat) : getGran (placeXts s p e) g = getGran s g := by simp [getGran]

theorem placeXts_xts (h : s.keeper.locked = false) : Table.get? (placeXts s p e).hbm.xts (p, e) = some (xtsKey s p e) := by
  simp [placeXts, h]

/-- A key depends on the debug configuration and the partition's create_nonce only. -/
theorem xtsKey_congr {s u : State} {p : Nat} (hub : u.hub = s.hub) (nonce : (getPart u p).nonce = (getPart s p).nonce) (e : Nat) :
    xtsKey u p e = xtsKey s p e := by
  simp [xtsKey, deviceAreaKey, memoryKey, rootKey, hub, nonce]

end Xts

-- ------------------------------------------------------------------ rotation

/-- Reposting fills mailboxes of caravans: partitions and works stay. -/
theorem repost_frame (s : State) (p : Nat) : Keeps [.caravans] s (repost s p) ∧ (repost s p).parts = s.parts ∧
    ∀ cv, (getCv (repost s p) cv).work = (getCv s cv).work := by
  unfold repost
  refine List.foldlRecOn (motive := fun u => Keeps [.caravans] s u ∧ u.parts = s.parts ∧ ∀ cv, (getCv u cv).work = (getCv s cv).work)
    _ _ ⟨keeps_refl _ _, rfl, fun _ => rfl⟩ ?_
  intro u ⟨hkeeps, hparts, hwork⟩ k _
  split
  · exact ⟨hkeeps, hparts, hwork⟩
  · dsimp only
    split
    · exact ⟨hkeeps, hparts, hwork⟩
    · refine ⟨keeps_trans hkeeps (keeps_setCv _ _ _), hparts, fun cv => ?_⟩
      by_cases h : cv = k
      · subst h; rw [getCv_setCv_self]; exact hwork cv
      · rw [getCv_setCv_ne _ _ h]; exact hwork cv

/-- The partition whose next epoch has become current. -/
def rotatedPart (x : Partition) : Partition := { markLines true x with epoch := x.epoch + 1, oldLive := true, keeperHold := false }

/-- What a rotation leaves before its completion is posted. -/
def rotated (s : State) (p : Nat) : State :=
  repost (placeXts (setPart s p (rotatedPart (getPart s p))) p ((getPart s p).epoch + 1)) p

theorem rotateKey_eq (s : State) (p : Nat) (t : Taken) :
    rotateKey s p t = complete (rotated s p) t .ok { r0 := ((getPart s p).epoch + 1) % 2 ^ 32 } := rfl

section Rotated

variable (s : State) (p : Nat)

theorem getPart_rotated (q : Nat) : getPart (rotated s p) q = getPart (setPart s p (rotatedPart (getPart s p))) q := by
  have h := (repost_frame (placeXts (setPart s p (rotatedPart (getPart s p))) p ((getPart s p).epoch + 1)) p).2.1
  rw [rotated, getPart, h, ← getPart, getPart_placeXts]

theorem rotated_hbm : (rotated s p).hbm = (placeXts (setPart s p (rotatedPart (getPart s p))) p ((getPart s p).epoch + 1)).hbm :=
  (repost_frame _ p).1 .hbm (by simp)

theorem work_rotated (cv : Nat) : (getCv (rotated s p) cv).work = (getCv s cv).work := by
  rw [rotated, (repost_frame _ p).2.2 cv]
  simp [getCv]

theorem keeps_rotated : Keeps [.parts, .hbm, .caravans] s (rotated s p) := by
  refine keeps_trans (keeps_mono (keeps_setPart_cells s p (rotatedPart (getPart s p)) rfl rfl) (by simp)) ?_
  exact keeps_trans (keeps_mono (keeps_placeXts _ _ _) (by simp)) (keeps_mono (repost_frame _ p).1 (by simp))

theorem xts_rotated (h : s.keeper.locked = false) :
    Table.get? (rotated s p).hbm.xts (p, (getPart s p).epoch + 1) = some (xtsKey s p ((getPart s p).epoch + 1)) := by
  rw [rotated_hbm, placeXts_xts (setPart s p _) _ _ h]
  exact congrArg some (xtsKey_congr (setPart_hub s p _) (by simp [rotatedPart, markLines]) _)

end Rotated

/-- A rotation that waits for a running step: the command has begun, and the partition is held. -/
def rotationWaits (s : State) (p : Nat) (t : Taken) : State :=
  updTaken (setPart s p { getPart s p with keeperHold := true }) { t with begun := true }

theorem exec_keyRotate {s : State} {ref : CmdRef} {t : Taken} {p : Nat} (h : KeeperReadyOn s ref 0x0701 t p) :
    exec (.keyRotate ref) s = .next (
      if (getPart s p).oldLive then complete (keeperServed s t) t .keyDraining
      else if stepRunning s p then rotationWaits (keeperServed s t) p t
      else rotateKey (keeperServed s t) p t) := by
  obtain ⟨hready, hpart⟩ := h
  show execKeyRotate ref s = _
  simp [execKeyRotate, withKeeper_ready hready, hpart, rotationWaits]

theorem keyRotate_succeeds {s : State} {ref : CmdRef} {t : Taken} {p : Nat} (h : KeeperReadyOn s ref 0x0701 t p)
    (hold : (getPart s p).oldLive = false) (hrun : stepRunning s p = false) :
    exec (.keyRotate ref) s =
      .next (complete (rotated (keeperServed s t) p) t .ok { r0 := ((getPart s p).epoch + 1) % 2 ^ 32 }) := by
  simp [exec_keyRotate h, hold, hrun, rotateKey_eq]

/-- A partition that a rotation holds back lets no step start. -/
theorem canStep_keeperHold {s : State} {p : Nat} (h : (getPart s p).keeperHold = true) : canStep s p = false := by
  simp [canStep, h]

-- ------------------------------------------------------------------ the end of the sweep

theorem mem_insertNat {n a : Nat} : ∀ {l : List Nat}, a ∈ insertNat n l → a = n ∨ a ∈ l
  | [], h => by simpa [insertNat] using h
  | x :: xs, h => by
    unfold insertNat at h
    split at h
    · exact Or.inr h
    · split at h
      · simpa using h
      · rcases List.mem_cons.mp h with rfl | h
        · simp
        · rcases mem_insertNat h with rfl | h <;> simp [*]

theorem mem_sortNat {l : List Nat} {a : Nat} (h : a ∈ sortNat l) : a ∈ l := by
  refine List.foldlRecOn (motive := fun acc => a ∈ acc → a ∈ l) l _ (by simp) (fun acc ih n hn ha => ?_) h
  rcases mem_insertNat ha with rfl | ha
  · exact hn
  · exact ih ha

theorem sumNat_eq_zero {l : List Nat} (h : ∀ n, n ∈ l → n = 0) : sumNat l = 0 :=
  List.foldlRecOn (motive := fun acc => acc = 0) l _ rfl (fun acc ih n hn => by rw [ih, h n hn])

/-- A work space of which every byte carries the current epoch's mark has no old line. -/
theorem spaceOldLines_current (m : Memory) : spaceOldLines (m.map (fun c => (c.1, currentMark))) = 0 := by
  unfold spaceOldLines
  rw [List.length_eq_zero_iff, List.filter_eq_nil_iff]
  intro l hl hold
  have hmem := mem_sortNat hl
  rw [List.map_map] at hmem
  obtain ⟨c, hc, rfl⟩ := List.mem_map.mp hmem
  have hbyte := List.all_eq_true.mp hold (c.1, currentMark) (List.mem_map.mpr ⟨c, hc, rfl⟩)
  simp [currentMark, oldMark] at hbyte

theorem tileOldLines_current (d : RoundDesc) (n : Nat) (t : Tile) :
    tileOldLines d n { t with prim := markCopy false t.prim, mirr := markCopy false t.mirr } = 0 := by
  simp [tileOldLines, markCopy, sumNat]

/-- The sweep has rewritten every line of the old epoch (R299). -/
theorem oldLineCount_swept (x : Partition) : oldLineCount (markLines false x) = 0 := by
  have hspaces : ∀ n, n ∈ ((markLines false x).spaces.filter (fun e => decide (16 ≤ e.1.1))).map (fun e => spaceOldLines e.2) → n = 0 := by
    intro n hn
    simp only [markLines, List.mem_map, List.mem_filter, decide_eq_true_eq] at hn
    obtain ⟨e, ⟨⟨c, _, rfl⟩, he⟩, rfl⟩ := hn
    by_cases hc : 16 ≤ c.1.1
    · simp [hc, spaceOldLines_current]
    · simp [hc] at he
  have htiles : ∀ r : Round, sumNat ((Table.mapVals r.tiles (fun _ t =>
      { t with prim := markCopy false t.prim, mirr := markCopy false t.mirr })).map (fun e => tileOldLines r.desc e.1 e.2)) = 0 := by
    intro r
    refine sumNat_eq_zero (fun n hn => ?_)
    rw [Table.mapVals, List.map_map] at hn
    obtain ⟨e, _, rfl⟩ := List.mem_map.mp hn
    exact tileOldLines_current _ _ _
  unfold oldLineCount
  rw [sumNat_eq_zero hspaces]
  cases hr : x.round with
  | none => simp [markLines, hr]
  | some r => simpa [markLines, hr] using htiles r

/-- The partition whose sweep has ended. -/
def sweptPart (x : Partition) : Partition := { markLines false x with oldLive := false }

/-- What the end of the sweep leaves before its event is held. -/
def swept (s : State) (p : Nat) : State := dropXts (setPart s p (sweptPart (getPart s p))) p ((getPart s p).epoch - 1)

theorem exec_reencryptionSweepEnd {s : State} {p : Nat} (hold : (getPart s p).oldLive = true) (hlive : (getPart s p).phase = .live) :
    exec (.reencryptionSweepEnd p) s = .next (keyEvent (swept s p) p (keyHandle 0x84 ((getPart s p).epoch - 1))) := by
  show execReencryptionSweepEnd p s = _
  simp [execReencryptionSweepEnd, hold, hlive, swept, sweptPart]

theorem getPart_swept (s : State) (p q : Nat) : getPart (swept s p) q = getPart (setPart s p (sweptPart (getPart s p))) q := rfl

theorem keeps_swept (s : State) (p : Nat) : Keeps [.parts, .hbm] s (swept s p) :=
  keeps_trans (keeps_mono (keeps_setPart_cells s p (sweptPart (getPart s p)) rfl rfl) (by simp))
    (keeps_mono (keeps_hbmUpd _ _) (by simp))

/-- The count of old lines reads neither the cells nor the events of a partition. -/
theorem oldLineCount_own {x y : Partition} (h : own x = own y) : oldLineCount x = oldLineCount y :=
  (congrArg oldLineCount h : oldLineCount (own x) = oldLineCount (own y))

/-- A KEY event stands with the partition's held events. -/
theorem mem_keyEvent (s : State) (p : Nat) (h : W32) : ∃ e, e ∈ (getPart (keyEvent s p h) p).events ∧ e.kind = .key := by
  obtain ⟨e, hmem, hkind, _⟩ := mem_addEvent s p { kind := .key, status := .ok, result1 := h.setWidth 64 }
  exact ⟨e, hmem, hkind⟩

-- ------------------------------------------------------------------ installation and drain

/-- The partition in which the record's key is installed at its handle. -/
def installedPart (x : Partition) (h : W32) (content : Bytes) : Partition :=
  { x with keys := Table.put x.keys h { value := slice content 16 32 }, drains := x.drains ++ installDrains x h }

theorem keyInstall_succeeds {s : State} {ref : CmdRef} {t : Taken} {p : Nat} {buf : Bytes} {o : Opened} {h : W32}
    (hready : KeeperReadyOn s ref 0x0702 t p)
    (hopen : openRecord (getPart s p).session t.desc.counter.toNat 2 (buf.take t.desc.length) = .ok o) (hlen : o.content.length = 48)
    (hh : h = BitVec.ofNat 32 (field o.content 4 4)) (hk1 : 1 ≤ handleKind h) (hk4 : handleKind h ≤ 4)
    (hkind : field o.content 0 1 = handleKind h) (hz1 : zeros o.content 1 3 = true) (hkeylen : field o.content 8 4 = 32)
    (hz2 : zeros o.content 12 4 = true) (hparam : field o.content 4 4 = t.desc.param 0 4) (hidx : handleIndex h ≤ 255) :
    exec (.keyInstall ref buf) s = .next (complete
      (setPart (keeperServed s t) p (installedPart (getPart s p) h o.content)) t .ok { r1 := (installDrains (getPart s p) h).length }) := by
  obtain ⟨hready, hpart⟩ := hready
  have hgood : ¬ (o.content.length ≠ 48 ∨ field o.content 0 1 < 1 ∨ 4 < field o.content 0 1 ∨ zeros o.content 1 3 = false ∨
      field o.content 8 4 ≠ 32 ∨ zeros o.content 12 4 = false ∨ handleKind h ≠ field o.content 0 1 ∨
      field o.content 4 4 ≠ t.desc.param 0 4) := by
    simpa [hlen, hkind, hz1, hkeylen, hz2, hparam] using ⟨Nat.one_le_iff_ne_zero.mp hk1, hk4⟩
  subst hh
  show execKeyInstall ref buf s = _
  simp only [execKeyInstall, withKeeper_ready hready, hpart, getPart_keeperServed, hopen]
  rw [if_neg hgood, if_neg (by omega)]
  rfl

theorem exec_keyDrainEnd {s : State} {p : Nat} {k : DrainKey} (hdrains : (getPart s p).drains = [k]) (huse : drainInUse s p k = false) :
    exec (.keyDrainEnd p k.handle) s = .next (keyEvent (setPart s p { getPart s p with drains := [] }) p k.handle) := by
  show execKeyDrainEnd p k.handle s = _
  simp [execKeyDrainEnd, hdrains, huse]

-- ------------------------------------------------------------------ the clauses of O19

theorem onlyPart_setPart (s : State) (p : Nat) (x : Partition) : OnlyPart p s (setPart s p x) := fun _ hq => getPart_setPart_ne _ _ hq

theorem onlyPart_keyEvent {s u : State} {p : Nat} (h : OnlyPart p s u) (k : W32) : OnlyPart p s (keyEvent u p k) :=
  fun q hq => (getPart_addEvent_ne u _ hq).trans (h q hq)

theorem keyRotate_rotates {s : State} {ref : CmdRef} {t : Taken} {p : Nat} (h : KeeperReadyOn s ref 0x0701 t p)
    (hold : (getPart s p).oldLive = false) (hrun : stepRunning s p = false) :
    Succeeds (.keyRotate ref) s t { r0 := ((getPart s p).epoch + 1) % 2 ^ 32 } (fun v =>
      getPart v p = { markLines true (getPart s p) with epoch := (getPart s p).epoch + 1, oldLive := true, keeperHold := false } ∧
      (s.keeper.locked = false → Table.get? v.hbm.xts (p, (getPart s p).epoch + 1) = some (xtsKey s p ((getPart s p).epoch + 1))) ∧
      v.hbm.gran = s.hbm.gran ∧ v.hbm.images = s.hbm.images ∧ (∀ cv, (getCv v cv).work = (getCv s cv).work) ∧
      OnlyPart p s v ∧ Keeps [.parts, .hbm, .caravans] (keeperServed s t) v) := by
  refine ⟨rotated (keeperServed s t) p, keyRotate_succeeds h hold hrun, ?_, fun hlock => ?_, ?_, ?_, fun cv => ?_, fun q hq => ?_,
    keeps_rotated _ _⟩
  · rw [getPart_rotated, getPart_setPart_self, getPart_keeperServed]; rfl
  · have hx := xts_rotated (keeperServed s t) p (by simpa using hlock)
    rw [getPart_keeperServed] at hx
    rw [hx, xtsKey_congr (keeperServed_hub s t) (by simp)]
  · simp [rotated_hbm]
  · simp [rotated_hbm]
  · simp [work_rotated]
  · rw [getPart_rotated, getPart_setPart_ne _ _ hq, getPart_keeperServed]

theorem keyRotate_waits {s : State} {ref : CmdRef} {t : Taken} {p : Nat} (h : KeeperReadyOn s ref 0x0701 t p)
    (hold : (getPart s p).oldLive = false) (hrun : stepRunning s p = true) :
    Completes (.keyRotate ref) s (fun u => getPart u p = { getPart s p with keeperHold := true } ∧ canStep u p = false ∧
      u.cmd.taken = s.cmd.taken.map (fun y => if y.order = t.order then { t with begun := true } else y) ∧
      OnlyPart p s u ∧ Keeps [.parts, .taken] (keeperServed s t) u) := by
  have hset := keeps_setPart_cells (keeperServed s t) p { getPart s p with keeperHold := true } (by simp) (by simp)
  have hpart : getPart (rotationWaits (keeperServed s t) p t) p = { getPart s p with keeperHold := true } := by simp [rotationWaits]
  refine ⟨rotationWaits (keeperServed s t) p t, by simp [exec_keyRotate h, hold, hrun], hpart, canStep_keeperHold (by rw [hpart]),
    by simp [rotationWaits, updTaken], fun q hq => by simp [rotationWaits, getPart_setPart_ne _ _ hq], ?_⟩
  simp only [rotationWaits, getPart_keeperServed]
  exact keeps_trans (keeps_mono hset (by simp)) (keeps_mono (keeps_updTaken _ _) (by simp))

theorem reencryptionSweepEnd_sweeps {s : State} {p : Nat} (hold : (getPart s p).oldLive = true) (hlive : (getPart s p).phase = .live) :
    Completes (.reencryptionSweepEnd p) s (fun u => own (getPart u p) = { own (markLines false (getPart s p)) with oldLive := false } ∧
      oldLineCount (getPart u p) = 0 ∧
      Table.get? u.hbm.xts (p, (getPart s p).epoch - 1) = none ∧ u.hbm.gran = s.hbm.gran ∧ u.hbm.images = s.hbm.images ∧
      (∃ e, e ∈ (getPart u p).events ∧ e.kind = .key) ∧ OnlyPart p s u ∧ Keeps [.parts, .partCells, .hbm] s u) := by
  have hown : ∀ k, own (getPart (keyEvent (swept s p) p k) p) = own (sweptPart (getPart s p)) := fun k => by
    rw [keyEvent, own_addEvent, getPart_swept, getPart_setPart_self]
  refine ⟨_, exec_reencryptionSweepEnd hold hlive, hown _, ?_, get?_erase _ _, rfl, rfl, mem_keyEvent _ _ _,
    onlyPart_keyEvent (fun q hq => (getPart_swept s p q).trans (getPart_setPart_ne _ _ hq)) _, ?_⟩
  · rw [oldLineCount_own (hown _)]
    exact oldLineCount_swept (getPart s p)
  · exact keeps_trans (keeps_mono (keeps_swept s p) (by simp)) (keeps_mono (keeps_keyEvent _ _ _) (by simp))

theorem keyDrainEnd_drains {s : State} {p : Nat} {k : DrainKey} (hdrains : (getPart s p).drains = [k]) (huse : drainInUse s p k = false) :
    Completes (.keyDrainEnd p k.handle) s (fun u => (getPart u p).drains = [] ∧ (getPart u p).keys = (getPart s p).keys ∧
      OnlyPart p s u ∧ Keeps [.parts, .partCells] s u) := by
  have hown : own (getPart (keyEvent (setPart s p { getPart s p with drains := [] }) p k.handle) p)
      = own { getPart s p with drains := [] } := by
    rw [keyEvent, own_addEvent, getPart_setPart_self]
  exact ⟨_, exec_keyDrainEnd hdrains huse, (congrArg Partition.drains hown :), (congrArg Partition.keys hown :),
    onlyPart_keyEvent (onlyPart_setPart _ _ _) _,
    keeps_trans (keeps_setPart _ _ _) (keeps_mono (keeps_keyEvent _ _ _) (by simp))⟩

/-- A management command that the Keeper does not serve now changes nothing. -/
theorem keeperOps_wait {s : State} {ref : CmdRef} {t : Taken} (buf : Bytes) (hfind : findTaken s ref = some t)
    (h : inOrder s t = false ∨ (t.begun = false ∧ (keeperNext s).map (fun x => x.order) ≠ some t.order)) :
    exec (.keyRotate ref) s = .next s ∧ exec (.keyInstall ref buf) s = .next s ∧ exec (.partCreate ref) s = .next s ∧
    exec (.partRelease ref) s = .next s ∧ exec (.sessionStart ref buf) s = .next s ∧ exec (.sessionRecord ref buf) s = .next s ∧
    exec (.sessionEnd ref buf) s = .next s ∧ exec (.attest ref buf) s = .next s :=
  have hstay := fun op k => congrArg (Host.Outcome.next (φ := Fault) (ρ := Refusal)) (withKeeper_unserved hfind h op k)
  ⟨hstay _ _, hstay _ _, hstay _ _, hstay _ _, hstay _ _, hstay _ _, hstay _ _, hstay _ _⟩

/-- A command of the Steward's whose turn has not come changes nothing. -/
theorem stewardOps_wait {s : State} {ref : CmdRef} {t : Taken} (hfind : findTaken s ref = some t) (hturn : inOrder s t = false) :
    exec (.fence ref) s = .next s ∧ exec (.quiesceEnter ref) s = .next s ∧ exec (.roundClose ref) s = .next s ∧
    exec (.portFailover ref) s = .next s :=
  have hstay := fun op k => congrArg (Host.Outcome.next (φ := Fault) (ρ := Refusal)) (withCmd_outOfTurn hfind hturn op k)
  ⟨hstay _ _, hstay _ _, hstay _ _, hstay _ _⟩

/-- Settles O19: the clauses of rotation, sweep, installation and drain, and the Keeper's choice as a least one by class and rank. -/
theorem keysAreRotatedInstalledAndDrained : Obligations.KeysAreRotatedInstalledAndDrained := by
  unfold Obligations.KeysAreRotatedInstalledAndDrained
  refine ⟨⟨fun s ref t p h hold hrun => keyRotate_rotates h hold hrun, fun s ref t p h hold hrun => keyRotate_waits h hold hrun,
    fun s ref t p h hold => ?_, fun s p hold hlive => reencryptionSweepEnd_sweeps hold hlive, ?_,
    fun s p k hdrains huse => keyDrainEnd_drains hdrains huse⟩,
    fun s ref t buf hfind h => keeperOps_wait buf hfind h, fun s ref t hfind hturn => stewardOps_wait hfind hturn, fun s t h => ?_⟩
  · simp [exec_keyRotate h, hold]
  · intro s ref t p buf o h hready hopen hlen hh hk1 hk4 hkind hz1 hkeylen hz2 hparam hidx
    exact ⟨_, keyInstall_succeeds hready hopen hlen hh hk1 hk4 hkind hz1 hkeylen hz2 hparam hidx, getPart_setPart_self _ _ _,
      fun q hq => by rw [getPart_setPart_ne _ _ hq, getPart_keeperServed],
      keeps_setPart_cells _ _ _ (by simp [installedPart]) (by simp [installedPart])⟩
  · obtain ⟨hmail, hhead, hfirst⟩ := keeperNext_first h
    exact ⟨hmail, fun x hx hbox => isHead_oldest hhead hx hbox, fun x hx hxhead =>
      ⟨(hfirst x hx hxhead).prio_le, (hfirst x hx hxhead).rank_le⟩⟩

end Sys2Proof.Proofs
end

section
/-! PROOFS. What PART.CREATE builds on: the granules that the Keeper takes on a die (R293), a draw from a queue that holds a cell (R345), and
the instantiation of a partition's DRBG (R341, R342). -/

namespace Sys2Proof.Proofs

open Sys2Proof.Machine Sys2Proof.Safety Sys2Proof.Laws

-- ------------------------------------------------------------------ granules set together

theorem getGran_setGrans (s : State) (l : List (Nat × Nat)) (x : GranState) (g : Nat × Nat) :
    getGran (setGrans s l x) g = if g ∈ l then x else getGran s g := by
  induction l generalizing s with
  | nil => simp [setGrans]
  | cons a l ih =>
    rw [setGrans, List.foldl_cons, ← setGrans, ih]
    by_cases hl : g ∈ l
    · simp [hl]
    · by_cases ha : g = a
      · simp [ha]
      · simp [hl, ha, getGran_setGran_ne s x ha]

theorem keeps_setGrans (s : State) (l : List (Nat × Nat)) (x : GranState) : Keeps [.hbm] s (setGrans s l x) :=
  keeps_foldl _ (fun s g => keeps_setGran s g x) l s

theorem setGrans_parts (s : State) (l : List (Nat × Nat)) (x : GranState) : (setGrans s l x).parts = s.parts :=
  List.foldlRecOn (motive := fun u : State => u.parts = s.parts) l _ rfl (fun _ ih _ _ => ih)

@[simp] theorem getPart_setGrans (s : State) (l : List (Nat × Nat)) (x : GranState) (p : Nat) :
    getPart (setGrans s l x) p = getPart s p := by
  rw [getPart, setGrans_parts, ← getPart]

-- ------------------------------------------------------------------ counting the free granules of a die

theorem sumNat_eq_sum (l : List Nat) : sumNat l = l.sum := List.sum_eq_foldl.symm

theorem length_filter_eq_sum {α : Type} (f : α → Bool) (l : List α) : (l.filter f).length = (l.map (fun a => if f a then 1 else 0)).sum := by
  induction l with
  | nil => rfl
  | cons a l ih =>
    rw [List.filter_cons, List.map_cons, List.sum_cons, ← ih]
    by_cases h : f a = true
    · rw [if_pos h, if_pos h, List.length_cons, Nat.add_comm]
    · rw [if_neg h, if_neg h, Nat.zero_add]

/-- A sum of which one term is less by at most one is less by at most one. -/
theorem sum_range_le_succ {f g : Nat → Nat} {j : Nat} (hne : ∀ a, a ≠ j → f a = g a) (hj : f j ≤ g j + 1) (n : Nat) :
    ((List.range n).map f).sum ≤ ((List.range n).map g).sum + if j < n then 1 else 0 := by
  induction n with
  | zero => simp
  | succ n ih =>
    simp only [List.range_succ, List.map_append, List.map_cons, List.map_nil, List.sum_append, List.sum_cons, List.sum_nil]
    by_cases h : n = j
    · subst h
      rw [if_neg (Nat.lt_irrefl n)] at ih
      rw [if_pos (Nat.lt_succ_self n)]
      omega
    · have hterm := hne n h
      split at ih <;> split <;> omega

/-- Free granules of one stack. -/
def freeOnStack (s : State) (k : Nat) : Nat := ((List.range 56).map (fun g => if getGran s (k, g) = .free then 1 else 0)).sum

theorem freeGran_eq_sum (s : State) (die : Nat) : freeGran s die = ((List.range 4).map (fun j => freeOnStack s (4 * die + j))).sum := by
  have hstack : ∀ k, ((List.range 56).filter (fun g => decide (getGran s (k, g) = .free))).length = freeOnStack s k := fun k => by
    rw [length_filter_eq_sum]
    simp only [freeOnStack, decide_eq_true_eq]
  rw [freeGran, countGran, sumNat_eq_sum, stacksOf, List.map_map]
  exact congrArg List.sum (List.map_congr_left (fun j _ => hstack (4 * die + j)))

theorem freeOnStack_congr {s u : State} {k : Nat} (h : ∀ g, getGran u (k, g) = getGran s (k, g)) : freeOnStack u k = freeOnStack s k := by
  simp only [freeOnStack, h]

/-- The count for a die depends on the granules of its four stacks only. -/
theorem freeGran_congr {s u : State} {die : Nat} (h : ∀ g : Nat × Nat, g.1 / 4 = die → getGran u g = getGran s g) :
    freeGran u die = freeGran s die := by
  rw [freeGran_eq_sum, freeGran_eq_sum]
  refine congrArg List.sum (List.map_congr_left (fun j hj => freeOnStack_congr (fun g => h (4 * die + j, g) ?_)))
  have hj4 := List.mem_range.mp hj
  show (4 * die + j) / 4 = die
  omega

theorem freeOnStack_setGran_self (s : State) (k g : Nat) (x : GranState) : freeOnStack s k ≤ freeOnStack (setGran s (k, g) x) k + 1 := by
  have hne : ∀ a, a ≠ g → (if getGran s (k, a) = .free then 1 else 0) = if getGran (setGran s (k, g) x) (k, a) = .free then 1 else 0 :=
    fun a ha => by rw [getGran_setGran_ne _ _ (fun he => ha (Prod.mk.inj he).2)]
  refine Nat.le_trans (sum_range_le_succ hne ?_ 56) (Nat.add_le_add_left ?_ _)
  · split <;> omega
  · split <;> omega

theorem freeOnStack_setGran_ne (s : State) {k m : Nat} (g : Nat) (x : GranState) (h : m ≠ k) :
    freeOnStack (setGran s (k, g) x) m = freeOnStack s m :=
  freeOnStack_congr (fun _ => getGran_setGran_ne _ _ (fun he => h (Prod.mk.inj he).1))

/-- With one granule set, at most one free granule fewer is left. -/
theorem freeGran_setGran (s : State) (die j g : Nat) (x : GranState) :
    freeGran s die ≤ freeGran (setGran s (4 * die + j, g) x) die + 1 := by
  rw [freeGran_eq_sum, freeGran_eq_sum]
  have hne : ∀ i, i ≠ j → freeOnStack s (4 * die + i) = freeOnStack (setGran s (4 * die + j, g) x) (4 * die + i) :=
    fun i hi => (freeOnStack_setGran_ne s g x (by omega)).symm
  refine Nat.le_trans (sum_range_le_succ hne (freeOnStack_setGran_self s (4 * die + j) g x) 4) (Nat.add_le_add_left ?_ _)
  split <;> omega

theorem lowestFree_some {s : State} {k g : Nat} (h : lowestFree s k = some g) : getGran s (k, g) = .free := by
  simpa using List.find?_some h

/-- A stack with a free granule has a lowest one. -/
theorem lowestFree_isSome {s : State} {k : Nat} (h : 0 < freeOnStack s k) : (lowestFree s k).isSome = true := by
  obtain ⟨n, hn, hpos⟩ := List.sum_pos_iff_exists_pos_nat.mp h
  obtain ⟨g, hg, rfl⟩ := List.mem_map.mp hn
  split at hpos
  · rename_i hfree
    exact List.find?_isSome.mpr ⟨g, hg, decide_eq_true hfree⟩
  · exact absurd hpos (Nat.lt_irrefl 0)

/-- While a die has a free granule, the rotation over its stacks finds one, whichever stack it starts at. -/
theorem exists_freeStack {s : State} {die : Nat} (i : Nat) (h : 0 < freeGran s die) :
    ∃ j, ((List.range 4).map (fun j => (i + j) % 4)).find? (fun j => (lowestFree s (4 * die + j)).isSome) = some j := by
  rw [freeGran_eq_sum] at h
  obtain ⟨n, hn, hpos⟩ := List.sum_pos_iff_exists_pos_nat.mp h
  obtain ⟨j, hj, rfl⟩ := List.mem_map.mp hn
  have hj4 := List.mem_range.mp hj
  have hmem : j ∈ (List.range 4).map (fun k => (i + k) % 4) :=
    List.mem_map.mpr ⟨(j + 4 - i % 4) % 4, List.mem_range.mpr (Nat.mod_lt _ (by omega)), by omega⟩
  exact Option.isSome_iff_exists.mp (List.find?_isSome.mpr ⟨j, hmem, lowestFree_isSome hpos⟩)

-- ------------------------------------------------------------------ the granules that a creation takes

theorem takeGranules_succ {s : State} {p die i j g : Nat} (k : Nat) (acc : List (Nat × Nat))
    (hj : ((List.range 4).map (fun j => (i + j) % 4)).find? (fun j => (lowestFree s (4 * die + j)).isSome) = some j)
    (hg : lowestFree s (4 * die + j) = some g) : takeGranules p die (k + 1) i s acc =
      takeGranules p die k ((j + 1) % 4) (setGran s (4 * die + j, g) (.owned p)) (acc ++ [(4 * die + j, g)]) := by
  simp only [takeGranules, hj, hg]

/-- Where a die has enough free granules, as many as asked for are taken: each was free and lies on the die, and nothing else changes. -/
theorem takeGranules_takes (p die : Nat) : ∀ (k i : Nat) (s : State) (acc : List (Nat × Nat)), k ≤ freeGran s die →
    ∃ l, takeGranules p die k i s acc = (acc ++ l, setGrans s l (.owned p)) ∧ l.length = k ∧
      ∀ g, g ∈ l → getGran s g = .free ∧ g.1 / 4 = die
  | 0, i, s, acc, _ => ⟨[], by simp [takeGranules, setGrans], rfl, by simp⟩
  | k + 1, i, s, acc, h => by
    obtain ⟨j, hj⟩ := exists_freeStack i (s := s) (die := die) (by omega)
    have hj4 : j < 4 := by
      obtain ⟨m, _, rfl⟩ := List.mem_map.mp (List.mem_of_find?_eq_some hj)
      exact Nat.mod_lt _ (by omega)
    obtain ⟨g, hg⟩ := Option.isSome_iff_exists.mp (by simpa using List.find?_some hj)
    have hroom : k ≤ freeGran (setGran s (4 * die + j, g) (.owned p)) die := by
      have := freeGran_setGran s die j g (.owned p)
      omega
    obtain ⟨l, htake, hlen, hfree⟩ := takeGranules_takes p die k ((j + 1) % 4) _ (acc ++ [(4 * die + j, g)]) hroom
    refine ⟨(4 * die + j, g) :: l, ?_, by simp [hlen], fun x hx => ?_⟩
    · rw [takeGranules_succ k acc hj hg, htake]
      simp [setGrans]
    · rcases List.mem_cons.mp hx with rfl | hx
      · exact ⟨lowestFree_some hg, by simp only; omega⟩
      · obtain ⟨hgran, hdie⟩ := hfree x hx
        refine ⟨?_, hdie⟩
        by_cases hxg : x = (4 * die + j, g)
        · simp [hxg] at hgran
        · rwa [getGran_setGran_ne _ _ hxg] at hgran

-- ------------------------------------------------------------------ a draw from a queue that holds a cell

theorem drawOp_queued {s : State} {c : Bytes} {cs : List Bytes} (hlive : (getInst s 64).live = true)
    (hstall : (getInst s 64).stalled = false) (hqueue : (getInst s 64).queue = c :: cs) :
    drawOp s 64 = ((.ok, c), setInst s 64 { getInst s 64 with
      queue := cs, filling := (getInst s 64).filling || decide (cs.length ≤ 16) }) := by
  simp [drawOp, hlive, hstall, hqueue]

-- ------------------------------------------------------------------ what instantiating a partition's DRBG leaves

/-- What may change is the cells that partition n has drawn, the DRBG of n, and what signals an entropy error. -/
def OnlyDrbg (n : Nat) (s v : State) : Prop :=
  (∃ c, getPart v n = { getPart s n with cellsUsed := c }) ∧ OnlyPart n s v ∧ (∀ m, m ≠ n → getInst v m = getInst s m) ∧
    Keeps [.partCells, .entropy, .fns, .outputs] s v

theorem OnlyDrbg.refl (n : Nat) (s : State) : OnlyDrbg n s s := ⟨⟨_, rfl⟩, fun _ _ => rfl, fun _ _ => rfl, keeps_refl _ _⟩

theorem OnlyDrbg.trans {n : Nat} {s u v : State} (h : OnlyDrbg n s u) (k : OnlyDrbg n u v) : OnlyDrbg n s v := by
  obtain ⟨⟨a, ha⟩, hparts, hinsts, hkeeps⟩ := h
  obtain ⟨⟨b, hb⟩, kparts, kinsts, kkeeps⟩ := k
  exact ⟨⟨b, by rw [hb, ha]⟩, fun q hq => (kparts q hq).trans (hparts q hq), fun m hm => (kinsts m hm).trans (hinsts m hm),
    keeps_trans hkeeps kkeeps⟩

theorem onlyDrbg_setInst (s : State) (n : Nat) (d : Drbg) : OnlyDrbg n s (setInst s n d) :=
  ⟨⟨_, rfl⟩, fun _ _ => rfl, fun _ hm => getInst_setInst_ne _ _ hm, keeps_mono (keeps_setInst _ _ _) (by simp)⟩

theorem onlyDrbg_cells (s : State) (n c : Nat) : OnlyDrbg n s (setPart s n { getPart s n with cellsUsed := c }) :=
  ⟨⟨c, by simp⟩, fun _ hq => getPart_setPart_ne _ _ hq, fun _ _ => rfl, keeps_mono (keeps_setPart_own _ _ _ rfl) (by simp)⟩

theorem onlyDrbg_takeSeeds (s : State) (n : Nat) : OnlyDrbg n s (takeSeeds s) :=
  ⟨⟨_, rfl⟩, fun _ _ => rfl, fun _ _ => rfl, by intro c hc; cases c <;> simp_all [Comp.same, takeSeeds, getPart]⟩

theorem signal_parts (s : State) (f : Fn) (v : Nat) : (signal s f v).parts = s.parts := by
  unfold signal; dsimp only; split <;> rfl

theorem signal_entropy (s : State) (f : Fn) (v : Nat) : (signal s f v).entropy = s.entropy := by
  unfold signal; dsimp only; split <;> rfl

theorem setEntError_frame (s : State) (m : BitVec 4) :
    (setEntError s m).parts = s.parts ∧ (setEntError s m).entropy.inst = s.entropy.inst := by
  unfold setEntError
  dsimp only
  split
  · exact ⟨rfl, rfl⟩
  · exact ⟨by simp [signalPfs, signal_parts], by simp [signalPfs, signal_entropy]⟩

@[simp] theorem getInst_setEntError (s : State) (m : BitVec 4) (n : Nat) : getInst (setEntError s m) n = getInst s n := by
  rw [getInst, (setEntError_frame s m).2, ← getInst]

theorem onlyDrbg_setEntError (s : State) (m : BitVec 4) (n : Nat) : OnlyDrbg n s (setEntError s m) := by
  have hpart : ∀ q, getPart (setEntError s m) q = getPart s q := fun q => by rw [getPart, (setEntError_frame s m).1, ← getPart]
  exact ⟨⟨_, hpart n⟩, fun q _ => hpart q, fun k _ => getInst_setEntError s m k, keeps_mono (keeps_setEntError s m) (by simp)⟩

section Queue

variable (s : State) {n : Nat}

theorem onlyDrbg_drawQueue (k : Nat) (hn : n ≠ 64) : OnlyDrbg n s (drawQueue s n k) := by
  unfold drawQueue
  simp only [hn, if_false]
  split
  · exact .refl n s
  · exact (onlyDrbg_setInst s n _).trans (onlyDrbg_cells _ n _)

theorem onlyDrbg_returnQueue (k : Nat) (hn : n ≠ 64) : OnlyDrbg n s (returnQueue s n k) := by
  unfold returnQueue
  simp only [hn, if_false]
  split
  · exact .refl n s
  · exact (onlyDrbg_setInst s n _).trans (onlyDrbg_cells _ n _)

theorem onlyDrbg_checkStrict (hn : n ≠ 64) : OnlyDrbg n s (checkStrict s n) := by
  unfold checkStrict
  split
  · exact ((onlyDrbg_returnQueue s _ hn).trans (onlyDrbg_setInst _ n _)).trans
      ((onlyDrbg_setInst _ n _).trans (onlyDrbg_setEntError _ 4 n))
  · exact .refl n s

theorem live_drawQueue (k : Nat) (hn : n ≠ 64) : (getInst (drawQueue s n k) n).live = (getInst s n).live := by
  unfold drawQueue
  simp only [hn, if_false]
  split <;> simp

theorem live_returnQueue (k : Nat) (hn : n ≠ 64) : (getInst (returnQueue s n k) n).live = (getInst s n).live := by
  unfold returnQueue
  simp only [hn, if_false]
  split <;> simp

theorem live_checkStrict (hn : n ≠ 64) : (getInst (checkStrict s n) n).live = (getInst s n).live := by
  unfold checkStrict
  split
  · simp [stallInst, flushQueue, live_returnQueue s _ hn]
  · rfl

theorem onlyDrbg_instantiateOp (hn : n ≠ 64) : OnlyDrbg n s (instantiateOp s n) := by
  unfold instantiateOp
  split
  · exact (((onlyDrbg_takeSeeds s n).trans (onlyDrbg_setInst _ n _)).trans (onlyDrbg_drawQueue _ _ hn)).trans (onlyDrbg_checkStrict _ hn)
  · exact .refl n s

/-- A DRBG that the seed buffer serves is live. -/
theorem live_instantiateOp (hn : n ≠ 64) (hserves : seedServes s n = true) (hdead : (getInst s n).live = false) :
    (getInst (instantiateOp s n) n).live = true := by
  simp [instantiateOp, hserves, hdead, live_checkStrict _ hn, live_drawQueue _ _ hn]

end Queue

/-- Whether a DRBG waits for the seed buffer is read off its flags, its partition's phase, the strict bits and the banks. -/
theorem wantsSeed_congr {s u : State} {n : Nat} (herased : u.entropy.erased = s.entropy.erased) (hstrict : u.entropy.strict = s.entropy.strict)
    (hbanks : u.entropy.banks = s.entropy.banks) (hlive : (getInst u n).live = (getInst s n).live)
    (howed : (getInst u n).owed = (getInst s n).owed) (hstall : (getInst u n).stalled = (getInst s n).stalled)
    (hphase : (getPart u n).phase = (getPart s n).phase) : wantsSeed u n = wantsSeed s n := by
  have hbank : ∀ b, getBank u b = getBank s b := fun b => by rw [getBank, hbanks, ← getBank]
  simp only [wantsSeed, isStrict, anyHealthy, herased, hstrict, hbank, hlive, howed, hstall, hphase]

/-- The one DRBG that waits for the seed buffer is served when two blocks are there. -/
theorem seedServes_only {s : State} {n : Nat} (hseeds : 2 ≤ s.entropy.seeds.length) (hwants : wantsSeed s n = true)
    (hothers : ∀ m, m < 65 → m ≠ n → wantsSeed s m = false) : seedServes s n = true := by
  simp only [seedServes, hwants, hseeds, decide_true, Bool.true_and, List.all_eq_true, List.mem_range]
  intro m hm
  by_cases hmn : m = n
  · simp [hmn]
  · simp [hothers m hm hmn]

end Sys2Proof.Proofs
end

section
/-! PROOFS. PART.CREATE (R35, R267, R293, R310, R342), and O20. -/

namespace Sys2Proof.Proofs

open Sys2Proof.Machine Sys2Proof.Safety Sys2Proof.Laws

-- ------------------------------------------------------------------ the steps of a creation

/-- The state after a cell of the device's DRBG has been drawn. -/
def drawnDevice (s : State) (cs : List Bytes) : State :=
  setInst s 64 { getInst s 64 with queue := cs, filling := (getInst s 64).filling || decide (cs.length ≤ 16) }

/-- The partition that a PART.CREATE makes, with its granules and its create_nonce; the cells it has drawn stay. -/
def newPart (s : State) (t : Taken) (p : Nat) (a b : List (Nat × Nat)) (c : Bytes) : Partition :=
  { phase := .live, home := portOf (t.desc.param 1 1), latency := decide (t.desc.param 2 1 = 1), steward := stewardOf s p, gran0 := a
    gran1 := b, nonce := c.take 16, serving := some (portOf (t.desc.param 1 1)), cellsUsed := (getPart s p).cellsUsed }

/-- The state with the granules taken, the partition made and its key placed, before its DRBG is looked at. -/
def founded (s : State) (t : Taken) (p : Nat) (a b : List (Nat × Nat)) (c : Bytes) (cs : List Bytes) : State :=
  placeXts (setPart (setGrans (setGrans (drawnDevice s cs) a (.owned p)) b (.owned p)) p (newPart s t p a b c)) p 0

/-- What a creation leaves before its completion is posted. -/
def created (s : State) (t : Taken) (p : Nat) (a b : List (Nat × Nat)) (c : Bytes) (cs : List Bytes) : State :=
  instantiateOp (founded s t p a b c cs) p

/-- What the params and the state must be for a creation to come to its granules. -/
structure Creatable (s : State) (ref : CmdRef) (t : Taken) (p g0 g1 : Nat) : Prop where
  ready : KeeperReady s ref 0x0101 t
  part : p = t.desc.param 0 1
  gran0 : g0 = t.desc.param 3 1
  gran1 : g1 = t.desc.param 4 1
  part_le : p ≤ 63
  home_le : t.desc.param 1 1 ≤ 1
  class_le : t.desc.param 2 1 ≤ 1
  absent : (getPart s p).phase = .absent
  gran0_pos : 0 < g0
  gran1_pos : 0 < g1
  die0 : dieLost s 0 = false
  die1 : dieLost s 1 = false

section Create

variable {s : State} {ref : CmdRef} {t : Taken} {p g0 g1 : Nat}

theorem partCreate_noRoom (h : Creatable s ref t p g0 g1) (hroom : freeGran s 0 < g0 ∨ freeGran s 1 < g1) :
    exec (.partCreate ref) s =
      .next (complete (keeperServed s t) t .retryLater (retryHint (roomHint (keeperServed s t) g0 g1))) := by
  obtain ⟨hready, rfl, rfl, rfl, hp, hhome, hclass, habsent, hg0, hg1, hdie0, hdie1⟩ := h
  show execPartCreate ref s = _
  simp [execPartCreate, withKeeper_ready hready, Nat.not_lt.mpr hp, Nat.not_lt.mpr hhome, Nat.not_lt.mpr hclass, habsent, Nat.ne_of_gt hg0,
    Nat.ne_of_gt hg1, hdie0, hdie1, hroom]

theorem partCreate_scrubbing (hready : KeeperReady s ref 0x0101 t) (hpart : p = t.desc.param 0 1) (hp : p ≤ 63)
    (hhome : t.desc.param 1 1 ≤ 1) (hclass : t.desc.param 2 1 ≤ 1) (hscrub : (getPart s p).phase = .scrubbing) :
    exec (.partCreate ref) s =
      .next (complete (keeperServed s t) t .retryLater (retryHint (max 50 (scrubTime (keeperServed s t) p)))) := by
  subst hpart
  show execPartCreate ref s = _
  simp [execPartCreate, withKeeper_ready hready, Nat.not_lt.mpr hp, Nat.not_lt.mpr hhome, Nat.not_lt.mpr hclass, hscrub]

theorem getInst_drawnDevice_ne (s : State) (cs : List Bytes) {n : Nat} (h : n ≠ 64) : getInst (drawnDevice s cs) n = getInst s n :=
  getInst_setInst_ne _ _ h

/-- The creation with enough granules and a cell of the device's DRBG: which granules it takes, and what it leaves. -/
theorem partCreate_founds (h : Creatable s ref t p g0 g1) (hroom0 : g0 ≤ freeGran s 0) (hroom1 : g1 ≤ freeGran s 1) {c : Bytes}
    {cs : List Bytes} (hlive : (getInst s 64).live = true) (hstall : (getInst s 64).stalled = false)
    (hqueue : (getInst s 64).queue = c :: cs) : ∃ a b, a.length = g0 ∧ b.length = g1 ∧ (∀ g, g ∈ a ++ b → getGran s g = .free) ∧
      exec (.partCreate ref) s = .next (complete (created (keeperServed s t) t p a b c cs) t .ok
        { r0 := p + 256 * stewardOf s p }) := by
  obtain ⟨hready, rfl, rfl, rfl, hp, hhome, hclass, habsent, hg0, hg1, hdie0, hdie1⟩ := h
  have hdraw : drawOp (keeperServed s t) 64 = ((.ok, c), drawnDevice (keeperServed s t) cs) :=
    drawOp_queued (by simpa using hlive) (by simpa using hstall) (by simpa using hqueue)
  have hgran : ∀ g, getGran (drawnDevice (keeperServed s t) cs) g = getGran s g := fun g => getGran_keeperServed s t g
  have hfree : ∀ die, freeGran (drawnDevice (keeperServed s t) cs) die = freeGran s die := fun die => freeGran_congr (fun g _ => hgran g)
  obtain ⟨a, htake0, hlen0, hfree0⟩ := takeGranules_takes (t.desc.param 0 1) 0 _ 0 _ [] (Nat.le_trans hroom0 (Nat.le_of_eq (hfree 0).symm))
  have hother : freeGran (setGrans (drawnDevice (keeperServed s t) cs) a (.owned (t.desc.param 0 1))) 1 = freeGran s 1 := by
    refine (freeGran_congr (fun g hg => ?_)).trans (hfree 1)
    rw [getGran_setGrans, if_neg (fun hmem => by have := (hfree0 g hmem).2; omega)]
  obtain ⟨b, htake1, hlen1, hfree1⟩ := takeGranules_takes (t.desc.param 0 1) 1 _ 0 _ [] (Nat.le_trans hroom1 (Nat.le_of_eq hother.symm))
  refine ⟨a, b, hlen0, hlen1, fun g hg => ?_, ?_⟩
  · rcases List.mem_append.mp hg with hg | hg
    · rw [← hgran]; exact (hfree0 g hg).1
    · have hgb := (hfree1 g hg).1
      rw [getGran_setGrans] at hgb
      split at hgb
      · cases hgb
      · rw [← hgran]; exact hgb
  · show execPartCreate ref s = _
    simp [execPartCreate, withKeeper_ready hready, Nat.not_lt.mpr hp, Nat.not_lt.mpr hhome, Nat.not_lt.mpr hclass, habsent, Nat.ne_of_gt hg0,
      Nat.ne_of_gt hg1, hdie0, hdie1, Nat.not_lt.mpr hroom0, Nat.not_lt.mpr hroom1, hdraw, htake0, htake1, created, founded, newPart]

end Create

-- ------------------------------------------------------------------ what a creation leaves

section Founded

variable (s : State) (t : Taken) (p : Nat) (a b : List (Nat × Nat)) (c : Bytes) (cs : List Bytes)

theorem getPart_founded : getPart (founded s t p a b c cs) p = newPart s t p a b c := by simp [founded]

theorem getPart_founded_ne {q : Nat} (h : q ≠ p) : getPart (founded s t p a b c cs) q = getPart s q := by
  rw [founded, getPart_placeXts, getPart_setPart_ne _ _ h, getPart_setGrans, getPart_setGrans]; rfl

theorem founded_entropy : (founded s t p a b c cs).entropy = (drawnDevice s cs).entropy := by
  rw [founded, placeXts_entropy, setPart_entropy]
  exact (keeps_setGrans _ b _ .entropy (by simp)).trans (keeps_setGrans _ a _ .entropy (by simp))

theorem getInst_founded (n : Nat) : getInst (founded s t p a b c cs) n = getInst (drawnDevice s cs) n := by
  rw [getInst, founded_entropy, ← getInst]

theorem getGran_founded (g : Nat × Nat) : getGran (founded s t p a b c cs) g = if g ∈ a ++ b then .owned p else getGran s g := by
  rw [founded, getGran_placeXts, getGran_setPart, getGran_setGrans, getGran_setGrans]
  by_cases ha : g ∈ a
  · simp [ha]
  · by_cases hb : g ∈ b
    · simp [hb]
    · simp only [ha, hb, List.mem_append, or_self, if_false]; rfl

theorem keeps_founded : Keeps [.parts, .partCells, .hbm, .entropy] s (founded s t p a b c cs) := by
  have hdraw := keeps_setInst s 64 { getInst s 64 with queue := cs, filling := (getInst s 64).filling || decide (cs.length ≤ 16) }
  have hgran : ∀ u l, Keeps [.parts, .partCells, .hbm, .entropy] u (setGrans u l (.owned p)) := fun u l =>
    keeps_mono (keeps_setGrans _ _ _) (by simp)
  refine keeps_trans (keeps_trans (keeps_trans (keeps_mono hdraw (by simp)) (hgran _ a)) (hgran _ b)) ?_
  exact keeps_trans (keeps_mono (keeps_setPart _ _ _) (by simp)) (keeps_mono (keeps_placeXts _ _ _) (by simp))

theorem xts_founded (hlock : s.keeper.locked = false) :
    Table.get? (founded s t p a b c cs).hbm.xts (p, 0) = some (xtsKey (founded s t p a b c cs) p 0) := by
  have hkeeper : (setGrans (setGrans (drawnDevice s cs) a (.owned p)) b (.owned p)).keeper = s.keeper :=
    (keeps_setGrans _ b _ .keeper (by simp)).trans (keeps_setGrans _ a _ .keeper (by simp))
  rw [founded, placeXts_xts _ _ _ (by rw [setPart_keeper, hkeeper, hlock])]
  exact congrArg some (xtsKey_congr (placeXts_hub _ _ _) (by rw [getPart_placeXts]) 0).symm

/-- A partition that has just been made waits for the seed buffer. -/
theorem wantsSeed_founded (hp : p ≠ 64) (herased : s.entropy.erased = false) (hdead : (getInst s p).live = false) :
    wantsSeed (founded s t p a b c cs) p = true := by
  have hinst : getInst (founded s t p a b c cs) p = getInst s p := by rw [getInst_founded, getInst_drawnDevice_ne _ _ hp]
  simp [wantsSeed, hinst, hdead, getPart_founded, newPart, founded_entropy, drawnDevice, setInst, herased]

/-- Whether another DRBG waits for the seed buffer does not change. -/
theorem wantsSeed_founded_ne {m : Nat} (hm : m ≠ p) : wantsSeed (founded s t p a b c cs) m = wantsSeed s m := by
  have hdrawn : (getInst (drawnDevice s cs) m).live = (getInst s m).live ∧ (getInst (drawnDevice s cs) m).owed = (getInst s m).owed ∧
      (getInst (drawnDevice s cs) m).stalled = (getInst s m).stalled := by
    by_cases h64 : m = 64
    · subst h64; simp [drawnDevice]
    · simp [getInst_drawnDevice_ne _ _ h64]
  obtain ⟨hlive, howed, hstall⟩ := hdrawn
  refine wantsSeed_congr ?_ ?_ ?_ ?_ ?_ ?_ (by rw [getPart_founded_ne _ _ _ _ _ _ _ hm])
  · rw [founded_entropy]; rfl
  · rw [founded_entropy]; rfl
  · rw [founded_entropy]; rfl
  · rw [getInst_founded, hlive]
  · rw [getInst_founded, howed]
  · rw [getInst_founded, hstall]

end Founded

section Created

variable (s : State) (t : Taken) {p : Nat} (a b : List (Nat × Nat)) (c : Bytes) (cs : List Bytes) (hp : p ≠ 64)
include hp

theorem getPart_created : ∃ n, getPart (created s t p a b c cs) p = { newPart s t p a b c with cellsUsed := n } := by
  obtain ⟨⟨n, hn⟩, _⟩ := onlyDrbg_instantiateOp (founded s t p a b c cs) hp
  exact ⟨n, by rw [created, hn, getPart_founded]⟩

theorem onlyPart_created : OnlyPart p s (created s t p a b c cs) := by
  obtain ⟨_, hparts, _⟩ := onlyDrbg_instantiateOp (founded s t p a b c cs) hp
  exact fun q hq => (hparts q hq).trans (getPart_founded_ne s t p a b c cs hq)

theorem keeps_created : Keeps [.parts, .partCells, .hbm, .entropy, .fns, .outputs] s (created s t p a b c cs) := by
  obtain ⟨_, _, _, hkeeps⟩ := onlyDrbg_instantiateOp (founded s t p a b c cs) hp
  exact keeps_trans (keeps_mono (keeps_founded s t p a b c cs) (by simp)) (keeps_mono hkeeps (by simp))

theorem queue_created : (getInst (created s t p a b c cs) 64).queue = cs := by
  obtain ⟨_, _, hinsts, _⟩ := onlyDrbg_instantiateOp (founded s t p a b c cs) hp
  rw [created, hinsts 64 hp.symm, getInst_founded]
  simp [drawnDevice]

theorem created_hbm : (created s t p a b c cs).hbm = (founded s t p a b c cs).hbm := by
  obtain ⟨_, _, _, hkeeps⟩ := onlyDrbg_instantiateOp (founded s t p a b c cs) hp
  exact hkeeps .hbm (by simp)

theorem getGran_created (g : Nat × Nat) : getGran (created s t p a b c cs) g = if g ∈ a ++ b then .owned p else getGran s g := by
  rw [getGran, created_hbm _ _ _ _ _ _ hp, ← getGran, getGran_founded]

theorem xts_created (hlock : s.keeper.locked = false) :
    Table.get? (created s t p a b c cs).hbm.xts (p, 0) = some (xtsKey (created s t p a b c cs) p 0) := by
  obtain ⟨⟨n, hn⟩, _, _, hkeeps⟩ := onlyDrbg_instantiateOp (founded s t p a b c cs) hp
  rw [created_hbm _ _ _ _ _ _ hp, xts_founded s t p a b c cs hlock]
  exact congrArg some (xtsKey_congr (hkeeps .hub (by simp)) (by rw [hn]) 0).symm

/-- The seed buffer serves the new partition's DRBG at once where two blocks are there and no other one waits (R340, R342). -/
theorem live_created (hseeds : 2 ≤ s.entropy.seeds.length) (herased : s.entropy.erased = false)
    (hdead : (getInst s p).live = false) (hothers : ∀ m, m < 65 → m ≠ p → wantsSeed s m = false) :
    (getInst (created s t p a b c cs) p).live = true := by
  refine live_instantiateOp _ hp (seedServes_only ?_ (wantsSeed_founded s t p a b c cs hp herased hdead) (fun m hm hmp => ?_)) ?_
  · rw [founded_entropy]; exact hseeds
  · rw [wantsSeed_founded_ne s t p a b c cs hmp]; exact hothers m hm hmp
  · rw [getInst_founded, getInst_drawnDevice_ne _ _ hp]; exact hdead

end Created

-- ------------------------------------------------------------------ the statement

/-- Settles O20: the creation takes its granules off the free ones of each die, and its DRBG leaves what was made; without room, or while the
partition is being scrubbed, it comes back later. -/
theorem partitionCreation : Obligations.PartitionCreation := by
  unfold Obligations.PartitionCreation
  refine ⟨?_, ?_, fun s ref t p hready hpart hp hhome hclass hscrub => partCreate_scrubbing hready hpart hp hhome hclass hscrub⟩
  · intro s ref t p g0 g1 c cs hready hpart hgran0 hgran1 hp hhome hclass habsent hg0 hg1 hdie0 hdie1 hroom0 hroom1 hlive hstall hqueue
    have hp64 : p ≠ 64 := by omega
    obtain ⟨a, b, hlen0, hlen1, hfree, hexec⟩ :=
      partCreate_founds ⟨hready, hpart, hgran0, hgran1, hp, hhome, hclass, habsent, hg0, hg1, hdie0, hdie1⟩ hroom0 hroom1 hlive hstall hqueue
    obtain ⟨n, hmade⟩ := getPart_created (keeperServed s t) t a b c cs hp64
    have hgran := getGran_created (keeperServed s t) t a b c cs hp64
    have honly := onlyPart_created (keeperServed s t) t a b c cs hp64
    refine ⟨_, hexec, ?_⟩
    simp only [hmade]
    exact ⟨rfl, rfl, rfl, rfl, stewardOf_keeperServed s t p, rfl, rfl, rfl, rfl, rfl, rfl, rfl, rfl, rfl, hlen0, hlen1,
      fun g hg => ⟨hfree g hg, (hgran g).trans (if_pos hg)⟩,
      fun g hg => (hgran g).trans ((if_neg hg).trans (getGran_keeperServed s t g)),
      fun hlock => xts_created _ _ _ _ _ _ hp64 ((keeperServed_locked s t).trans hlock),
      queue_created _ _ _ _ _ _ hp64,
      fun hseeds herased hdead hothers => live_created _ _ _ _ _ _ hp64 (by simpa using hseeds) (by simpa using herased)
        (by simpa using hdead) (by simpa using hothers),
      fun q hq => (honly q hq).trans (getPart_keeperServed s t q), keeps_created _ _ _ _ _ _ hp64⟩
  · intro s ref t p g0 g1 hready hpart hgran0 hgran1 hp hhome hclass habsent hg0 hg1 hdie0 hdie1 hroom
    exact partCreate_noRoom ⟨hready, hpart, hgran0, hgran1, hp, hhome, hclass, habsent, hg0, hg1, hdie0, hdie1⟩ hroom

end Sys2Proof.Proofs
end

section
/-! PROOFS. The commits of FINISHING: the end of the update pass, the weight records and the images (R198, R201, R211 to R213, R219,
R220), and O41. -/

namespace Sys2Proof.Proofs

open Sys2Proof.Machine Sys2Proof.Safety Sys2Proof.Laws

-- ------------------------------------------------------------------ the tiles of a round

@[simp] theorem getTile_setTile_self (r : Round) (i : Nat) (x : Tile) : getTile (setTile r i x) i = x := Table.getD_put_self _ _ _ _

theorem getTile_setTile_ne (r : Round) {i j : Nat} (x : Tile) (h : j ≠ i) : getTile (setTile r i x) j = getTile r j :=
  Table.getD_put_ne _ _ _ h

theorem onlyPart_setRound (s : State) (p : Nat) (r : Round) : OnlyPart p s (setRound s p r) := onlyPart_setPart _ _ _

-- ------------------------------------------------------------------ the end of the update pass

/-- A round with its finish in another pass. -/
def inPass (r : Round) (f : FinishPass) : Round := { r with finish := { r.finish with pass := f } }

/-- A package that runs a round alone owns every row (R406). -/
theorem ownsRow_alone {r : Round} (h : Alone r) (row : Nat) : ownsRow r row = true := by simp [ownsRow, show r.circuit = none from h]

/-- So it has no partial to send to another package. -/
theorem sendPartials_alone {r : Round} (h : Alone r) (s : State) (p : Nat) (word : Nat → Bytes) : sendPartials s p r word = s := by
  unfold sendPartials
  refine List.foldlRecOn (motive := fun u => u = s) _ _ rfl ?_
  intro u hu row _
  rw [if_pos (ownsRow_alone h row)]
  exact hu

theorem finishPassDone_update {s : State} {p : Nat} {r : Round} (hround : getRound s p = some r) (halone : Alone r)
    (hstate : r.state = .finishing) (hlost : r.lost = false) (hstep : canStep s p = true) (hpass : r.finish.pass = .update)
    (hall : ∀ t, t ∈ ownTiles r → (getTile r t).prim.phase = .finished) :
    exec (.finishPassDone p) s = .next (setRound s p (inPass r .rowMerge)) := by
  have hgoesOn : ¬ (r.state ≠ .finishing ∨ r.lost = true ∨ canStep s p = false) := by simp [hstate, hlost, hstep]
  have hdone : (ownTiles r).all (fun t => decide ((getTile r t).prim.phase = .finished)) = true := by simpa using hall
  show execFinishPassDone p s = _
  simp only [execFinishPassDone, hround, if_neg hgoesOn, hpass, if_pos hdone, sendPartials_alone halone, inPass]

-- ------------------------------------------------------------------ the two commits of a tile of the apply pass

/-- A tile of the package may commit in the apply pass, with the weights w and a whole record nw in its staging slot. -/
structure Applies (s : State) (p i : Nat) (r : Round) (w : Weights) (nw : List W32) : Prop where
  round : getRound s p = some r
  weights : (getPart s p).weights = some w
  state : r.state = .finishing
  pass : r.finish.pass = .apply
  ownTile : (ownTiles r).contains i = true
  notLost : r.lost = false
  step : canStep s p = true
  staging : (getTile r i).staging = some nw

/-- The tile once its record is STAGED. -/
def stagedTile (x : Partition) (r : Round) (i : Nat) (nw : List W32) : Tile :=
  { getTile r i with applyRec := .staged, leaf := leafDigest (wordsLe nw), maxima := tileMaxima x r.desc i }

/-- The tile once its record is APPLIED. -/
def appliedTile (r : Round) (i : Nat) : Tile := { getTile r i with applyRec := .applied, staging := none }

/-- The weights once the tile is APPLIED: its record is the new one, and with the last tile the digest is that of the new image (R213). -/
def appliedWeights (r : Round) (i : Nat) (w : Weights) (nw : List W32) : Weights :=
  let flat := putRecord r.desc (weightParts w.optimiser) w.flat i nw
  let r1 := setTile r i (appliedTile r i)
  { w with
    flat := flat
    digest := if (ownTiles r1).all (fun t => decide ((getTile r1 t).applyRec = .applied)) then
        weightsDigest r.desc (weightParts w.optimiser) flat (ownTiles r)
      else w.digest }

/-- The partition once the tile is APPLIED. -/
def appliedPart (x : Partition) (r : Round) (i : Nat) (w : Weights) (nw : List W32) : Partition :=
  { x with round := some (setTile r i (appliedTile r i)), weights := some (appliedWeights r i w nw) }

section Apply

variable {s : State} {p i : Nat} {r : Round} {w : Weights} {nw : List W32}

/-- Nothing keeps such a tile from its commit. -/
theorem Applies.goesOn (h : Applies s p i r w nw) : ¬ (r.state ≠ .finishing ∨ r.finish.pass ≠ .apply ∨
    (ownTiles r).contains i = false ∨ r.lost = true ∨ canStep s p = false) := by
  simp [-List.contains_eq_mem, h.state, h.pass, h.ownTile, h.notLost, h.step]

theorem applyTileCommit_stages (h : Applies s p i r w nw) (hrec : (getTile r i).applyRec = .untouched) :
    exec (.applyTileCommit p i) s = .next (setRound s p (setTile r i (stagedTile (getPart s p) r i nw))) := by
  show execApplyTileCommit p i s = _
  simp only [execApplyTileCommit, h.round, h.weights, if_neg h.goesOn, hrec, h.staging, stagedTile]

theorem applyTileCommit_applies (h : Applies s p i r w nw) (hrec : (getTile r i).applyRec = .staged) :
    exec (.applyTileCommit p i) s = .next (setPart s p (appliedPart (getPart s p) r i w nw)) := by
  show execApplyTileCommit p i s = _
  simp only [execApplyTileCommit, h.round, h.weights, if_neg h.goesOn, hrec, h.staging]
  rfl

end Apply

-- ------------------------------------------------------------------ the write of an image

/-- Image k is the next one of a round that exports, and all of it has been sealed. -/
structure ImageDue (s : State) (p k : Nat) (r : Round) : Prop where
  round : getRound s p = some r
  state : r.state = .finishing
  pass : r.finish.pass = .exporting
  next : nextImage r = some k
  notLost : r.lost = false
  step : canStep s p = true
  whole : sealedWhole (getPart s p) r k = true

/-- A round with one more image confirmed. -/
def confirmedRound (r : Round) (k : Nat) : Round :=
  { r with finish := { r.finish with confirmed := r.finish.confirmed ++ [k], sealed := [] } }

section Image

variable {s : State} {p k : Nat} {r : Round}

/-- Nothing keeps such an image from its write but its buffer and its port. -/
theorem ImageDue.goesOn (h : ImageDue s p k r) : ¬ (r.state ≠ .finishing ∨ r.finish.pass ≠ .exporting ∨ nextImage r ≠ some k ∨
    r.lost = true ∨ canStep s p = false ∨ sealedWhole (getPart s p) r k = false) := by
  simp [h.state, h.pass, h.next, h.notLost, h.step, h.whole]

theorem imageWriteConfirm_writes (h : ImageDue s p k r) {a : W64} {len : Nat} {port given : Port}
    (hbuf : Table.get? r.outbufs (if k = 1 then 1 else 0) = some (a, len, given)) (hfit : (sealedImage (getPart s p) r k).length ≤ len)
    (hserving : (getPart s p).serving = some port) (hlink : (getPort s port).linkUp = true) :
    exec (.imageWriteConfirm p k) s =
      .next (setRound (emit s (.data port a (sealedImage (getPart s p) r k))) p (confirmedRound r k)) := by
  have hport : outPort (getPart s p) = port := by simp [outPort, hserving]
  have hserves : ¬ ((getPart s p).serving = none ∨ (getPort s port).linkUp = false) := by simp [hserving, hlink]
  show execImageWriteConfirm p k s = _
  simp only [execImageWriteConfirm, h.round, if_neg h.goesOn, hbuf, if_neg (Nat.not_lt.mpr hfit), hport, if_neg hserves, confirmedRound]

theorem imageWriteConfirm_notReady (h : ImageDue s p k r)
    (hbuf : ∀ b, Table.get? r.outbufs (if k = 1 then 1 else 0) = some b → b.2.1 < (sealedImage (getPart s p) r k).length) :
    exec (.imageWriteConfirm p k) s = .next (roundStatusEvent s p .notReady (sealedImage (getPart s p) r k).length 0) := by
  show execImageWriteConfirm p k s = _
  cases hget : Table.get? r.outbufs (if k = 1 then 1 else 0) with
  | none => simp only [execImageWriteConfirm, h.round, if_neg h.goesOn, hget]
  | some b =>
    obtain ⟨a, len, given⟩ := b
    have hshort : len < (sealedImage (getPart s p) r k).length := hbuf _ hget
    simp only [execImageWriteConfirm, h.round, if_neg h.goesOn, hget, if_pos hshort]

end Image

-- ------------------------------------------------------------------ the statement

/-- Settles O41: each commit is one write of the round, with the weights where a record goes over them or the output where an image is
written; a package alone in its round sends no partials, and an image that does not fit adds an event and nothing else. -/
theorem finishingCommits : Obligations.FinishingCommits := by
  unfold Obligations.FinishingCommits
  refine ⟨?_, ?_, ?_, ?_, ?_⟩
  · intro s p r hround halone hstate hlost hstep hpass hall
    exact ⟨_, finishPassDone_update hround halone hstate hlost hstep hpass hall,
      ⟨_, getRound_setRound_self _ _ _, rfl, rfl, rfl⟩, onlyPart_setRound _ _ _, keeps_setRound _ _ _⟩
  · intro s p i r w nw hround hweights hstate hpass hown hlost hstep hrec hstaging
    exact ⟨_, applyTileCommit_stages ⟨hround, hweights, hstate, hpass, hown, hlost, hstep, hstaging⟩ hrec,
      ⟨_, getRound_setRound_self _ _ _, by simp [stagedTile], by simp [stagedTile, hstaging], by simp [stagedTile],
        by simp [stagedTile], fun j hj => getTile_setTile_ne _ _ hj⟩,
      by simp [setRound, hweights], onlyPart_setRound _ _ _, keeps_setRound _ _ _⟩
  · intro s p i r w nw hround hweights hstate hpass hown hlost hstep hrec hstaging
    exact ⟨_, applyTileCommit_applies ⟨hround, hweights, hstate, hpass, hown, hlost, hstep, hstaging⟩ hrec,
      ⟨_, appliedWeights r i w nw, by rw [getRound, getPart_setPart_self, appliedPart], by rw [getPart_setPart_self, appliedPart],
        by simp [appliedTile], by simp [appliedTile], rfl, rfl, fun j hj => getTile_setTile_ne _ _ hj⟩,
      onlyPart_setPart _ _ _, keeps_setPart_cells _ _ _ rfl rfl⟩
  · intro s p k len a port given r hround hstate hpass hnext hlost hstep hwhole hbuf hfit hserving hlink
    exact ⟨_, imageWriteConfirm_writes ⟨hround, hstate, hpass, hnext, hlost, hstep, hwhole⟩ hbuf hfit hserving hlink, rfl,
      ⟨_, getRound_setRound_self _ _ _, rfl, rfl, hstate⟩, onlyPart_setRound _ _ _,
      keeps_trans (keeps_mono (keeps_emit _ _) (by simp)) (keeps_mono (keeps_setRound _ _ _) (by simp))⟩
  · intro s p k r hround hstate hpass hnext hlost hstep hwhole hbuf
    exact ⟨_, imageWriteConfirm_notReady ⟨hround, hstate, hpass, hnext, hlost, hstep, hwhole⟩ hbuf, outputs_addEvent _ _ _,
      (getRound_addEvent _ _ _ _).trans hround, mem_roundStatusEvent _ _ _ _ _, keeps_roundStatusEvent _ _ _ _ _⟩

end Sys2Proof.Proofs
end

section
/-! PROOFS. The register files of the Sequencer and the instructions on them (R223, R236, R237, R244), and O43. -/

namespace Sys2Proof.Proofs

open Sys2Proof.Machine Sys2Proof.Safety Sys2Proof.Laws

-- ------------------------------------------------------------------ the register files

@[simp] theorem getX_setX (g : SeqRegs) (i j : BitVec 4) (v : W64) : getX (setX g i v) j = if j = i then v else getX g j := by
  simp only [getX, setX, Vector.getElem_set, BitVec.toNat_inj, eq_comm (a := j)]

@[simp] theorem getS_setS (g : SeqRegs) (i j : BitVec 4) (v : StreamDesc) : getS (setS g i v) j = if j = i then v else getS g j := by
  simp only [getS, setS, Vector.getElem_set, BitVec.toNat_inj, eq_comm (a := j)]

@[simp] theorem getL_setL (g : SeqRegs) (i j : BitVec 4) (v : W64) :
    getL (setL g i v) j = if j.toNat % 4 = i.toNat % 4 then v else getL g j := by
  simp only [getL, setL, Vector.getElem_set, eq_comm (a := j.toNat % 4)]

/-- A one in place i of a word, read at place j. -/
theorem getLsbD_one_shiftLeft {n : Nat} (i : Nat) {j : Nat} (hj : j < n) : ((1 : BitVec n) <<< i).getLsbD j = decide (j = i) := by
  rw [show (1 : BitVec n) <<< i = BitVec.twoPow n i from (BitVec.twoPow_eq n i).symm ▸ rfl, BitVec.getLsbD_twoPow]
  by_cases h : j = i
  · simp [← h, hj]
  · simp [h, Ne.symm h]

/-- Writing a bit of a word. -/
theorem getLsbD_writeBit {n : Nat} (q : BitVec n) (i : Nat) {j : Nat} (v : Bool) (hj : j < n) :
    ((q &&& ~~~((1 : BitVec n) <<< i)) ||| (if v then (1 : BitVec n) <<< i else 0)).getLsbD j = if j = i then v else q.getLsbD j := by
  have hone := getLsbD_one_shiftLeft i hj
  rw [BitVec.getLsbD_or, BitVec.getLsbD_and, BitVec.getLsbD_not, hone, decide_eq_true hj, Bool.true_and]
  cases v
  · by_cases hji : j = i <;> simp [hji]
  · rw [if_pos rfl, hone]
    by_cases hji : j = i <;> simp [hji]

theorem getQ_zero (g : SeqRegs) : getQ g 0 = true := rfl

theorem setQ_zero (g : SeqRegs) (v : Bool) : setQ g 0 v = g := rfl

theorem getQ_setQ (g : SeqRegs) {i j : Nat} (v : Bool) (hj : j < 8) :
    getQ (setQ g i v) j = if j = 0 then true else if j = i then v else getQ g j := by
  by_cases h0 : j = 0
  · subst h0; rfl
  · by_cases hi : i = 0
    · subst hi; simp [setQ_zero, h0]
    · rw [getQ, setQ, if_neg hi, if_neg h0, getLsbD_writeBit _ _ _ hj, getQ, decide_eq_false h0, Bool.false_or, Bool.false_or]

theorem setQ_frame (g : SeqRegs) (i : Nat) (v : Bool) :
    (setQ g i v).x = g.x ∧ (setQ g i v).s = g.s ∧ (setQ g i v).l = g.l ∧ (setQ g i v).pc = g.pc := by
  unfold setQ; split <;> exact ⟨rfl, rfl, rfl, rfl⟩

-- ------------------------------------------------------------------ what the instructions compute, in numbers

/-- SET with modifier 1: the immediate over the lower half of the register. -/
theorem append_lower_half (a : W32) (x : W64) :
    (a ++ x.setWidth 32 : BitVec 64) = BitVec.ofNat 64 (a.toNat * 2 ^ 32 + x.toNat % 2 ^ 32) := by
  refine BitVec.eq_of_toNat_eq ?_
  have hlow : x.toNat % 2 ^ 32 < 2 ^ 32 := Nat.mod_lt _ (by decide)
  have ha := a.isLt
  rw [BitVec.toNat_append, BitVec.toNat_setWidth, ← Nat.shiftLeft_add_eq_or_of_lt hlow, Nat.shiftLeft_eq, BitVec.toNat_ofNat]
  omega

theorem sub_eq_ofNat (x y : W64) : x - y = BitVec.ofNat 64 (x.toNat + 2 ^ 64 - y.toNat) := by
  bv_omega

theorem min_eq_ofNat (x y : W64) : (if x.toNat ≤ y.toNat then x else y) = BitVec.ofNat 64 (min x.toNat y.toNat) := by
  split
  · rw [Nat.min_eq_left ‹_›, BitVec.ofNat_toNat, BitVec.setWidth_eq]
  · rw [Nat.min_eq_right (by omega), BitVec.ofNat_toNat, BitVec.setWidth_eq]

theorem shift_eq_ofNat (right : Bool) (x : W64) (n : Nat) :
    (if right then x >>> n else x <<< n) = BitVec.ofNat 64 (if right then x.toNat / 2 ^ n else x.toNat * 2 ^ n) := by
  cases right
  · refine BitVec.eq_of_toNat_eq ?_
    simp [Nat.shiftLeft_eq]
  · refine BitVec.eq_of_toNat_eq ?_
    have hlt : x.toNat / 2 ^ n < 2 ^ 64 := Nat.lt_of_le_of_lt (Nat.div_le_self _ _) x.isLt
    rw [if_pos rfl, if_pos rfl, BitVec.toNat_ushiftRight, Nat.shiftRight_eq_div_pow, BitVec.toNat_ofNat, Nat.mod_eq_of_lt hlt]

theorem add_eq_ofNat (x y : W64) : x + y = BitVec.ofNat 64 (x.toNat + y.toNat) := by bv_omega

theorem mul_eq_ofNat (x y : W64) : x * y = BitVec.ofNat 64 (x.toNat * y.toNat) :=
  BitVec.eq_of_toNat_eq (by rw [BitVec.toNat_mul, BitVec.toNat_ofNat])

theorem cmpCond_ges {c : Nat} (h : 5 ≤ c) (x y : W64) : cmpCond c x y = decide (y.toInt ≤ x.toInt) := by
  unfold cmpCond
  rw [if_neg (by omega), if_neg (by omega), if_neg (by omega), if_neg (by omega), if_neg (by omega)]

theorem mul_bn (n : Nat) (b : Bool) : n * bn b = if b then n else 0 := by cases b <;> simp [bn]

-- ------------------------------------------------------------------ an instruction that issues, whatever its effect

/-- The state in which the effect of an instruction runs: the work stands at the next instruction, and one more is counted. -/
abbrev afterIssue (s : State) (cv : Nat) (w : Work) : State := setCv s cv (issuedCv (getCv s cv) w (nextWork w))

section Issue

variable {s : State} {cv op : Nat} {f : FWord} {w : Work} {r : Round} {i : Instr} {ready : Work → Round → Bool}
  {k : State → Work → Round → State} {P : State → Prop}

theorem canIssue_work (h : CanIssue s cv op f w r) : (getCv s cv).work = some w := h.1

theorem canIssue_round (h : CanIssue s cv op f w r) : getRound s w.part = some r := h.2.1

/-- An instruction whose meaning is one issue completes with its effect on the caravan after the issue. -/
theorem completes_issue (he : exec i s = .next (issue s cv op f ready k)) (h : CanIssue s cv op f w r) (hr : ready w r = true)
    (hP : P (k (afterIssue s cv w) (nextWork w) r)) : Completes i s P :=
  ⟨_, he.trans (congrArg _ (issue_can k h hr)), hP⟩

/-- While it is not ready, nothing changes. -/
theorem exec_issue_waits (he : exec i s = .next (issue s cv op f ready k)) (hw : (getCv s cv).work = some w)
    (hr : ∀ r, getRound s w.part = some r → ready w r = false) : exec i s = .next s :=
  he.trans (congrArg _ (issue_waits k hw hr))

/-- An effect that puts one work in the place of the issued one. -/
theorem completes_issue_work {v : Work} (he : exec i s = .next (issue s cv op f ready k)) (h : CanIssue s cv op f w r)
    (hr : ready w r = true) (hk : k (afterIssue s cv w) (nextWork w) r = setWork (afterIssue s cv w) cv v) :
    Completes i s (Issued s cv w v) :=
  completes_issue he h hr (by rw [hk]; exact issued_setWork s cv w (nextWork w) v)

/-- An effect that stops the work with a status. -/
theorem completes_issue_stops {st : Status} (he : exec i s = .next (issue s cv op f ready k)) (h : CanIssue s cv op f w r)
    (hr : ready w r = true) (hk : k (afterIssue s cv w) (nextWork w) r = raise (afterIssue s cv w) cv st) :
    Completes i s (Stops s cv w st) := by
  have ⟨_, hround, _, _, _, hlib, _⟩ := h
  exact completes_issue he h hr (by rw [hk]; exact stops_raise s cv w (nextWork w) st r hround hlib (sameCall_refl _) rfl)

end Issue

-- ------------------------------------------------------------------ the statement

/-- Settles O43: reads after writes, register file by register file, and each register instruction as one issue whose word arithmetic
is the arithmetic of the statement. -/
theorem registerInstructionsCompute : Obligations.RegisterInstructionsCompute := by
  unfold Obligations.RegisterInstructionsCompute
  refine ⟨⟨fun g i j v => ⟨getX_setX g i j v, rfl, rfl, rfl, rfl⟩, fun g i j v => ⟨getS_setS g i j v, rfl, rfl, rfl, rfl⟩,
    fun g i j v => ⟨getL_setL g i j v, rfl, rfl, rfl, rfl⟩,
    fun g i j v _ hj => ⟨getQ_zero g, setQ_zero g v, getQ_setQ g v hj, setQ_frame g i v⟩⟩,
    ?nop, ?set, ?addx, ?subx, ?mulx, ?minx, ?shx, ?andx, ?cmp, ?br, ?sset, ?lset, ?sdesc, ?other⟩
  case nop => exact computes_seqOp _ (fun _ _ _ => rfl) (fun _ _ => rfl)
  case set => exact computes_seqOp _ (fun _ _ _ => rfl) (fun f g => by rw [append_lower_half]; rfl)
  case addx => exact computes_seqOp _ (fun _ _ _ => rfl) (fun f g => by rw [add_eq_ofNat]; rfl)
  case subx => exact computes_seqOp _ (fun _ _ _ => rfl) (fun f g => by rw [sub_eq_ofNat]; rfl)
  case mulx => exact computes_seqOp _ (fun _ _ _ => rfl) (fun f g => by rw [mul_eq_ofNat]; rfl)
  case minx => exact computes_seqOp _ (fun _ _ _ => rfl) (fun f g => by rw [min_eq_ofNat]; rfl)
  case shx => exact computes_seqOp _ (fun _ _ _ => rfl) (fun f g => by rw [shift_eq_ofNat]; rfl)
  case andx => exact computes_seqOp _ (fun _ _ _ => rfl) (fun f g => rfl)
  case cmp =>
    refine computes_seqOp _ (fun _ _ _ => rfl) (fun f g => congrArg (setQ g f.dst.toNat) ?_)
    generalize f.modif.toNat / 2 = c
    match c with
    | 0 | 1 | 2 | 3 | 4 => rfl
    | c + 5 => exact cmpCond_ges (by omega) _ _
  case br => exact computes_seqOp _ (fun _ _ _ => rfl) (fun f g => by simp only [brTaken, bne_iff_ne])
  case sset => exact computes_seqOp _ (fun _ _ _ => rfl) (fun f g => rfl)
  case lset => exact computes_seqOp _ (fun _ _ _ => rfl) (fun f g => by rw [mul_bn])
  case sdesc => exact fun s cv f w r h => completes_issue_work rfl h rfl rfl
  case other => exact fun s cv f w hw hword => congrArg _ (issue_other _ hw hword)

end Sys2Proof.Proofs
end

section
/-! PROOFS. The markers and BYP (R84, R236, R237, R242, R244, R245, R426), and O44. -/

namespace Sys2Proof.Proofs

open Sys2Proof.Machine Sys2Proof.Safety Sys2Proof.Laws

-- ------------------------------------------------------------------ a marker with a condition of its own

section Marker

variable {s : State} {cv op : Nat} {f : FWord} {w : Work} {r : Round} {i : Instr} {fault : State → Round → Work → Option Status}
  {arm : Chain → Arm → Chain} {bad : Prop} {st : Status}

/-- The work once the marker has armed its stage. -/
abbrev armedWork (op : Nat) (f : FWord) (w : Work) (arm : Chain → Arm → Chain) : Work :=
  { nextWork w with chain := arm w.chain (armed op f w.regs) }

theorem marker_arms (he : exec i s = .next (marker s cv op f fault arm)) (h : CanIssue s cv op f w r)
    (hf : fault (afterIssue s cv w) r (nextWork w) = none) : Completes i s (Issued s cv w (armedWork op f w arm)) :=
  completes_issue_work he h rfl (by rw [hf]; rfl)

theorem marker_stops (he : exec i s = .next (marker s cv op f fault arm)) (h : CanIssue s cv op f w r)
    (hf : fault (afterIssue s cv w) r (nextWork w) = some st) : Completes i s (Stops s cv w st) :=
  completes_issue_stops he h rfl (by rw [hf])

variable [Decidable bad]

/-- A marker whose fault is one condition arms its stage where the condition fails. -/
theorem marker_arms_unless (he : exec i s = .next (marker s cv op f fault arm)) (h : CanIssue s cv op f w r)
    (hf : fault (afterIssue s cv w) r (nextWork w) = if bad then some st else none) (hbad : ¬ bad) :
    Completes i s (Issued s cv w (armedWork op f w arm)) :=
  marker_arms he h (hf.trans (if_neg hbad))

/-- Where the condition holds it stops its work. -/
theorem marker_stops_if (he : exec i s = .next (marker s cv op f fault arm)) (h : CanIssue s cv op f w r)
    (hf : fault (afterIssue s cv w) r (nextWork w) = if bad then some st else none) (hbad : bad) :
    Completes i s (Stops s cv w st) :=
  marker_stops he h (hf.trans (if_pos hbad))

end Marker

/-- A marker without a condition arms its stage whenever it can issue. -/
theorem arms_always {op : Nat} {mk : Nat → FWord → Instr} {arm : Chain → Arm → Chain}
    (he : ∀ cv f s, exec (mk cv f) s = .next (marker s cv op f noFault arm)) : Arms op mk (fun _ _ _ => True) arm :=
  fun s cv f _ _ h _ => marker_arms (he cv f s) h rfl

/-- A COMBINE marker takes its broadcast scalars from X0 to X7 (R242). -/
theorem combMarker_arms {s : State} {cv op : Nat} {f : FWord} {w : Work} {r : Round} {i : Instr}
    (he : exec i s = .next (combMarker s cv op f)) (h : CanIssue s cv op f w r) :
    Completes i s (Issued s cv w { nextWork w with chain := { w.chain with comb := some { armed op f w.regs with
      xa := getX w.regs (f.srcA - 8), xb := getX w.regs (f.srcB - 8) } } }) :=
  completes_issue_work he h rfl rfl

/-- An issue loads and zeroes no key slot: a slot is empty after it exactly where it was. -/
theorem slotEmpty_afterIssue (s : State) (cv : Nat) (w : Work) (stage : SlotStage) (p n : Nat) :
    (slotKey (afterIssue s cv w) cv stage p n).isNone = true ↔ slotKey s cv stage p n = none := by
  simp [slotKey, issuedCv]

theorem slotFull_afterIssue {s : State} {cv : Nat} {stage : SlotStage} {p n : Nat} (w : Work) (h : (slotKey s cv stage p n).isSome = true) :
    ¬ (slotKey (afterIssue s cv w) cv stage p n).isNone = true := by
  rw [slotEmpty_afterIssue]
  exact Option.isSome_iff_ne_none.mp h

-- ------------------------------------------------------------------ BYP

/-- With its caravans idle, a pair's back-chain island goes to retention; no other island's bit changes. -/
theorem restBack_eq (s : State) (cv : Nat) : ∃ x : BitVec 120, restBack s cv = { s with islands := { s.islands with retention := x } } ∧
    ∀ n, n ≠ backIsland cv → x.getLsbD n = s.islands.retention.getLsbD n := by
  unfold restBack
  simp only
  split
  · refine ⟨_, rfl, fun n hn => ?_⟩
    rw [BitVec.getLsbD_or]
    by_cases hlt : n < 120
    · rw [getLsbD_one_shiftLeft _ hlt, decide_eq_false hn, Bool.or_false]
    · rw [BitVec.getLsbD_of_ge _ n (Nat.not_lt.mp hlt), BitVec.getLsbD_of_ge _ n (Nat.not_lt.mp hlt), Bool.or_false]
  · exact ⟨s.islands.retention, rfl, fun _ _ => rfl⟩

theorem exec_byp {s : State} {cv : Nat} {f : FWord} {w : Work} {r : Round} (h : CanIssue s cv 0x13 f w r) :
    exec (.byp cv f) s = .next (
      let u := setCv s cv (issuedCv (getCv s cv) w { nextWork w with chain := bypass f.cls.toNat w.chain })
      if 6 ≤ f.cls.toNat then restBack u cv else u) := by
  have hmark : marker s cv 0x13 f noFault (fun c _ => bypass f.cls.toNat c) =
      setCv s cv (issuedCv (getCv s cv) w { nextWork w with chain := bypass f.cls.toNat w.chain }) := by
    rw [marker, issue_can _ h rfl]
    exact setWork_issuedCv _ _ _ _ _
  show execByp cv f s = _
  rw [execByp, hmark]
  simp [issuedCv]

/-- A class of the front chain leaves the islands alone. -/
theorem byp_front {s : State} {cv : Nat} {f : FWord} {w : Work} {r : Round} (h : CanIssue s cv 0x13 f w r) (hcls : f.cls.toNat < 6) :
    exec (.byp cv f) s = .next (setCv s cv (issuedCv (getCv s cv) w { nextWork w with chain := bypass f.cls.toNat w.chain })) :=
  (exec_byp h).trans (congrArg _ (if_neg (Nat.not_le.mpr hcls)))

theorem exec_byp_retention {s : State} {cv : Nat} {f : FWord} {w : Work} {r : Round} (h : CanIssue s cv 0x13 f w r) :
    ∃ x : BitVec 120, exec (.byp cv f) s = .next { setCv s cv (issuedCv (getCv s cv) w
        { nextWork w with chain := bypass f.cls.toNat w.chain }) with islands := { s.islands with retention := x } } ∧
      (f.cls.toNat < 6 → x = s.islands.retention) ∧
      ∀ n, n ≠ backIsland cv → x.getLsbD n = s.islands.retention.getLsbD n := by
  by_cases hcls : f.cls.toNat < 6
  · exact ⟨s.islands.retention, byp_front h hcls, fun _ => rfl, fun _ _ => rfl⟩
  · obtain ⟨x, hx, hbits⟩ := restBack_eq (setCv s cv (issuedCv (getCv s cv) w
      { nextWork w with chain := bypass f.cls.toNat w.chain })) cv
    refine ⟨x, ?_, fun hlt => absurd hlt hcls, hbits⟩
    rw [exec_byp h, if_pos (Nat.not_lt.mp hcls), hx]
    rfl

theorem keeps_retention (s : State) (x : BitVec 120) : Keeps [.islands] s { s with islands := { s.islands with retention := x } } := by
  intro c hc; cases c <;> simp_all [Comp.same, getPart]

-- ------------------------------------------------------------------ the statement

/-- Settles O44: a marker is one issue that either arms its stage or raises its status, by its one condition; BYP may set the retention
bit of the pair's back chain besides. -/
theorem markersArmTheirStages : Obligations.MarkersArmTheirStages := by
  unfold Obligations.MarkersArmTheirStages
  refine ⟨?bypOpen, ?byp, fun c => ⟨rfl, rfl⟩, ?openAead, arms_always (fun _ _ _ => rfl), ?ksFold, ?ksFoldBad,
    arms_always (fun _ _ _ => rfl), arms_always (fun _ _ _ => rfl), arms_always (fun _ _ _ => rfl), arms_always (fun _ _ _ => rfl),
    ?auto, ?autoBad, arms_always (fun _ _ _ => rfl), ?finNoise, arms_always (fun _ _ _ => rfl), arms_always (fun _ _ _ => rfl),
    ?finApply, ?finApplyBad, ?sealAead, arms_always (fun _ _ _ => rfl), ?comb⟩
  case bypOpen =>
    intro s cv f w r h hcls
    have hone : f.cls.toNat = 1 := congrArg BitVec.toNat hcls
    refine ⟨_, byp_front h (by omega), ?_⟩
    rw [hone]
    exact issued_setCv s cv w _
  case byp =>
    intro s cv f w r h
    obtain ⟨x, hx, hfront, hbits⟩ := exec_byp_retention h
    exact ⟨_, hx, getCv_setCv_self _ _ _, fun k hk => getCv_setCv_ne s _ hk, fun hlt => by rw [hfront hlt], rfl, hbits,
      keeps_trans (keeps_mono (keeps_setCv _ _ _) (by simp)) (keeps_mono (keeps_retention _ _) (by simp))⟩
  case openAead =>
    intro s cv f w r h key
    refine ⟨fun hkey => marker_arms_unless (i := .openAead cv f) rfl h rfl ?_,
      fun hmod hnone => marker_stops_if (i := .openAead cv f) rfl h rfl ⟨hmod, (slotEmpty_afterIssue _ _ _ _ _ _).mpr hnone⟩⟩
    rintro ⟨hmod, hnone⟩
    rcases hkey with hgf | hsome
    · exact hmod hgf
    · exact slotFull_afterIssue w hsome hnone
  case ksFold =>
    intro s cv f w r h hcount
    refine marker_arms_unless (i := .ksFold cv f) rfl h rfl ?_
    rintro (hzero | hmany)
    · rw [show getX w.regs f.srcB = 0 from hzero] at hcount
      exact absurd hcount.1 (by decide)
    · exact Nat.not_le.mpr hmany hcount.2
  case ksFoldBad => exact fun s cv f w r h hbad => marker_stops_if rfl h rfl hbad
  case auto => exact fun s cv f w r h hok => marker_arms_unless (i := .auto cv f) rfl h rfl (by omega)
  case autoBad => exact fun s cv f w r h hbad => marker_stops_if rfl h rfl hbad
  case finNoise =>
    exact fun s cv f w r h => ⟨fun hkey => marker_arms_unless (i := .finNoise cv f) rfl h rfl (slotFull_afterIssue w hkey),
      fun hkey => marker_stops_if (i := .finNoise cv f) rfl h rfl ((slotEmpty_afterIssue _ _ _ _ _ _).mpr hkey)⟩
  case finApply => exact fun s cv f w r h hrole => marker_arms_unless (i := .finApply cv f) rfl h rfl (not_not_intro hrole)
  case finApplyBad => exact fun s cv f w r h hrole => marker_stops_if rfl h rfl hrole
  case sealAead =>
    exact fun s cv f w r h => ⟨fun hkey => marker_arms_unless (i := .sealAead cv f) rfl h rfl (slotFull_afterIssue w hkey),
      fun hkey => marker_stops_if (i := .sealAead cv f) rfl h rfl ((slotEmpty_afterIssue _ _ _ _ _ _).mpr hkey)⟩
  case comb =>
    rintro op mk (hop | hop | hop) s cv f w r h <;> obtain ⟨rfl, rfl⟩ := Prod.mk.inj hop <;> exact combMarker_arms rfl h

end Sys2Proof.Proofs
end

section
/-! PROOFS. END, STEP, LINK, WAIT and KS.LOAD (R226, R227, R236, R239, R244, R245), and O45. -/

namespace Sys2Proof.Proofs

open Sys2Proof.Machine Sys2Proof.Safety Sys2Proof.Laws

section Control

variable {s : State} {cv : Nat} {f : FWord} {w : Work} {r : Round}

-- ------------------------------------------------------------------ STEP

/-- A STEP that may end the step suspends the work behind it, with a message on its Steward's mailbox. -/
theorem step_suspends (h : CanIssue s cv 0x0B f w r) (hmod : f.modif = 0) (hstill : chainStill s cv w = true)
    (haborted : r.state ≠ .aborted) (hretired : r.state ≠ .retired) (hlive : (getPart s w.part).phase = .live) (hnone : NoneErasing s) :
    Completes (.step cv f) s (fun u => (getCv u cv).stepping = false ∧ (getCv u cv).work = some (nextWork w) ∧
      (getCv u cv).mailbox = (getCv s cv).mailbox ++ [nextMail (getCv s cv) (getPart s w.part).steward .p2 w.part] ∧ OnlyCv cv s u ∧
      Keeps [.caravans, .fns, .taken, .cells, .partCells, .outputs, .parts] s u) := by
  have ⟨_, hround, _, hstopped, hending, hlib, _⟩ := h
  obtain ⟨hcv, hothers, hkeeps⟩ := endStep_suspends (s := afterIssue s cv w) (cv := cv) (w := nextWork w) hnone (getCv_work_issued _ _ _ _)
    hround haborted hretired hlive hlib hending hstopped
  refine completes_issue (ready := fun k _ => chainStill s cv k) (k := fun a _ _ => endStep a cv)
    (congrArg Host.Outcome.next (if_pos hmod)) h hstill ⟨?_, ?_, ?_, fun k hk => (hothers k hk).trans (getCv_setCv_ne _ _ hk), ?_⟩
  · rw [hcv]; rfl
  · rw [hcv]; simp only [getCv_setCv_self]; rfl
  · rw [hcv]; simp only [getCv_setCv_self]; rfl
  · exact keeps_trans (keeps_mono (keeps_setCv _ _ _) (by simp)) (keeps_mono hkeeps (by simp [posting]))

/-- A STEP that the chain holds back changes nothing. -/
theorem step_waits (hw : (getCv s cv).work = some w) (hmod : f.modif = 0) (hstill : chainStill s cv w = false) :
    exec (.step cv f) s = .next s :=
  exec_issue_waits (k := fun a _ _ => endStep a cv) (congrArg Host.Outcome.next (if_pos hmod)) hw (fun _ _ => hstill)

theorem stepYield_shows (h : CanIssue s cv 0x0B f w r) (hmod : f.modif = 1) :
    Completes (.stepYield cv f) s (Issued s cv w { w with regs := setQ (nextPc w.regs) f.dst.toNat w.yieldAsk }) :=
  completes_issue_work (congrArg Host.Outcome.next (if_pos hmod)) h rfl rfl

-- ------------------------------------------------------------------ LINK

/-- Is there room on the die for the ring of a work that links as the word says, beside the rings that stand there (R104)? -/
def linkFits (s : State) (cv : Nat) (f : FWord) (w : Work) : Bool := decide (ringUnitsOn (setWork s cv (linkedAs w f)) (dieOf cv) ≤ 240)

theorem link_joins (h : CanIssue s cv 0x10 f w r) (hchained : w.chained.isSome = true) (hfits : linkFits s cv f w = true)
    (hswept : w.swept = false) : Completes (.link cv f) s (Issued s cv w (linkedAs (nextWork w) f)) := by
  have hroom : ringUnitsOn (setWork s cv (linkedAs w f)) (dieOf cv) ≤ 240 := of_decide_eq_true hfits
  have hmay : ¬ ((nextWork w).chained.isNone = true ∨ (nextWork w).swept = true) := by
    simp [nextWork, hswept, Option.isSome_iff_ne_none.mp hchained]
  exact completes_issue_work rfl h (decide_eq_true (Or.inr hroom)) (if_neg hmay)

theorem link_afterSweep (h : CanIssue s cv 0x10 f w r) (hfits : linkFits s cv f w = true) (hswept : w.swept = true) :
    Completes (.link cv f) s (Stops s cv w .malformed) := by
  have hroom : ringUnitsOn (setWork s cv (linkedAs w f)) (dieOf cv) ≤ 240 := of_decide_eq_true hfits
  exact completes_issue_stops rfl h (decide_eq_true (Or.inr hroom)) (if_pos (Or.inr hswept))

theorem link_waits (hw : (getCv s cv).work = some w) (hchained : w.chained.isSome = true) (hfits : linkFits s cv f w = false) :
    exec (.link cv f) s = .next s := by
  have hfull : ¬ ringUnitsOn (setWork s cv (linkedAs w f)) (dieOf cv) ≤ 240 := of_decide_eq_false hfits
  refine exec_issue_waits rfl hw (fun _ _ => decide_eq_false ?_)
  rintro (hnone | hroom)
  · simp [Option.isSome_iff_ne_none.mp hchained] at hnone
  · exact hfull hroom

theorem link_unchained (h : CanIssue s cv 0x10 f w r) (hchained : w.chained = none) :
    Completes (.link cv f) s (Stops s cv w .malformed) := by
  have hnone : w.chained.isNone = true := Option.isNone_iff_eq_none.mpr hchained
  exact completes_issue_stops rfl h (decide_eq_true (Or.inl hnone)) (if_pos (Or.inl hnone))

-- ------------------------------------------------------------------ KS.LOAD

/-- The load that a KS.LOAD asks for: the records of a vault descriptor, from the seed slot on that Xb names. -/
def loadOf (f : FWord) (w : Work) : SeedLoad :=
  ⟨descBase (getS w.regs f.srcA), (getX w.regs f.srcB).toNat, descLength (getS w.regs f.srcA)⟩

/-- The descriptor of a KS.LOAD is legal, of space VAULT and within the vault. -/
structure LoadsVault (f : FWord) (w : Work) (r : Round) : Prop where
  legal : Machine.descOk (getS w.regs f.srcA) = true
  space : descSpace (getS w.regs f.srcA) = 7
  kind : descKind (getS w.regs f.srcA) = 0
  inside : (loadOf f w).first + (loadOf f w).count ≤ r.unmask.vault.length

theorem LoadsVault.form (h : LoadsVault f w r) :
    ¬ (Machine.descOk (getS w.regs f.srcA) = false ∨ descSpace (getS w.regs f.srcA) ≠ 7 ∨ descKind (getS w.regs f.srcA) ≠ 0) := by
  simp [h.legal, h.space, h.kind]

theorem ksLoad_queues (h : CanIssue s cv 0x30 f w r) (hd : LoadsVault f w r)
    (hbusy : slotsBusy w (loadOf f w).slot (loadOf f w).count = true) :
    Completes (.ksLoad cv f) s (Issued s cv w { nextWork w with flow := w.flow ++ [.load (loadOf f w)] }) := by
  exact completes_issue_work rfl h rfl ((if_neg hd.form).trans ((if_neg (Nat.not_lt.mpr hd.inside)).trans (if_pos hbusy)))

theorem ksLoad_fills (h : CanIssue s cv 0x30 f w r) (hd : LoadsVault f w r)
    (hfree : slotsBusy w (loadOf f w).slot (loadOf f w).count = false) {seeds : Table Nat (Nat × Bool × Bytes)}
    (hfill : fillSeeds r w.seeds (loadOf f w) = some seeds) :
    Completes (.ksLoad cv f) s (Issued s cv w { nextWork w with seeds := seeds }) := by
  have hbusy : ¬ slotsBusy w (loadOf f w).slot (loadOf f w).count = true := by simp [hfree]
  have hseeds : fillSeeds r (nextWork w).seeds ⟨descBase (getS (nextWork w).regs f.srcA), (getX (nextWork w).regs f.srcB).toNat,
    descLength (getS (nextWork w).regs f.srcA)⟩ = some seeds := hfill
  exact completes_issue_work rfl h rfl ((if_neg hd.form).trans ((if_neg (Nat.not_lt.mpr hd.inside)).trans ((if_neg hbusy).trans
    (by rw [hseeds]))))

end Control

-- ------------------------------------------------------------------ the statement

/-- Settles O45: each instruction is one issue with its effect on the work; STEP's effect is the end of the step, of which its law says
what it changes. -/
theorem controlInstructionsActOnTheWork : Obligations.ControlInstructionsActOnTheWork := by
  unfold Obligations.ControlInstructionsActOnTheWork
  refine ⟨fun s cv f w r h => completes_issue_work rfl h rfl rfl,
    fun s cv f w r h hmod hstill ha hr hlive hnone => step_suspends h hmod hstill ha hr hlive hnone,
    fun s cv f w r h hmod hstill => step_waits (canIssue_work h) hmod hstill, fun s cv f w r h hmod => stepYield_shows h hmod, ?link,
    fun s cv f w r h hnone => link_unchained h hnone, ?wait, ?waits, ?ksLoad, ?ksLoadBad⟩
  case link =>
    exact fun s cv f w r h hchained => ⟨fun hfits hswept => link_joins h hchained hfits hswept,
      fun hfits hswept => link_afterSweep h hfits hswept, fun hfits => link_waits (canIssue_work h) hchained hfits⟩
  case wait => exact fun s cv f w r h hready => completes_issue_work rfl h hready rfl
  case waits => exact fun s cv f w hw hready => exec_issue_waits rfl hw (fun _ _ => hready)
  case ksLoad =>
    rintro s cv f w r d q h rfl hlegal hspace hkind hinside rfl
    have hd : LoadsVault f w r := ⟨hlegal, hspace, hkind, hinside⟩
    exact ⟨fun hbusy => ksLoad_queues h hd hbusy, fun seeds hfree hfill => ksLoad_fills h hd hfree hfill⟩
  case ksLoadBad =>
    rintro s cv f w r h hbad
    refine completes_issue_stops rfl h rfl (if_pos ?_)
    rcases hbad with hlegal | hspace
    · exact Or.inl hlegal
    · exact Or.inr (Or.inl hspace)

end Sys2Proof.Proofs
end

section
/-! PROOFS. SWEEP: its checks, and its place in the chain (R82, R84, R88, R94, R238, R239, R241), and O46. -/

namespace Sys2Proof.Proofs

open Sys2Proof.Machine Sys2Proof.Safety Sys2Proof.Laws

section Sweep

variable {s : State} {cv : Nat} {w : Work} {r : Round}

-- ------------------------------------------------------------------ the chain as it runs

/-- A caravan that is in no chain with others runs its own stream entries only. -/
theorem pumpFlow_single (hw : (getCv s cv).work = some w) (hsingle : w.chained = none) :
    pumpFlow s cv = runFlow cv w.flow.length s := by
  simp [pumpFlow, runOne, hw, hsingle]

/-- A SWEEP of a stream other than a ring, with budget for all its beats, enters whole and has its effect. -/
theorem enterSweep_whole {c : Chain} {d : StreamDesc} {dst : Option StreamDesc} {n : Nat} {rest : List ChainItem} {t : State}
    (hspace : descSpace d ≠ 6) (hbudget : entryBeats (envOf s cv w r) c d n ≤ (getCv s cv).entryLeft)
    (heffect : sweepEffect (setCv s cv { getCv s cv with
        entryLeft := (getCv s cv).entryLeft - entryBeats (envOf s cv w r) c d n, work := some { w with flow := rest } })
      cv { w with flow := rest } r c d dst n [] = .ok t) :
    enterSweep s cv w r c d dst n 0 [] rest = (t, true) := by
  have hhere : beatsHere s cv w r c d n [] = entryBeats (envOf s cv w r) c d n := if_neg (fun h => hspace h.1)
  have hpulled : ∀ k, pullRing s cv w r d k [] = (s, []) := fun k => if_neg hspace
  simp only [enterSweep, hhere, hpulled, Nat.sub_zero, true_and, hbudget, decide_true, if_true, heffect]

/-- A work that runs, with its exit free and its islands up, is not held back from entering a stream. -/
structure Enters (s : State) (cv : Nat) (w : Work) (c : Chain) : Prop where
  stepping : (getCv s cv).stepping = true
  running : w.stopped = false
  exit : w.exitQ = []
  back : backReady s cv c = true
  hbm : hbmRuns s (dieOf cv) = true

/-- The last SWEEP in a chain enters whole, and the chain is empty. -/
theorem runFlow_whole {c : Chain} {d : StreamDesc} {dst : Option StreamDesc} {n : Nat} {t : State} (hw : (getCv s cv).work = some w)
    (hr : getRound s w.part = some r) (hflow : w.flow = [.sweep c d dst n 0 []]) (hready : Enters s cv w c) (hspace : descSpace d ≠ 6)
    (hbudget : entryBeats (envOf s cv w r) c d n ≤ (getCv s cv).entryLeft)
    (heffect : sweepEffect (setCv s cv { getCv s cv with
        entryLeft := (getCv s cv).entryLeft - entryBeats (envOf s cv w r) c d n, work := some { w with flow := [] } })
      cv { w with flow := [] } r c d dst n [] = .ok t) : runFlow cv 1 s = t := by
  have hgoes : ¬ ((getCv s cv).stepping = false ∨ w.stopped = true ∨ w.exitQ ≠ [] ∨ backReady s cv c = false ∨
      hbmRuns s (dieOf cv) = false) := by
    simp [hready.stepping, hready.running, hready.exit, hready.back, hready.hbm]
  simp only [runFlow, hw, hr, hflow, if_neg hgoes, enterSweep_whole hspace hbudget heffect, if_true]

-- ------------------------------------------------------------------ the instruction

variable {f : FWord}

/-- A SWEEP that can issue finds the controllers of its stacks, and the back chain where it arms it, running (R84, R361). -/
theorem stagesUp_sweep (h : CanIssue s cv 0x11 f w r) : backReady s cv w.chain = true ∧ hbmRuns s (dieOf cv) = true := by
  obtain ⟨hw, _, _, _, _, _, _, _, hup, _⟩ := h
  simp only [stagesUp, worksBack, hw, Option.any_some, Bool.and_eq_true] at hup
  obtain ⟨⟨_, hback⟩, hhbm⟩ := hup
  exact ⟨by simpa [usesBack, backReady] using hback, by simpa [usesHbm] using hhbm⟩

/-- The stream that a SWEEP enters, where it leaves and how many slots it takes, by its word and the registers. -/
abbrev sweepSource (f : FWord) (w : Work) : StreamDesc := getS w.regs f.srcA
abbrev sweepDest (f : FWord) (w : Work) : Option StreamDesc := if f.modif.getLsbD 0 then some (getS w.regs f.dst) else none

/-- The work with the stream in the chain behind what had issued, with the stages armed now. -/
abbrev sweepWork (f : FWord) (w : Work) : Work :=
  { nextWork w with flow := w.flow ++ [.sweep w.chain (sweepSource f w) (sweepDest f w) f.imm.toNat 0 []], swept := true }

/-- The first check that a SWEEP fails, when it issues. -/
abbrev sweepFaultNow (s : State) (cv : Nat) (f : FWord) (w : Work) (r : Round) : Option Status :=
  sweepFault (envOf (afterIssue s cv w) cv (nextWork w) r) w.chain (sweepSource f w) (sweepDest f w) f.imm.toNat

theorem sweep_enters (h : CanIssue s cv 0x11 f w r) (hout : sweepsOut w < 8) (hok : sweepFaultNow s cv f w r = none) :
    exec (.sweep cv f) s = .next (pumpFlow (setCv s cv (issuedCv (getCv s cv) w (sweepWork f w))) cv) := by
  show execSweep cv f s = _
  rw [execSweep, issue_can _ h (decide_eq_true hout)]
  have hok : sweepFault (envOf (afterIssue s cv w) cv (nextWork w) r) (nextWork w).chain (getS (nextWork w).regs f.srcA)
    (if f.modif.getLsbD 0 then some (getS (nextWork w).regs f.dst) else none) f.imm.toNat = none := hok
  simp only [hok, setWork_issuedCv]
  rfl

theorem sweep_fails {st : Status} (h : CanIssue s cv 0x11 f w r) (hout : sweepsOut w < 8) (hbad : sweepFaultNow s cv f w r = some st) :
    Completes (.sweep cv f) s (Stops s cv w st) := by
  have hbad : sweepFault (envOf (afterIssue s cv w) cv (nextWork w) r) (nextWork w).chain (getS (nextWork w).regs f.srcA)
    (if f.modif.getLsbD 0 then some (getS (nextWork w).regs f.dst) else none) f.imm.toNat = some st := hbad
  exact completes_issue_stops rfl h (decide_eq_true hout) (by simp only [hbad])

theorem sweep_waits (hw : (getCv s cv).work = some w) (hout : 8 ≤ sweepsOut w) : exec (.sweep cv f) s = .next s :=
  exec_issue_waits rfl hw (fun _ _ => decide_eq_false (Nat.not_lt.mpr hout))

/-- Behind a swap the stream stands and waits. -/
theorem pumpFlow_behindSwap {v : Work} {b : Bool} {l : List ChainItem} (hw : (getCv s cv).work = some v)
    (hr : getRound s v.part = some r) (hsingle : v.chained = none) (hflow : v.flow = .swap b :: l) : pumpFlow s cv = s :=
  (pumpFlow_single hw hsingle).trans (runFlow_swap hw hr hflow _)

/-- What holds a stream back is as it was before the issue. -/
theorem enters_issued {v : Work} (h : CanIssue s cv 0x11 f w r) (hstopped : v.stopped = w.stopped) (hexit : v.exitQ = []) :
    Enters (setCv s cv (issuedCv (getCv s cv) w v)) cv v w.chain := by
  have ⟨_, _, hstepping, hrunning, _⟩ := h
  obtain ⟨hback, hhbm⟩ := stagesUp_sweep h
  exact ⟨by simpa [issuedCv] using hstepping, hstopped.trans hrunning, hexit, hback, hhbm⟩

end Sweep

-- ------------------------------------------------------------------ the statement

/-- Settles O46: the stream joins the chain behind what issued before; a swap ahead of it holds it, and with nothing ahead and budget for
all its beats it enters whole. -/
theorem sweepsAreCheckedAndEnterTheChain : Obligations.SweepsAreCheckedAndEnterTheChain := by
  unfold Obligations.SweepsAreCheckedAndEnterTheChain
  refine ⟨?_, fun s cv f w r st h hout hbad => sweep_fails h hout hbad, fun s cv f w r hw _ hout => sweep_waits hw hout⟩
  rintro s cv f w r _ _ _ v _ u _ h hout rfl rfl rfl rfl rfl hok hv hu
  have henters : exec (.sweep cv f) s = .next (pumpFlow u cv) := by
    rw [hu, hv]
    exact sweep_enters h hout hok
  have hwork : (getCv u cv).work = some v := by rw [hu]; exact getCv_work_issued _ _ _ _
  have hround : getRound u v.part = some r := by rw [hu, hv]; exact (canIssue_round h :)
  refine ⟨henters, fun hsingle b l hflow => ?_, fun t hsingle hflow hexit hspace hbudget heffect => ?_⟩
  · rw [henters, pumpFlow_behindSwap hwork hround ((congrArg Work.chained hv).trans hsingle) (by rw [hv, hflow]; rfl)]
  · have hlast : v.flow = [.sweep w.chain (sweepSource f w) (sweepDest f w) f.imm.toNat 0 []] := by rw [hv, hflow]; rfl
    have hready : Enters u cv v w.chain := by
      rw [hu]
      exact enters_issued h (congrArg Work.stopped hv :) ((congrArg Work.exitQ hv).trans hexit)
    have hleft : (getCv u cv).entryLeft = (getCv s cv).entryLeft := by rw [hu]; simp [issuedCv]
    rw [← hleft] at hbudget heffect
    rw [henters, pumpFlow_single hwork ((congrArg Work.chained hv).trans hsingle), hlast]
    exact congrArg _ (runFlow_whole hwork hround hlast hready hspace hbudget heffect)

end Sys2Proof.Proofs
end

section
/-! PROOFS. The roles of a loaded itinerary set, and ITIN.LOAD (R247, R248, R250, R251), and O38. -/

namespace Sys2Proof.Proofs

open Sys2Proof.Machine Sys2Proof.Safety Sys2Proof.Laws

-- ------------------------------------------------------------------ the roles of a set

/-- What is gathered was there. -/
theorem mem_of_allSome {α : Type} : ∀ {l : List (Option α)} {xs : List α}, allSome l = some xs → ∀ x, x ∈ xs → some x ∈ l
  | [], xs, h, x, hx => by
    obtain rfl : [] = xs := Option.some.inj h
    exact absurd hx List.not_mem_nil
  | none :: l, xs, h, _, _ => by simp [allSome] at h
  | some a :: l, xs, h, x, hx => by
    cases hl : allSome l with
    | none => simp [allSome, hl] at h
    | some ys =>
      obtain rfl : a :: ys = xs := by simpa [allSome, hl] using h
      rcases List.mem_cons.mp hx with rfl | hy
      · exact List.mem_cons_self
      · exact List.mem_cons_of_mem _ (mem_of_allSome hl x hy)

theorem parseEntry_role {b : Bytes} {e : Nat × Nat × Nat × Nat} (h : parseEntry b = some e) : e.1 ≤ 6 := by
  unfold parseEntry at h
  simp only at h
  split at h
  case isTrue hok =>
    obtain ⟨_, _, hrole, _⟩ := hok
    rw [← Option.some.inj h]
    exact hrole
  case isFalse => cases h

theorem distinctKeys_nodup : ∀ {l : List (Nat × Nat)}, distinctKeys l = true → l.Nodup
  | [], _ => List.nodup_nil
  | k :: ks, h => by
    simp only [distinctKeys, Bool.and_eq_true, Bool.not_eq_true', List.contains_eq_mem, decide_eq_false_iff_not] at h
    exact List.nodup_cons.mpr ⟨h.1, distinctKeys_nodup h.2⟩

/-- Keys that differ only in the role differ in the role. -/
theorem roles_nodup {es : List (Nat × Nat × Nat × Nat)} (h : (es.map (fun e => (e.1, 0))).Nodup) : (es.map Prod.fst).Nodup :=
  List.pairwise_map.mpr ((List.pairwise_map.mp h).imp (fun hne hsame => hne (Prod.ext hsame rfl)))

/-- The itineraries of a set stand under the roles of its entries, in their order. -/
theorem parseCode_keys (b : Bytes) : ∀ {es : List (Nat × Nat × Nat × Nat)} {pos q : Nat} {its : List (Nat × Nat × List W64)},
    parseCode b pos es = some (its, q) → Table.keys its = es.map Prod.fst
  | [], pos, q, its, h => by
    obtain ⟨rfl, _⟩ := Prod.mk.inj (Option.some.inj h)
    rfl
  | e :: es, pos, q, its, h => by
    unfold parseCode at h
    split at h
    · cases h
    · split at h
      · cases h
      · rename_i l q' hrest
        obtain ⟨rfl, _⟩ := Prod.mk.inj (Option.some.inj h)
        exact congrArg (List.cons e.1) (parseCode_keys b hrest)

/-- The itineraries of a set that loads come from entries that passed R250, no two of one role. -/
theorem parseSet_entries {b : Bytes} {m : ItinSet} (h : parseSet b = some m) : ∃ es : List (Nat × Nat × Nat × Nat),
    (∀ e, e ∈ es → e.1 ≤ 6) ∧ distinctKeys (es.map (fun e => (e.1, 0))) = true ∧ Table.keys m.itins = es.map Prod.fst := by
  unfold parseSet at h
  simp only at h
  split at h
  · cases h
  split at h
  · cases h
  rename_i es hes
  split at h
  · cases h
  rename_i its q hcode
  split at h
  · cases h
  split at h
  case isFalse => cases h
  case isTrue hchecks =>
    obtain rfl := Option.some.inj h
    simp only [Bool.and_eq_true] at hchecks
    obtain ⟨⟨⟨⟨hdistinct, _⟩, _⟩, _⟩, _⟩ := hchecks
    refine ⟨es, fun e he => ?_, hdistinct, parseCode_keys b hcode⟩
    obtain ⟨piece, _, hpiece⟩ := List.mem_map.mp (mem_of_allSome hes e he)
    exact parseEntry_role hpiece

theorem parseSet_roles {b : Bytes} {m : ItinSet} (h : parseSet b = some m) :
    (Table.keys m.itins).Nodup ∧ ∀ role, role ∈ Table.keys m.itins → role ≤ 6 := by
  obtain ⟨es, hrange, hdistinct, hkeys⟩ := parseSet_entries h
  rw [hkeys]
  refine ⟨roles_nodup (distinctKeys_nodup hdistinct), fun role hrole => ?_⟩
  obtain ⟨e, he, rfl⟩ := List.mem_map.mp hrole
  exact hrange e he

-- ------------------------------------------------------------------ ITIN.LOAD

/-- ITIN.LOAD of a record that opens, with a slot free: the set into the slot, or MALFORMED. -/
theorem exec_itinLoad {s : State} {ref : CmdRef} {t : Taken} {p i : Nat} {buf : Bytes} {o : Opened} (h : KeeperReadyOn s ref 0x0901 t p)
    (hopen : openRecord (getPart s p).session t.desc.counter.toNat 4 (buf.take t.desc.length) = .ok o)
    (hfree : freeSetSlot (getPart s p).itins = some i) :
    exec (.itinLoad ref buf) s = .next (match parseSet o.content with
      | none => complete (keeperServed s t) t .malformed
      | some m =>
        complete (setPart (keeperServed s t) p { getPart s p with itins := Table.put (getPart s p).itins i m }) t .ok { r0 := i }) := by
  obtain ⟨hready, hpart⟩ := h
  show execItinLoad ref buf s = _
  simp only [execItinLoad, withKeeper_ready hready, hpart, getPart_keeperServed, hopen, hfree]
  cases parseSet o.content <;> rfl

-- ------------------------------------------------------------------ the statement

/-- Settles O38: what parses has the roles of its entries, each in range and all distinct; ITIN.LOAD puts what parses into the free slot. -/
theorem setsCarryEachRoleAtMostOnce : Obligations.SetsCarryEachRoleAtMostOnce := by
  unfold Obligations.SetsCarryEachRoleAtMostOnce
  refine ⟨fun b m h => parseSet_roles h, fun s ref t p i buf o h hopen hfree => ⟨fun m hset => ?_, fun hset => ?_⟩⟩
  · refine ⟨_, (exec_itinLoad h hopen hfree).trans (by rw [hset]), ?_, fun j hj => ?_, fun q hq => ?_, ?_⟩
    · rw [getPart_setPart_self, Table.get?_put_self]
    · rw [getPart_setPart_self, Table.get?_put_ne _ _ hj]
    · rw [getPart_setPart_ne _ _ hq, getPart_keeperServed]
    · exact keeps_setPart_cells _ _ _ (by simp) (by simp)
  · rw [exec_itinLoad h hopen hfree, hset]

end Sys2Proof.Proofs
end
